-- ==== Sys2Proof/Word.lean ====
section
/-! DEFINITION. The byte of the master ports' frames, and the index types of the part's numbered resources
(section 0.6 of spec/00_scope.md). -/

namespace Sys2Proof

/-- One byte of a frame (R179, R180). -/
abbrev Byte := BitVec 8

/-- A master port, P0 to P3. -/
abbrev Port := Fin 4

/-- A trigger line, TRG0 to TRG15. -/
abbrev LineNo := Fin 16

/-- A capture channel, CAP0 to CAP7. -/
abbrev ChanNo := Fin 8

/-- An index of the schedule table, 0 to 63. -/
abbrev EntryIx := Fin 64

/-- An index of the subscription table, 0 to 23. -/
abbrev SubIx := Fin 24

end Sys2Proof
end

