-- ==== Sys2Proof/Syntax.lean ====
section
/-! DEFINITION. The commands of the part: one constructor of Instr for each row of spec/opcode_table.json.
A request carries the port that sent it and its field bytes as numbers of the width R187 to R193 give them, so that
every value a master can send, a refused one too, is a command. The other rows are the events that reach the part from
outside (its pins, its supplies, the reference input) or from its own clocks (one device microsecond, a timer's end). -/

namespace Sys2Proof

/-- The level of a pin or of a line (R187: LOW 0, HIGH 1). -/
inductive PinLevel where
  | low
  | high
  deriving DecidableEq, Repr

/-- An optional field as it is sent (R187): a presence byte and the value bytes. -/
structure OptField (n : Nat) where
  presence : Byte
  value : BitVec n
  deriving DecidableEq, Repr

/-- The kind byte and the definition block of ARM_ENTRY and RETIME_ENTRY, as sent (R189). -/
inductive DefBlock where
  /-- AT: the target, seconds and microseconds. -/
  | atTime (seconds : BitVec 32) (micros : BitVec 24)
  /-- EVERY: the anchor and the period. -/
  | every (seconds : BitVec 32) (micros : BitVec 24) (period : BitVec 32)
  /-- CALENDAR: the six pattern fields (0xFF absent) and the microsecond offset. -/
  | calendar (month day weekday hour minute second : Byte) (offset : BitVec 24)
  /-- AFTER: the source channel, the trigger kinds, the delay and the retrigger policy. -/
  | after (channel kinds : Byte) (delay : BitVec 32) (policy : Byte)
  /-- A kind byte that names no kind. -/
  | unknown (kind : Byte)
  deriving DecidableEq, Repr

/-- The fields of ARM_ENTRY in the order they are sent (R73, R189). -/
structure ArmFields where
  defn : DefBlock
  lateOk : Byte
  remaining : OptField 16
  linePresence : Byte
  line : Byte
  action : Byte
  record : OptField 8
  shareable : Byte
  tag : BitVec 32
  keep : Byte
  deriving DecidableEq, Repr

/-- An event that falls due at an instant by the running of the part's own clocks. Where one falls at the same instant
as an advance of the timebase, either may be taken first (R7, R30, R123, R146, R173): the commands that let a device
microsecond pass name the ones taken first. One of them is the next one of the firings that an advance has left: naming it,
a command that makes the firings takes other events between two of them (R99, R173; log 30). -/
inductive DueEvent where
  | pulseEnd (line : LineNo)
  | holdExpiry (line : LineNo)
  | overflow (channel : ChanNo)
  | edge (channel : ChanNo)
  | windowEnd
  | loss
  | examine
  | firing
  deriving DecidableEq, Repr

/-- How much of an advance of the timebase a command of the rate source is, with the due events taken first. The count and
the firings of an advance fall at one instant, and an event of that instant may be taken before any of these (R67, R97,
R104, R107, R123, R173; log 30): the whole of a microsecond; or all of it but the firings that its advance calls for, which
are left; or the firings that an advance has left, of which no request comes between two (R127). -/
inductive Advance where
  | whole (first : List DueEvent)
  | count (first : List DueEvent)
  | firings (first : List DueEvent)
  deriving DecidableEq, Repr

/-- The commands: the 46 requests of R192, the two other transactions, and the events. -/
inductive Instr where
  /-- READ_TIME (R12). -/
  | readTime (port : Port)
  /-- READ_CALENDAR (R13). -/
  | readCalendar (port : Port)
  /-- CLAIM_AUTHORITY (R41): the optional key. -/
  | claimAuthority (port : Port) (key : OptField 64)
  /-- RELEASE_AUTHORITY (R44). -/
  | releaseAuthority (port : Port)
  /-- SET_KEY (R43): the optional key. -/
  | setKey (port : Port) (key : OptField 64)
  /-- SET_TIME (R48): the target. -/
  | setTime (port : Port) (seconds : BitVec 32) (micros : BitVec 24)
  /-- STEP (R49): the signed amount in microseconds. -/
  | step (port : Port) (amount : BitVec 32)
  /-- SLEW (R52): the signed amount in microseconds. -/
  | slew (port : Port) (amount : BitVec 32)
  /-- CANCEL_ADJUST (R56). -/
  | cancelAdjust (port : Port)
  /-- READ_ADJUST (R59). -/
  | readAdjust (port : Port)
  /-- SELECT_SOURCE (R24): the selection wanted. -/
  | selectSource (port : Port) (selection : Byte)
  /-- RESUME_REFERENCE (R36). -/
  | resumeReference (port : Port)
  /-- READ_CLOCK (R37). -/
  | readClock (port : Port)
  /-- CLEAR_BACKUP (R22). -/
  | clearBackup (port : Port)
  /-- ARM_ENTRY (R74). -/
  | armEntry (port : Port) (fields : ArmFields)
  /-- RETIME_ENTRY (R77): handle, kind and definition block, late-ok. -/
  | retimeEntry (port : Port) (index handleInst : Byte) (defn : DefBlock) (lateOk : Byte)
  /-- HOLD_ENTRY (R80): the handle. -/
  | holdEntry (port : Port) (index handleInst : Byte)
  /-- UNHOLD_ENTRY (R81): the handle. -/
  | unholdEntry (port : Port) (index handleInst : Byte)
  /-- CANCEL_ENTRY (R82): the handle. -/
  | cancelEntry (port : Port) (index handleInst : Byte)
  /-- READ_ENTRY (R84): the handle. -/
  | readEntry (port : Port) (index handleInst : Byte)
  /-- LIST_ENTRIES (R85): scope and start index. -/
  | listEntries (port : Port) (scope start : Byte)
  /-- SET_QUOTA (R69): the port named and its quota. -/
  | setQuota (port : Port) (target quota : Byte)
  /-- DIGEST (R172): scope and content. -/
  | digest (port : Port) (scope content : Byte)
  /-- CLAIM_LINE (R116). -/
  | claimLine (port : Port) (line : Byte)
  /-- RELEASE_LINE (R117). -/
  | releaseLine (port : Port) (line : Byte)
  /-- PIN_LINE (R118). -/
  | pinLine (port : Port) (line : Byte)
  /-- CONFIGURE_LINE (R119): line, idle level, pulse width, hold limit. -/
  | configureLine (port : Port) (line idle : Byte) (width holdLimit : BitVec 16)
  /-- DRIVE_LINE (R124): line and action. -/
  | driveLine (port : Port) (line action : Byte)
  /-- READ_LINE (R128). -/
  | readLine (port : Port) (line : Byte)
  /-- CLAIM_CHANNEL (R135). -/
  | claimChannel (port : Port) (channel : Byte)
  /-- RELEASE_CHANNEL (R136). -/
  | releaseChannel (port : Port) (channel : Byte)
  /-- SHARE_CHANNEL (R137): channel and shareable flag. -/
  | shareChannel (port : Port) (channel flag : Byte)
  /-- CONFIGURE_CHANNEL (R138): channel, mode, edge select, count source, record level. -/
  | configureChannel (port : Port) (channel mode edge source level : Byte)
  /-- START_CHANNEL (R139). -/
  | startChannel (port : Port) (channel : Byte)
  /-- STOP_CHANNEL (R140). -/
  | stopChannel (port : Port) (channel : Byte)
  /-- SET_RELOAD (R141): channel and reload. -/
  | setReload (port : Port) (channel : Byte) (reload : BitVec 16)
  /-- READ_CHANNEL (R150). -/
  | readChannel (port : Port) (channel : Byte)
  /-- SUBSCRIBE (R157): source kind, the two source bytes, kinds set, level. -/
  | subscribe (port : Port) (sourceKind source1 source2 kinds level : Byte)
  /-- UNSUBSCRIBE (R158): the subscription index. -/
  | unsubscribe (port : Port) (index : Byte)
  /-- TAKE_RECORD (R162). -/
  | takeRecord (port : Port)
  /-- READ_CONDITIONS (R165). -/
  | readConditions (port : Port)
  /-- ACK_CONDITIONS (R166): the condition set. -/
  | ackConditions (port : Port) (conditions : Byte)
  /-- SET_MASK (R167): the notice mask. -/
  | setMask (port : Port) (mask : Byte)
  /-- READ_RESET_CAUSE (R183). -/
  | readResetCause (port : Port)
  /-- DETACH (R182). -/
  | detach (port : Port)
  /-- IDENTIFY (R184). -/
  | identify (port : Port)
  /-- BAD_REQUEST (R180): any transaction given by the whole bytes clocked, and whether an incomplete byte follows them.
  It is taken through every frame check; a frame that passes them all is the request it spells (R180 step 5), and one of
  no whole byte is CS going high with nothing else. -/
  | badRequest (port : Port) (bytes : List Byte) (incomplete : Bool)
  /-- FETCH (R181): the number of whole bytes clocked, the code byte 0x00 among them. Of no byte it is the beginning of a
  transaction of any kind: CS goes low, and the status byte and the slot are sampled (R179, log 9); with CS low already it
  changes nothing (log 4). -/
  | fetch (port : Port) (clocked : Nat)
  /-- PORT_RESET (R182): PRST goes low. -/
  | portReset (port : Port)
  /-- PORT_LEAVES_RESET_HOLD (R178): PRST goes high. -/
  | portLeavesResetHold (port : Port)
  /-- DEVICE_RESET (R21): the RESET input goes low. -/
  | deviceReset
  /-- PART_LEAVES_RESET (R185): the RESET input goes high; the AUTH_SEL straps as sampled then (R39). -/
  | partLeavesReset (straps : BitVec 3)
  /-- POWER_ON_RETAINED (R19): the main supply comes and the retention mark is present; the AUTH_SEL straps. -/
  | powerOnRetained (straps : BitVec 3)
  /-- POWER_ON_BACKUP_LOST (R20): the main supply comes and the retention mark is absent; the AUTH_SEL straps. -/
  | powerOnBackupLost (straps : BitVec 3)
  /-- MAIN_SUPPLY_LOSS (R18). -/
  | mainSupplyLoss
  /-- BACKUP_SUPPLY_LOSS (R18). -/
  | backupSupplyLoss
  /-- BACKUP_SUPPLY_RETURN (R18). -/
  | backupSupplyReturn
  /-- TIMEBASE_ADVANCE (R2): one microsecond of the rate source, whole or in parts. -/
  | timebaseAdvance (part : Advance)
  /-- SLEW_BLOCK_END (R14): the microsecond that is the thousandth of a slew block. -/
  | slewBlockEnd (part : Advance)
  /-- SLEW_END (R14, R53): the microsecond that takes the slew remaining to 0. -/
  | slewEnd (part : Advance)
  /-- REFERENCE_EDGE (R27, R30): an edge of the reference input, and the time since the edge before it on the internal
  oscillator, in thousandths of a microsecond (R26). -/
  | referenceEdge (gap : Nat)
  /-- WINDOW_END (R26). -/
  | windowEnd
  /-- REFERENCE_LOSS (R30): 1 microsecond of the internal oscillator has passed with no edge; taken where it can have
  passed (log 10). -/
  | referenceLoss
  /-- PULSE_END (R121). -/
  | pulseEnd (line : LineNo)
  /-- HOLD_EXPIRY (R122). -/
  | holdExpiry (line : LineNo)
  /-- CAPTURE_PIN_CHANGE (R133): the raw level of a capture pin. -/
  | capturePinChange (channel : ChanNo) (level : PinLevel)
  /-- EDGE_TAKEN (R133). -/
  | edgeTaken (channel : ChanNo)
  /-- MEASUREMENT_OVERFLOW (R146). -/
  | measurementOverflow (channel : ChanNo)
  /-- COUNTER_EXPIRY (R147): the count event that takes the channel's counter to 0. -/
  | counterExpiry (channel : ChanNo)
  /-- DIGEST_EXAMINE_INDEX (R173). -/
  | digestExamineIndex
  deriving DecidableEq, Repr

/-- How many of a DefBlock's bytes follow the kind byte (R189). -/
def DefBlock.length : DefBlock → Nat
  | .atTime _ _ => 7
  | .every _ _ _ => 11
  | .calendar _ _ _ _ _ _ _ => 9
  | .after _ _ _ _ => 7
  | .unknown _ => 0

end Sys2Proof
end

