-- ==== Sys2Proof/WellFormed.lean ====
section
/-! DEFINITION. When a command is one that a frame, or the part's surroundings, can present: the presence bytes of R187,
a kind byte that really names no kind, a transaction that is no fetch. The meanings do not ask for it:
they are total on every command. -/

namespace Sys2Proof

/-- A presence byte is 0x00 or 0x01, and the value bytes of an absent field are zero (R187). -/
def OptField.wellFormed {n : Nat} (o : OptField n) : Bool :=
  o.presence == 1 || (o.presence == 0 && o.value == 0)

/-- A kind byte that names no kind is above AFTER 3 (R187). -/
def DefBlock.wellFormed : DefBlock → Bool
  | .unknown k => decide (3 < k.toNat)
  | _ => true

/-- The optional fields of ARM_ENTRY are in form (R187, R189). -/
def ArmFields.wellFormed (f : ArmFields) : Bool :=
  f.defn.wellFormed && f.remaining.wellFormed && f.record.wellFormed &&
    (f.linePresence == 1 || (f.linePresence == 0 && f.line == 0 && f.action == 0))

/-- The bytes of a transaction other than a fetch: none, or a first one that is not the fetch code 0x00 (section 10.2,
R180). -/
def beginsRequest : List Byte → Bool
  | [] => true
  | b :: _ => b != 0

/-- The well-formedness of a command. -/
def Instr.wellFormed : Instr → Bool
  | .claimAuthority _ k => k.wellFormed
  | .setKey _ k => k.wellFormed
  | .armEntry _ f => f.wellFormed
  | .retimeEntry _ _ _ d _ => d.wellFormed
  | .badRequest _ bs _ => beginsRequest bs
  | .fetch _ _ | .readTime _ | .readCalendar _ | .releaseAuthority _ | .setTime _ _ _ | .step _ _ | .slew _ _
  | .cancelAdjust _ | .readAdjust _ | .selectSource _ _ | .resumeReference _ | .readClock _ | .clearBackup _
  | .holdEntry _ _ _ | .unholdEntry _ _ _ | .cancelEntry _ _ _ | .readEntry _ _ _ | .listEntries _ _ _
  | .setQuota _ _ _ | .digest _ _ _ | .claimLine _ _ | .releaseLine _ _ | .pinLine _ _
  | .configureLine _ _ _ _ _ | .driveLine _ _ _ | .readLine _ _ | .claimChannel _ _ | .releaseChannel _ _
  | .shareChannel _ _ _ | .configureChannel _ _ _ _ _ _ | .startChannel _ _ | .stopChannel _ _
  | .setReload _ _ _ | .readChannel _ _ | .subscribe _ _ _ _ _ _ | .unsubscribe _ _ | .takeRecord _
  | .readConditions _ | .ackConditions _ _ | .setMask _ _ | .readResetCause _ | .detach _ | .identify _
  | .portReset _ | .portLeavesResetHold _ | .deviceReset | .partLeavesReset _ | .powerOnRetained _
  | .powerOnBackupLost _ | .mainSupplyLoss | .backupSupplyLoss | .backupSupplyReturn | .timebaseAdvance _
  | .slewBlockEnd _ | .slewEnd _ | .referenceEdge _ | .windowEnd | .referenceLoss | .pulseEnd _
  | .holdExpiry _ | .capturePinChange _ _ | .edgeTaken _ | .measurementOverflow _ | .counterExpiry _
  | .digestExamineIndex => true

end Sys2Proof
end

