-- ==== Sys2Proof/Decode.lean ====
section
/-! DEFINITION. Reading a command from bits. The rows of spec/opcode_table.json give no bits, so decodeTableWord reads
none; but R180, R187, R189 and R192 give the frames in which the requests are sent, so this file also holds the
decoder of a transaction's bytes and, after it, the encoder of a request's frame. -/

namespace Sys2Proof

/-- The command that a word spells by the table's bits: no row of the table gives bits. -/
def decodeTableWord (_nbits _w : Nat) : Option Instr := none

/-! ## Byte order and the frame's CRC -/

/-- The low k bytes of n, the most significant first (R187). -/
def bytesBE : Nat → Nat → List Byte
  | 0, _ => []
  | k + 1, n => BitVec.ofNat 8 (n / 256 ^ k) :: bytesBE k n

/-- The number that bytes spell, the most significant first (R187). -/
def natBE (bs : List Byte) : Nat := bs.foldl (fun a b => a * 256 + b.toNat) 0

/-- One bit of the CRC-8 register, polynomial 0x07, not reflected (R180). -/
def crc8Bit (r : Byte) : Byte := if r.msb then (r <<< 1) ^^^ 0x07 else r <<< 1

/-- One byte into the CRC-8 register, most significant bit first (R180). -/
def crc8Byte (r b : Byte) : Byte :=
  crc8Bit (crc8Bit (crc8Bit (crc8Bit (crc8Bit (crc8Bit (crc8Bit (crc8Bit (r ^^^ b))))))))

/-- The CRC-8 of bytes, initial value 0xFF, no final complement (R180). -/
def crc8 (bs : List Byte) : Byte := bs.foldl crc8Byte 0xFF

/-! ## The request code table -/

/-- How the field length of a request is found (R180 step 4, R192). -/
inductive LengthRule where
  /-- the number of R192's "Bytes" column -/
  | fixed (n : Nat)
  /-- ARM_ENTRY: by the kind byte, the first field byte -/
  | armByKind
  /-- RETIME_ENTRY: by the kind byte, the third field byte -/
  | retimeByKind
  deriving DecidableEq, Repr

/-- The request code table of R192; none for a code that names no request. -/
def lengthRule (code : Byte) : Option LengthRule :=
  match code.toNat with
  | 0x01 => some (.fixed 0) | 0x02 => some (.fixed 0)
  | 0x10 => some (.fixed 9) | 0x11 => some (.fixed 0) | 0x12 => some (.fixed 9) | 0x13 => some (.fixed 7)
  | 0x14 => some (.fixed 4) | 0x15 => some (.fixed 4) | 0x16 => some (.fixed 0) | 0x17 => some (.fixed 0)
  | 0x20 => some (.fixed 1) | 0x21 => some (.fixed 0) | 0x22 => some (.fixed 0) | 0x28 => some (.fixed 0)
  | 0x30 => some .armByKind | 0x31 => some .retimeByKind
  | 0x32 => some (.fixed 2) | 0x33 => some (.fixed 2) | 0x34 => some (.fixed 2) | 0x35 => some (.fixed 2)
  | 0x36 => some (.fixed 2) | 0x37 => some (.fixed 2) | 0x38 => some (.fixed 2)
  | 0x40 => some (.fixed 1) | 0x41 => some (.fixed 1) | 0x42 => some (.fixed 1) | 0x43 => some (.fixed 6)
  | 0x44 => some (.fixed 2) | 0x45 => some (.fixed 1)
  | 0x50 => some (.fixed 1) | 0x51 => some (.fixed 1) | 0x52 => some (.fixed 2) | 0x53 => some (.fixed 5)
  | 0x54 => some (.fixed 1) | 0x55 => some (.fixed 1) | 0x56 => some (.fixed 3) | 0x57 => some (.fixed 1)
  | 0x60 => some (.fixed 5) | 0x61 => some (.fixed 1) | 0x62 => some (.fixed 0) | 0x63 => some (.fixed 0)
  | 0x64 => some (.fixed 1) | 0x65 => some (.fixed 1)
  | 0x70 => some (.fixed 0) | 0x71 => some (.fixed 0) | 0x72 => some (.fixed 0)
  | _ => none

/-- The length of the definition block of each kind code (R189); none for a byte that names no kind. -/
def blockLength (kind : Byte) : Option Nat :=
  match kind.toNat with
  | 0 => some 7
  | 1 => some 11
  | 2 => some 9
  | 3 => some 7
  | _ => none

/-! ## Decoding a transaction -/

/-- The k bytes of fields at an offset, as a number of n bits (R187). -/
def wordAt (n k off : Nat) (fields : List Byte) : BitVec n := BitVec.ofNat n (natBE ((fields.drop off).take k))

/-- The field byte at an offset. -/
def byteAt (off : Nat) (fields : List Byte) : Byte := fields.getD off 0

/-- The definition block at an offset, of the kind that a kind byte names (R189). -/
def blockAt (kind : Byte) (off : Nat) (f : List Byte) : DefBlock :=
  match kind.toNat with
  | 0 => .atTime (wordAt 32 4 off f) (wordAt 24 3 (off + 4) f)
  | 1 => .every (wordAt 32 4 off f) (wordAt 24 3 (off + 4) f) (wordAt 32 4 (off + 7) f)
  | 2 => .calendar (byteAt off f) (byteAt (off + 1) f) (byteAt (off + 2) f) (byteAt (off + 3) f) (byteAt (off + 4) f)
      (byteAt (off + 5) f) (wordAt 24 3 (off + 6) f)
  | 3 => .after (byteAt off f) (byteAt (off + 1) f) (wordAt 32 4 (off + 2) f) (byteAt (off + 6) f)
  | _ => .unknown kind

/-- The fields of ARM_ENTRY after its kind byte and its block of n bytes (R189). -/
def armAt (n : Nat) (f : List Byte) : ArmFields :=
  { defn := blockAt (byteAt 0 f) 1 f
    lateOk := byteAt (n + 1) f
    remaining := ⟨byteAt (n + 2) f, wordAt 16 2 (n + 3) f⟩
    linePresence := byteAt (n + 5) f
    line := byteAt (n + 6) f
    action := byteAt (n + 7) f
    record := ⟨byteAt (n + 8) f, byteAt (n + 9) f⟩
    shareable := byteAt (n + 10) f
    tag := wordAt 32 4 (n + 11) f
    keep := byteAt (n + 15) f }

/-- The request that a code of the table and its field bytes spell (R187, R189, R192). R189 and R192 give the order of the
fields of ARM_ENTRY, RETIME_ENTRY and SUBSCRIBE; the other requests of several fields are read in the order in which the
rule of the request names them, which is the model's choice (log 33). -/
def requestOf (p : Port) (code : Byte) (f : List Byte) : Option Instr :=
  match code.toNat with
  | 0x01 => some (.readTime p)
  | 0x02 => some (.readCalendar p)
  | 0x10 => some (.claimAuthority p ⟨byteAt 0 f, wordAt 64 8 1 f⟩)
  | 0x11 => some (.releaseAuthority p)
  | 0x12 => some (.setKey p ⟨byteAt 0 f, wordAt 64 8 1 f⟩)
  | 0x13 => some (.setTime p (wordAt 32 4 0 f) (wordAt 24 3 4 f))
  | 0x14 => some (.step p (wordAt 32 4 0 f))
  | 0x15 => some (.slew p (wordAt 32 4 0 f))
  | 0x16 => some (.cancelAdjust p)
  | 0x17 => some (.readAdjust p)
  | 0x20 => some (.selectSource p (byteAt 0 f))
  | 0x21 => some (.resumeReference p)
  | 0x22 => some (.readClock p)
  | 0x28 => some (.clearBackup p)
  | 0x30 => some (.armEntry p (armAt ((blockLength (byteAt 0 f)).getD 0) f))
  | 0x31 => some (.retimeEntry p (byteAt 0 f) (byteAt 1 f) (blockAt (byteAt 2 f) 3 f)
      (byteAt (3 + (blockLength (byteAt 2 f)).getD 0) f))
  | 0x32 => some (.holdEntry p (byteAt 0 f) (byteAt 1 f))
  | 0x33 => some (.unholdEntry p (byteAt 0 f) (byteAt 1 f))
  | 0x34 => some (.cancelEntry p (byteAt 0 f) (byteAt 1 f))
  | 0x35 => some (.readEntry p (byteAt 0 f) (byteAt 1 f))
  | 0x36 => some (.listEntries p (byteAt 0 f) (byteAt 1 f))
  | 0x37 => some (.setQuota p (byteAt 0 f) (byteAt 1 f))
  | 0x38 => some (.digest p (byteAt 0 f) (byteAt 1 f))
  | 0x40 => some (.claimLine p (byteAt 0 f))
  | 0x41 => some (.releaseLine p (byteAt 0 f))
  | 0x42 => some (.pinLine p (byteAt 0 f))
  | 0x43 => some (.configureLine p (byteAt 0 f) (byteAt 1 f) (wordAt 16 2 2 f) (wordAt 16 2 4 f))
  | 0x44 => some (.driveLine p (byteAt 0 f) (byteAt 1 f))
  | 0x45 => some (.readLine p (byteAt 0 f))
  | 0x50 => some (.claimChannel p (byteAt 0 f))
  | 0x51 => some (.releaseChannel p (byteAt 0 f))
  | 0x52 => some (.shareChannel p (byteAt 0 f) (byteAt 1 f))
  | 0x53 => some (.configureChannel p (byteAt 0 f) (byteAt 1 f) (byteAt 2 f) (byteAt 3 f) (byteAt 4 f))
  | 0x54 => some (.startChannel p (byteAt 0 f))
  | 0x55 => some (.stopChannel p (byteAt 0 f))
  | 0x56 => some (.setReload p (byteAt 0 f) (wordAt 16 2 1 f))
  | 0x57 => some (.readChannel p (byteAt 0 f))
  | 0x60 => some (.subscribe p (byteAt 0 f) (byteAt 1 f) (byteAt 2 f) (byteAt 3 f) (byteAt 4 f))
  | 0x61 => some (.unsubscribe p (byteAt 0 f))
  | 0x62 => some (.takeRecord p)
  | 0x63 => some (.readConditions p)
  | 0x64 => some (.ackConditions p (byteAt 0 f))
  | 0x65 => some (.setMask p (byteAt 0 f))
  | 0x70 => some (.readResetCause p)
  | 0x71 => some (.detach p)
  | 0x72 => some (.identify p)
  | _ => none

/-- What a transaction's bytes are (section 10.2, R180). -/
inductive Transaction where
  /-- no byte was clocked -/
  | nothing
  /-- the first byte is 0x00: a fetch, of this many whole bytes -/
  | fetch (clocked : Nat)
  /-- a request frame that fails the form, the CRC or the length check -/
  | frameError
  /-- a code that names no request -/
  | badRequest
  /-- a kind byte that names no kind -/
  | badArg
  /-- a frame that passes all four checks, and the request it spells -/
  | request (i : Instr)
  deriving DecidableEq, Repr

/-- Step 4 of R180, the field length, and then the request the fields spell. -/
def checkLength (p : Port) (code : Byte) (rule : LengthRule) (f : List Byte) : Transaction :=
  let spelled := match requestOf p code f with
    | some i => Transaction.request i
    | none => Transaction.badRequest
  match rule with
  | .fixed n => if f.length = n then spelled else .frameError
  | .armByKind =>
    if f.length = 0 then .frameError
    else match blockLength (byteAt 0 f) with
      | none => .badArg
      | some n => if f.length = n + 16 then spelled else .frameError
  | .retimeByKind =>
    if f.length < 3 then .frameError
    else match blockLength (byteAt 2 f) with
      | none => .badArg
      | some n => if f.length = n + 4 then spelled else .frameError

/-- A transaction of whole bytes on a port, with or without an incomplete last byte, through the checks of R180 in
order: form, CRC, code, length. -/
def decodeFrame (p : Port) (bytes : List Byte) (incomplete : Bool) : Transaction :=
  match bytes with
  | [] => .nothing
  | code :: rest =>
    if code = 0 then .fetch bytes.length
    else match rest with
      | [] => .frameError
      | len :: tail =>
        if incomplete || bytes.length ≠ len.toNat + 3 then .frameError
        else
          let f := tail.take len.toNat
          if crc8 (code :: len :: f) ≠ byteAt len.toNat tail then .frameError
          else match lengthRule code with
            | none => .badRequest
            | some rule => checkLength p code rule f

/-! ## Encoding a request frame -/

/-- The bytes of a definition block, after its kind byte (R189). -/
def DefBlock.bytes : DefBlock → List Byte
  | .atTime s m => bytesBE 4 s.toNat ++ bytesBE 3 m.toNat
  | .every s m p => bytesBE 4 s.toNat ++ bytesBE 3 m.toNat ++ bytesBE 4 p.toNat
  | .calendar mo d w h mi s o => [mo, d, w, h, mi, s] ++ bytesBE 3 o.toNat
  | .after c k d pol => [c, k] ++ bytesBE 4 d.toNat ++ [pol]
  | .unknown _ => []

/-- The kind byte (R187: AT 0, EVERY 1, CALENDAR 2, AFTER 3). -/
def DefBlock.kind : DefBlock → Byte
  | .atTime _ _ => 0
  | .every _ _ _ => 1
  | .calendar _ _ _ _ _ _ _ => 2
  | .after _ _ _ _ => 3
  | .unknown k => k

/-- The field bytes of ARM_ENTRY (R189). -/
def ArmFields.bytes (f : ArmFields) : List Byte :=
  [f.defn.kind] ++ f.defn.bytes ++ [f.lateOk, f.remaining.presence] ++ bytesBE 2 f.remaining.value.toNat ++
    [f.linePresence, f.line, f.action, f.record.presence, f.record.value, f.shareable] ++
    bytesBE 4 f.tag.toNat ++ [f.keep]

/-- The code and the field bytes of a request (R189, R192), the fields in the order that requestOf reads (log 33); none for a
command that is no request. -/
def Instr.requestBytes : Instr → Option (Byte × List Byte)
  | .readTime _ => some (0x01, [])
  | .readCalendar _ => some (0x02, [])
  | .claimAuthority _ k => some (0x10, k.presence :: bytesBE 8 k.value.toNat)
  | .releaseAuthority _ => some (0x11, [])
  | .setKey _ k => some (0x12, k.presence :: bytesBE 8 k.value.toNat)
  | .setTime _ s m => some (0x13, bytesBE 4 s.toNat ++ bytesBE 3 m.toNat)
  | .step _ a => some (0x14, bytesBE 4 a.toNat)
  | .slew _ a => some (0x15, bytesBE 4 a.toNat)
  | .cancelAdjust _ => some (0x16, [])
  | .readAdjust _ => some (0x17, [])
  | .selectSource _ v => some (0x20, [v])
  | .resumeReference _ => some (0x21, [])
  | .readClock _ => some (0x22, [])
  | .clearBackup _ => some (0x28, [])
  | .armEntry _ f => some (0x30, f.bytes)
  | .retimeEntry _ i n d l => some (0x31, [i, n, d.kind] ++ d.bytes ++ [l])
  | .holdEntry _ i n => some (0x32, [i, n])
  | .unholdEntry _ i n => some (0x33, [i, n])
  | .cancelEntry _ i n => some (0x34, [i, n])
  | .readEntry _ i n => some (0x35, [i, n])
  | .listEntries _ sc st => some (0x36, [sc, st])
  | .setQuota _ t q => some (0x37, [t, q])
  | .digest _ sc ct => some (0x38, [sc, ct])
  | .claimLine _ l => some (0x40, [l])
  | .releaseLine _ l => some (0x41, [l])
  | .pinLine _ l => some (0x42, [l])
  | .configureLine _ l i w h => some (0x43, [l, i] ++ bytesBE 2 w.toNat ++ bytesBE 2 h.toNat)
  | .driveLine _ l a => some (0x44, [l, a])
  | .readLine _ l => some (0x45, [l])
  | .claimChannel _ c => some (0x50, [c])
  | .releaseChannel _ c => some (0x51, [c])
  | .shareChannel _ c v => some (0x52, [c, v])
  | .configureChannel _ c m e s l => some (0x53, [c, m, e, s, l])
  | .startChannel _ c => some (0x54, [c])
  | .stopChannel _ c => some (0x55, [c])
  | .setReload _ c r => some (0x56, c :: bytesBE 2 r.toNat)
  | .readChannel _ c => some (0x57, [c])
  | .subscribe _ k a b ks l => some (0x60, [k, a, b, ks, l])
  | .unsubscribe _ i => some (0x61, [i])
  | .takeRecord _ => some (0x62, [])
  | .readConditions _ => some (0x63, [])
  | .ackConditions _ c => some (0x64, [c])
  | .setMask _ m => some (0x65, [m])
  | .readResetCause _ => some (0x70, [])
  | .detach _ => some (0x71, [])
  | .identify _ => some (0x72, [])
  | .badRequest _ _ _ | .fetch _ _ | .portReset _ | .portLeavesResetHold _ | .deviceReset | .partLeavesReset _
  | .powerOnRetained _ | .powerOnBackupLost _ | .mainSupplyLoss | .backupSupplyLoss | .backupSupplyReturn
  | .timebaseAdvance _ | .slewBlockEnd _ | .slewEnd _ | .referenceEdge _ | .windowEnd | .referenceLoss
  | .pulseEnd _ | .holdExpiry _ | .capturePinChange _ _ | .edgeTaken _ | .measurementOverflow _
  | .counterExpiry _ | .digestExamineIndex => none

/-- The port a request comes from; P0 stands for the commands that come from no port. -/
def Instr.port : Instr → Port
  | .readTime p | .readCalendar p | .claimAuthority p _ | .releaseAuthority p | .setKey p _ | .setTime p _ _
  | .step p _ | .slew p _ | .cancelAdjust p | .readAdjust p | .selectSource p _ | .resumeReference p
  | .readClock p | .clearBackup p | .armEntry p _ | .retimeEntry p _ _ _ _ | .holdEntry p _ _
  | .unholdEntry p _ _ | .cancelEntry p _ _ | .readEntry p _ _ | .listEntries p _ _ | .setQuota p _ _
  | .digest p _ _ | .claimLine p _ | .releaseLine p _ | .pinLine p _ | .configureLine p _ _ _ _
  | .driveLine p _ _ | .readLine p _ | .claimChannel p _ | .releaseChannel p _ | .shareChannel p _ _
  | .configureChannel p _ _ _ _ _ | .startChannel p _ | .stopChannel p _ | .setReload p _ _ | .readChannel p _
  | .subscribe p _ _ _ _ _ | .unsubscribe p _ | .takeRecord p | .readConditions p | .ackConditions p _
  | .setMask p _ | .readResetCause p | .detach p | .identify p | .badRequest p _ _ | .fetch p _
  | .portReset p | .portLeavesResetHold p => p
  | .deviceReset | .partLeavesReset _ | .powerOnRetained _ | .powerOnBackupLost _ | .mainSupplyLoss
  | .backupSupplyLoss | .backupSupplyReturn | .timebaseAdvance _ | .slewBlockEnd _ | .slewEnd _
  | .referenceEdge _ | .windowEnd | .referenceLoss | .pulseEnd _ | .holdExpiry _ | .capturePinChange _ _
  | .edgeTaken _ | .measurementOverflow _ | .counterExpiry _ | .digestExamineIndex => 0

/-- A request frame: code, length, fields and CRC (R180). -/
def frameOf (code : Byte) (f : List Byte) : List Byte :=
  let body := code :: BitVec.ofNat 8 f.length :: f
  body ++ [crc8 body]

/-- The frame of a request; none for a command that is no request. -/
def encodeFrame (i : Instr) : Option (List Byte) := i.requestBytes.map fun cf => frameOf cf.1 cf.2

end Sys2Proof
end

