-- ==== Sys2Proof/Config.lean ====
section
/-! DEFINITION. What the part fixes once for all (its capacities and the end of the calendar), and the one source of
FREE VALUES: values the spec leaves unstated, of which nothing may be proved. -/

namespace Sys2Proof.Config

/-- The end of range, 3,155,759,999.999999 s, in microseconds (R1, R16). -/
def endOfRange : Nat := 3155759999999999

/-- Copies an event queue holds (R160). -/
def queueCapacity : Nat := 32

/-- FREE VALUE (log 3): the n-th value that the spec does not state. It has no body: nothing in Lean can evaluate it.
State.freeCount counts the draws, so that two draws are unrelated. Used for the error of a monitor window in which no
interval was measured (R26) and for the contents of a backup domain whose power was lost and came back (R18). -/
opaque freeValue : Nat → Nat

end Sys2Proof.Config
end

