-- ==== Sys2Proof/Machine/State.lean ====
section
/-! DEFINITION. The state of the part, block by block as section 0.3 of spec/00_scope.md names them, and its value
after reset. A time value is held as ONE count of microseconds since 2000-01-01 00:00:00; the seconds count and the
microsecond count of R1 are its quotient and remainder by 1,000,000 (secondsOf, microsOf in Machine/Ops.lean). What the
spec gives as a value computed from other state (the entries-naming counts, the ports' counts of entries, the output
levels, the notices, the rate source) is computed where it is read and is not held a second time (log 5). -/

namespace Sys2Proof.Machine

/-! ## The timebase and the backup domain (Chapter 1) -/

/-- The quality of the time (R5). -/
inductive Quality where
  | unset
  | freeRun
  | tracking
  | holdover
  deriving DecidableEq, Repr

/-- One sample of the timebase (R7). -/
structure Timestamp where
  epoch : BitVec 16
  time : Nat
  quality : Quality
  deriving DecidableEq, Repr

/-- The source selection (R23). -/
inductive SourceSelection where
  | notChosen
  | internalOnly
  | reference
  deriving DecidableEq, Repr

/-- The backup domain (section 1.9): what survives loss of the main supply. -/
structure Backup where
  /-- the timebase value in microseconds: seconds count and microsecond count together (R1) -/
  count : Nat
  epoch : BitVec 16
  quality : Quality
  rangeHeld : Bool
  source : SourceSelection
  /-- the authority key, or its absence (R40) -/
  key : Option (BitVec 64)
  /-- the retention mark (R18) -/
  retention : Bool
  deriving DecidableEq, Repr

/-- The slew direction (R1). -/
inductive SlewDirection where
  | none
  | positive
  | negative
  deriving DecidableEq, Repr

/-- The slew state of the timebase, not kept in the backup domain (R1, R14). -/
structure SlewState where
  direction : SlewDirection
  remaining : Nat
  /-- device microseconds already counted in the present block of 1,000 (R14) -/
  blockElapsed : Nat
  deriving DecidableEq, Repr

/-! ## The clock supervisor (Chapter 2) -/

/-- The monitor state (R25). -/
inductive MonitorState where
  | refOff
  | refAbsent
  | refQualifying
  | refGood
  deriving DecidableEq, Repr

/-- The reference monitor (R25), its window in progress (R26) and the interval since the last edge (R30). -/
structure Monitor where
  state : MonitorState
  windowCount : Nat
  lastError : Option Int
  /-- device microseconds of the window in progress -/
  elapsed : Nat
  /-- whether an edge has been seen in the window in progress -/
  edgeSeen : Bool
  /-- whole reference cycles between the first and the last edge seen in the window -/
  cycles : Nat
  /-- the time between those edges, in thousandths of an internal-oscillator microsecond -/
  measured : Nat
  /-- device microseconds that have ended since the last edge of the reference (R30, log 10) -/
  sinceEdge : Nat
  deriving DecidableEq, Repr

/-! ## The authority and adjustment unit (Chapter 3) -/

/-- What an adjustment asks for (section 3.3): the target of a SET in microseconds, the signed amount of the others. -/
inductive AdjustKind where
  | set (target : Nat)
  | step (amount : Int)
  | slew (amount : Int)
  deriving DecidableEq, Repr

/-- An adjustment in the WAITING slot (R46). -/
structure Adjustment where
  number : BitVec 8
  what : AdjustKind
  deriving DecidableEq, Repr

/-- The slew in the ACTIVE slot (R46); its remaining amount is the timebase's. -/
structure ActiveSlew where
  number : BitVec 8
  amount : Int
  deriving DecidableEq, Repr

/-- The outcome of an adjustment (R54). -/
inductive AdjustOutcome where
  | completed
  | cancelled
  | range
  deriving DecidableEq, Repr

/-- The slew report (R58). -/
structure SlewReport where
  number : BitVec 8
  outcome : AdjustOutcome
  unapplied : Nat
  deriving DecidableEq, Repr

/-- The authority record and the adjustment queue (R39, R46, R47, R58). -/
structure Authority where
  holder : Option Port
  active : Option ActiveSlew
  waiting : Option Adjustment
  nextNumber : BitVec 8
  report : Option SlewReport
  deriving DecidableEq, Repr

/-! ## The schedule unit (Chapter 4) -/

/-- The line actions (R120). -/
inductive LineAction where
  | pulse
  | assert
  | deassert
  | toggle
  deriving DecidableEq, Repr

/-- The retrigger policy of an AFTER entry (R61, R96). -/
inductive Retrigger where
  | restart
  | keep
  deriving DecidableEq, Repr

/-- The six optional pattern fields of a CALENDAR entry (R61). -/
structure Pattern where
  month : Option Nat
  day : Option Nat
  weekday : Option Nat
  hour : Option Nat
  minute : Option Nat
  second : Option Nat
  deriving DecidableEq, Repr

/-- The kind of an entry with the definition fields it carries (R61). Times and periods are in microseconds; a kinds set
has the bits of R187. -/
inductive Definition where
  | atTime (target : Nat)
  | every (anchor period : Nat)
  | calendar (pattern : Pattern) (offset : Nat)
  | after (channel : ChanNo) (kinds : BitVec 8) (delay : Nat) (policy : Retrigger)
  deriving DecidableEq, Repr

/-- The state of an entry that is not FREE, with the due time it has in that state (R60, R65, R88). HELD carries its
held_from and, held from ARMED, the kept due time. -/
inductive RunState where
  | waiting
  | armed (due : Nat)
  | heldArmed (due : Nat)
  | heldWaiting
  | spent
  deriving DecidableEq, Repr

/-- The last firing of an entry (R60). -/
structure LastFiring where
  stamp : Timestamp
  late : Bool
  missed : Nat
  deriving DecidableEq, Repr

/-- What an entry that is not FREE holds (R60). -/
structure Body where
  owner : Port
  defn : Definition
  run : RunState
  remaining : Option Nat
  line : Option (LineNo × LineAction)
  record : Option Nat
  shareable : Bool
  tag : BitVec 32
  keep : Bool
  last : Option LastFiring
  fireCount : Nat
  deriving DecidableEq, Repr

/-- One index of the schedule table: its handle's second half (R63), and the entry; no body is FREE. -/
structure Entry where
  inst : BitVec 8
  body : Option Body
  deriving DecidableEq, Repr

/-- The schedule unit (R60, R68, R70). -/
structure Schedule where
  entries : Vector Entry 64
  defGen : BitVec 32
  fullGen : BitVec 32
  quotas : Vector Nat 4
  deriving DecidableEq, Repr

/-! ## The trigger unit (Chapter 6) -/

/-- The drive state with the timer that runs in it (R114): the pulse timer while PULSING, the hold timer while HELD with
a limit, in device microseconds. A remaining time of 0 is a timer whose end falls at this instant and is not yet taken. -/
inductive Drive where
  | idle
  | pulsing (remaining : Nat)
  | held (remaining : Option Nat)
  deriving DecidableEq, Repr

/-- The source of a line's last action (R114, R128). -/
inductive ActionSource where
  | drive (port : Port)
  | firing (index : EntryIx) (inst : BitVec 8)
  deriving DecidableEq, Repr

/-- The last action applied to a line (R114). -/
structure LastAction where
  source : ActionSource
  action : LineAction
  stamp : Timestamp
  deriving DecidableEq, Repr

/-- A trigger line (R114). -/
structure Line where
  owner : Option Port
  pinned : Bool
  idleLevel : PinLevel
  width : Nat
  holdLimit : Nat
  drive : Drive
  last : Option LastAction
  deriving DecidableEq, Repr

/-! ## The capture unit (Chapter 7) -/

/-- The capture mode (R132). -/
inductive Mode where
  | stamp
  | period
  | width
  | count
  deriving DecidableEq, Repr

/-- The edge select (R132). -/
inductive EdgeSelect where
  | rise
  | fall
  | both
  deriving DecidableEq, Repr

/-- The count source (R132). -/
inductive CountSource where
  | ownPin
  | channel (c : ChanNo)
  deriving DecidableEq, Repr

/-- The input filter's qualification (R133): none in progress, in progress, or its 1 microsecond has passed and the edge
falls at this instant and is not yet taken. -/
inductive Qualification where
  | none
  | running
  | complete
  deriving DecidableEq, Repr

/-- A capture channel (R132). The phase is MEASURING with its elapsed time, or AWAIT_FIRST: measuring = none. -/
structure Channel where
  owner : Option Port
  shareable : Bool
  mode : Mode
  edge : EdgeSelect
  source : CountSource
  reload : Nat
  counter : Nat
  level : Nat
  running : Bool
  measuring : Option Nat
  filtered : PinLevel
  qualification : Qualification
  deriving DecidableEq, Repr

/-! ## The delivery unit (Chapter 8) -/

/-- The record kinds (R187, R190). -/
inductive RecordKind where
  | edgeRise
  | edgeFall
  | period
  | widthHigh
  | widthLow
  | expiry
  | overflow
  | firing
  | lineTimeout
  | adjustDone
  | subEnded
  deriving DecidableEq, Repr

/-- The source of a record (R190): an entry's handle, or the number of a line, channel, adjustment or subscription. -/
inductive RecordSource where
  | entry (index : EntryIx) (inst : BitVec 8)
  | number (n : Nat)
  deriving DecidableEq, Repr

/-- A record, without the level and the GAP flag that belong to each copy (R154, R190). -/
structure Record where
  kind : RecordKind
  late : Bool
  source : RecordSource
  stamp : Timestamp
  value : Nat
  due : Option Nat
  missed : Option Nat
  remaining : Option Nat
  deriving DecidableEq, Repr

/-- A copy in an event queue (R160). -/
structure Copy where
  level : Nat
  gap : Bool
  record : Record
  deriving DecidableEq, Repr

/-- The source of a subscription (R156). -/
inductive SubSource where
  | channel (c : ChanNo)
  | entry (index : EntryIx) (inst : BitVec 8)
  deriving DecidableEq, Repr

/-- A subscription in use (R156). -/
structure Subscription where
  subscriber : Port
  source : SubSource
  kinds : BitVec 8
  level : Nat
  deriving DecidableEq, Repr

/-! ## The digest engine (Chapter 9) -/

/-- The scope of a list or a digest (R85, R171). -/
inductive Scope where
  | own
  | all
  deriving DecidableEq, Repr

/-- The content of a digest (R171). -/
inductive Content where
  | definition
  | full
  deriving DecidableEq, Repr

/-- A walk in progress (R171); the engine is IDLE where there is none. -/
structure Walk where
  requester : Port
  scope : Scope
  content : Content
  startGen : BitVec 32
  changed : Bool
  nextIndex : Nat
  crc : BitVec 32
  fed : Nat
  /-- device microseconds since the DIGEST was taken (R173) -/
  elapsed : Nat
  deriving DecidableEq, Repr

/-! ## The port units (Chapter 10) -/

/-- The port states (R178). -/
inductive PortState where
  | resetHold
  | ready
  | executing
  deriving DecidableEq, Repr

/-- The status codes (R192). -/
inductive Status where
  | ok
  | queued
  | pending
  | noResponse
  | frameError
  | badRequest
  | badArg
  | busy
  | notAuthority
  | authorityHeld
  | keyMismatch
  | owned
  | notOwner
  | notFound
  | inUse
  | pinned
  | noRoom
  | quota
  | tooLate
  | noTime
  | range
  | locked
  | notReady
  | notStopped
  | empty
  | stale
  deriving DecidableEq, Repr

/-- A response: the status code and the field bytes (R181, R193). -/
structure Response where
  status : Status
  fields : List Byte
  deriving DecidableEq, Repr

/-- The response slot (R180, R181). -/
inductive Slot where
  | empty
  | pending
  | ready (response : Response)
  deriving DecidableEq, Repr

/-- A transaction at a port, from the instant CS goes low: the status byte and the slot sampled then (R179, R181); or a
transaction that the port ignores to its end, since PRST went low in it or it began in RESET_HOLD (R178, log 9). -/
inductive Transfer where
  | idle
  | begun (status : Byte) (slot : Slot)
  | abandoned
  deriving DecidableEq, Repr

/-- A port: its port unit (R178, R181, R183) and what the delivery unit holds for it (Chapter 8). The conditions and the
causes are sets of bits numbered as R187 numbers them. -/
structure PortUnit where
  state : PortState
  slot : Slot
  causes : BitVec 5
  queue : List Copy
  gapPending : Bool
  conditions : BitVec 7
  mask : Nat
  /-- the bytes the port shifted out on MISO in its latest transaction (R179, R181); the level of the output is
  PortUnit.misoLevel -/
  miso : List Byte
  /-- the transaction whose CS is low (R178, R179, R181) -/
  transfer : Transfer
  deriving DecidableEq, Repr

/-! ## Pins and supplies -/

/-- The input pins whose level the part goes on depending on, and the supplies (sections 10.1 and 10.5). -/
structure Pins where
  /-- the PRST inputs -/
  prst : Vector PinLevel 4
  /-- the raw levels of the capture pins -/
  cap : Vector PinLevel 8
  /-- whether the RESET input is held low -/
  resetHeld : Bool
  /-- whether the main supply is present -/
  mainSupply : Bool
  /-- whether the backup supply is present -/
  backupSupply : Bool
  deriving DecidableEq, Repr

/-! ## The state -/

/-- The state of the part, and the queue of commands waiting. -/
structure State where
  backup : Backup
  slew : SlewState
  monitor : Monitor
  authority : Authority
  schedule : Schedule
  /-- whether the firings that the latest advance calls for are still to be made (R98, R104, R107; log 30) -/
  unfired : Bool
  lines : Vector Line 16
  channels : Vector Channel 8
  subs : Vector (Option Subscription) 24
  digest : Option Walk
  ports : Vector PortUnit 4
  pins : Pins
  /-- the reset causes that the part will add at every port when it leaves the reset it is in (R183) -/
  leaveCauses : BitVec 5
  /-- THE MODEL'S OWN (log 3): how many free values have been drawn -/
  freeCount : Nat
  /-- the commands waiting, first in, first out -/
  pending : List Instr
  deriving DecidableEq, Repr

/-- How the part could stop with a fault: the spec describes none, so there is no constructor and no command ends so. -/
inductive Fault where
  deriving DecidableEq, Repr

/-- Why a command has no meaning. -/
inductive Refusal where
  /-- Raised by exec's arm of a command that has no meaning yet (none is left). Safe: the machine stops. -/
  | notModelled (mnemonic : String)
  deriving DecidableEq, Repr

/-! ## Values at reset -/

/-- The backup domain after a backup-domain reset (R20). -/
def Backup.reset : Backup :=
  { count := 0, epoch := 0, quality := .unset, rangeHeld := false, source := .notChosen, key := none, retention := true }

/-- No slew (R19, R21). -/
def SlewState.idle : SlewState := { direction := .none, remaining := 0, blockElapsed := 0 }

/-- The monitor in REF_OFF (R25, R38). -/
def Monitor.off : Monitor :=
  { state := .refOff, windowCount := 0, lastError := none, elapsed := 0, edgeSeen := false, cycles := 0, measured := 0,
    sinceEdge := 0 }

/-- No holder, the queue empty, the next number 0, no report (R46, R47, R58). -/
def Authority.reset : Authority :=
  { holder := none, active := none, waiting := none, nextNumber := 0, report := none }

/-- Every entry FREE with handle number 0, both generations 0, every quota 16 (R87). -/
def Schedule.reset : Schedule :=
  { entries := Vector.replicate 64 { inst := 0, body := none }, defGen := 0, fullGen := 0,
    quotas := Vector.replicate 4 16 }

/-- A line after a device reset (R131). -/
def Line.reset : Line :=
  { owner := none, pinned := false, idleLevel := .low, width := 10, holdLimit := 0, drive := .idle, last := none }

/-- A channel after a device reset, its filtered level LOW until the pin is taken (R152). -/
def Channel.reset : Channel :=
  { owner := none, shareable := false, mode := .stamp, edge := .rise, source := .ownPin, reload := 1, counter := 1,
    level := 1, running := false, measuring := none, filtered := .low, qualification := .none }

/-- A port while the part is held in reset or without power: nothing attached, nothing held (R170, R185). -/
def PortUnit.reset : PortUnit :=
  { state := .resetHold, slot := .empty, causes := 0, queue := [], gapPending := false, conditions := 0, mask := 0,
    miso := [], transfer := .idle }

/-- The machine right after reset: a power-on with the backup domain lost (R20) that the part has just left (R185), with
POWER_ON and BACKUP_LOST in every reset-cause set (R183). The pins at that instant are DESIGN CHOICES (log 1): AUTH_SEL
0, so that P0 holds the authority; every PRST high; every capture pin LOW; both supplies present. -/
def State.reset : State :=
  { backup := Backup.reset
    slew := SlewState.idle
    monitor := Monitor.off
    authority := { Authority.reset with holder := some 0 }
    schedule := Schedule.reset
    unfired := false
    lines := Vector.replicate 16 Line.reset
    channels := Vector.replicate 8 Channel.reset
    subs := Vector.replicate 24 none
    digest := none
    ports := Vector.replicate 4 { PortUnit.reset with state := .ready, causes := 3#5 }
    pins := { prst := Vector.replicate 4 .high, cap := Vector.replicate 8 .low, resetHeld := false,
              mainSupply := true, backupSupply := true }
    leaveCauses := 0
    freeCount := 0
    pending := [] }

end Sys2Proof.Machine
end

