-- ==== Sys2Proof/Machine/Flags.lean ====
section
/-! DEFINITION. The part's flags: the condition kinds with their levels and bits, the reset causes, the bits of a kinds
set, the notice of a port and the port status byte. -/

namespace Sys2Proof.Machine

/-- The condition kinds (section 8.6). -/
inductive Condition where
  | holdover
  | rangeEnd
  | timeStepped
  | authorityChanged
  | queueOverrun
  | refReady
  | trackingBegun
  deriving DecidableEq, Repr

/-- The bit of a condition kind in a condition set (R187). -/
def Condition.bit : Condition → Nat
  | .holdover => 0
  | .rangeEnd => 1
  | .timeStepped => 2
  | .authorityChanged => 3
  | .queueOverrun => 4
  | .refReady => 5
  | .trackingBegun => 6

/-- The level of a condition kind (section 8.6). -/
def Condition.level : Condition → Nat
  | .holdover => 7
  | .rangeEnd => 7
  | .timeStepped => 6
  | .authorityChanged => 6
  | .queueOverrun => 6
  | .refReady => 5
  | .trackingBegun => 4

/-- The seven condition kinds. -/
def Condition.all : List Condition :=
  [.holdover, .rangeEnd, .timeStepped, .authorityChanged, .queueOverrun, .refReady, .trackingBegun]

/-- The reset causes (R183). -/
inductive ResetCause where
  | powerOn
  | backupLost
  | deviceReset
  | portReset
  | detach
  deriving DecidableEq, Repr

/-- The bit of a reset cause (R187). -/
def ResetCause.bit : ResetCause → Nat
  | .powerOn => 0
  | .backupLost => 1
  | .deviceReset => 2
  | .portReset => 3
  | .detach => 4

/-- A set of n bits with one bit added: each member is held at most once (R164, R183). -/
def addBit {n : Nat} (set : BitVec n) (bit : Nat) : BitVec n := set ||| (1#n <<< bit)

/-- Whether a condition kind is in a port's set. -/
def PortUnit.holds (u : PortUnit) (k : Condition) : Bool := u.conditions.getLsbD k.bit

/-- A condition kind added to a port's set (R164). -/
def PortUnit.raise (k : Condition) (u : PortUnit) : PortUnit := { u with conditions := addBit u.conditions k.bit }

/-- A reset cause added to a port's set (R183). -/
def PortUnit.addCause (c : ResetCause) (u : PortUnit) : PortUnit := { u with causes := addBit u.causes c.bit }

/-- The bit of a capture or FIRING record kind in a kinds set (R187); the other kinds are in no kinds set. -/
def RecordKind.bit : RecordKind → Nat
  | .edgeRise => 0
  | .edgeFall => 1
  | .period => 2
  | .widthHigh => 3
  | .widthLow => 4
  | .expiry => 5
  | .overflow => 6
  | .firing => 7
  | .lineTimeout => 8
  | .adjustDone => 8
  | .subEnded => 8

/-- Whether a record kind is in a kinds set (R187). -/
def inKinds (kinds : BitVec 8) (k : RecordKind) : Bool := kinds.getLsbD k.bit

/-- Whether the port's notice is asserted (R168): a condition or a copy of a level above its mask. -/
def PortUnit.notice (u : PortUnit) : Bool :=
  Condition.all.any (fun k => u.holds k && decide (u.mask < k.level)) || u.queue.any (fun c => decide (u.mask < c.level))

/-- The level of the port's NTC output (R168): low while the notice is asserted. -/
def PortUnit.ntc (u : PortUnit) : PinLevel := if u.notice then .low else .high

/-- The slot state's code in the status byte (R188). -/
def Slot.code : Slot → Nat
  | .empty => 0
  | .pending => 1
  | .ready _ => 2

/-- The port status byte (R179, R188). -/
def PortUnit.statusByte (u : PortUnit) : Byte :=
  BitVec.ofNat 8 (u.slot.code + (if u.state = .executing then 4 else 0) + (if u.notice then 8 else 0) +
    (if u.causes = 0 then 0 else 16))

/-- The status byte that a transaction ending now has shifted out: the one sampled when CS went low; where no command has
told of that, CS went low at this instant (R179, log 9). -/
def PortUnit.shownStatus (u : PortUnit) : Byte :=
  match u.transfer with
  | .begun status _ => status
  | .idle => u.statusByte
  | .abandoned => u.statusByte

/-- The slot that a fetch ending now has shifted out: the one sampled when CS went low (R181). -/
def PortUnit.shownSlot (u : PortUnit) : Slot :=
  match u.transfer with
  | .begun _ slot => slot
  | .idle => u.slot
  | .abandoned => u.slot

/-- Whether the status byte sampled when CS went low told the master that the port is EXECUTING: bit 2 of it (R179, R188). -/
def Transfer.saysExecuting : Transfer → Bool
  | .begun status _ => status.getLsbD 2
  | .idle => false
  | .abandoned => false

/-- The port state that decides what becomes of a transaction ending now. An abandoned one is ignored, as in RESET_HOLD
(R178). The status byte sampled when CS went low tells whether a request frame will be discarded (R179): one that was told
EXECUTING has reached the port while EXECUTING, and is discarded (R180) even where the walk has ended by CS high. -/
def PortUnit.hears (u : PortUnit) : PortState :=
  match u.transfer with
  | .begun _ _ => if u.state = .ready ∧ u.transfer.saysExecuting = true then .executing else u.state
  | .idle => u.state
  | .abandoned => .resetHold

/-- The level of the port's CS input: low from the instant CS goes low until the transaction ends. A transaction command
with no FETCH of no byte before it has both edges at its own instant, so that CS is high before and after it (log 9). -/
def PortUnit.cs (u : PortUnit) : PinLevel :=
  match u.transfer with
  | .idle => .high
  | .begun _ _ => .low
  | .abandoned => .low

/-- The level of the port's MISO output: high while CS is high (R186), and throughout a transaction that the port ignores
(R178, R185). With CS low and no bit clocked yet it is the first bit of the status byte, its most significant one (R179,
R186; log 28). -/
def PortUnit.misoLevel (u : PortUnit) : PinLevel :=
  match u.transfer with
  | .idle => .high
  | .begun status _ => if status.getLsbD 7 then .high else .low
  | .abandoned => .high

/-- What a port reset, a device reset or the loss of the supply leaves of a transaction: it is abandoned (R178). -/
def Transfer.broken : Transfer → Transfer
  | .idle => .idle
  | .begun _ _ => .abandoned
  | .abandoned => .abandoned

end Sys2Proof.Machine
end

