-- ==== Sys2Proof/Machine/Ops.lean ====
section
/-! DEFINITION. The named operations over the state that every block uses: reading and writing one entry, line, channel,
subscription or port; the timestamp; raising conditions; storing copies in the event queues; taking a request at a port.
This part is a block and takes no processor exception: what stands in an exception's place is a condition raised or a
record delivered, both here. -/

namespace Sys2Proof.Machine

/-- What a command answers. -/
abbrev Result := Host.Outcome State Fault Refusal

/-! ## Views of the time -/

/-- The seconds count of a time value (R1). -/
def secondsOf (t : Nat) : Nat := t / 1000000

/-- The microsecond count of a time value (R1). -/
def microsOf (t : Nat) : Nat := t % 1000000

/-- The timebase value now (R1). -/
def State.now (s : State) : Nat := s.backup.count

/-- One sample of the timebase (R7). -/
def State.stamp (s : State) : Timestamp :=
  { epoch := s.backup.epoch, time := s.backup.count, quality := s.backup.quality }

/-- Whether the part has power and is not held in reset. -/
def State.running (s : State) : Bool := s.pins.mainSupply && !s.pins.resetHeld

/-- Whether the count advances with the rate source (R2). -/
def State.counting (s : State) : Bool := decide (s.backup.quality ≠ .unset) && !s.backup.rangeHeld

/-- The rate sources (R2). -/
inductive RateSource where
  | internal
  | reference
  | backup
  deriving DecidableEq, Repr

/-- The rate source in use (R31): the backup oscillator without the main supply, the reference while TRACKING, the
internal oscillator otherwise and while RESET is held. -/
def State.rateSource (s : State) : RateSource :=
  if s.pins.mainSupply then
    if s.backup.quality = .tracking ∧ s.pins.resetHeld = false then .reference else .internal
  else .backup

/-! ## The numbered resources -/

/-- P0 to P3 in order. -/
@[irreducible] def allPorts : List Port := List.finRange 4

/-- The 64 indices of the schedule table in ascending order. -/
@[irreducible] def allEntries : List EntryIx := List.finRange 64

/-- TRG0 to TRG15 in order. -/
@[irreducible] def allLines : List LineNo := List.finRange 16

/-- CAP0 to CAP7 in order. -/
@[irreducible] def allChannels : List ChanNo := List.finRange 8

/-- The 24 indices of the subscription table in ascending order. -/
@[irreducible] def allSubs : List SubIx := List.finRange 24

/-- The port unit of a port. -/
def State.port (s : State) (p : Port) : PortUnit := s.ports.get p

/-- A port unit replaced. -/
def State.setPort (s : State) (p : Port) (u : PortUnit) : State := { s with ports := s.ports.set p.val u p.isLt }

/-- The entry at an index. -/
def State.entry (s : State) (i : EntryIx) : Entry := s.schedule.entries.get i

/-- The entry at an index replaced. -/
def State.setEntry (s : State) (i : EntryIx) (e : Entry) : State :=
  { s with schedule := { s.schedule with entries := s.schedule.entries.set i.val e i.isLt } }

/-- The body at an index replaced; the handle's number stays. -/
def State.setBody (s : State) (i : EntryIx) (b : Option Body) : State :=
  s.setEntry i { inst := (s.entry i).inst, body := b }

/-- The state of a line. -/
def State.line (s : State) (l : LineNo) : Line := s.lines.get l

/-- The state of a line replaced. -/
def State.setLine (s : State) (l : LineNo) (x : Line) : State := { s with lines := s.lines.set l.val x l.isLt }

/-- The state of a channel. -/
def State.channel (s : State) (c : ChanNo) : Channel := s.channels.get c

/-- The state of a channel replaced. -/
def State.setChannel (s : State) (c : ChanNo) (x : Channel) : State :=
  { s with channels := s.channels.set c.val x c.isLt }

/-- An entry of the subscription table. -/
def State.sub (s : State) (i : SubIx) : Option Subscription := s.subs.get i

/-- An entry of the subscription table replaced. -/
def State.setSub (s : State) (i : SubIx) (x : Option Subscription) : State :=
  { s with subs := s.subs.set i.val x i.isLt }

/-! ## Counts that are views of the table -/

/-- The entries that are not FREE and satisfy a test. -/
def State.countEntries (s : State) (test : Body → Bool) : Nat :=
  (allEntries.filter fun i => (s.entry i).body.any test).length

/-- The port's count: its entries that are not FREE (R68). -/
def State.portCount (s : State) (p : Port) : Nat := s.countEntries fun b => decide (b.owner = p)

/-- Whether an entry's line action names a line (R115). -/
def Body.namesLine (l : LineNo) (b : Body) : Bool := b.line.any fun x => decide (x.1 = l)

/-- Whether an entry is an AFTER entry of a source channel (R134). -/
def Body.namesChannel (c : ChanNo) (b : Body) : Bool :=
  match b.defn with
  | .after ch _ _ _ => decide (ch = c)
  | .atTime _ | .every _ _ | .calendar _ _ => false

/-- The entries-naming count of a line (R114, R115). -/
def State.lineNaming (s : State) (l : LineNo) : Nat := s.countEntries (Body.namesLine l)

/-- The entries-naming count of a channel (R132, R134). -/
def State.channelNaming (s : State) (c : ChanNo) : Nat := s.countEntries (Body.namesChannel c)

/-- The entries that are FREE (R85). -/
def State.freeEntries (s : State) : Nat := 64 - s.countEntries fun _ => true

/-! ## Conditions -/

/-- Whether a port is attached: not in RESET_HOLD (section 0.7, R178). -/
def State.attached (s : State) (p : Port) : Bool := decide ((s.port p).state ≠ .resetHold)

/-- A condition raised at a port, if it is attached (R164). -/
def State.raiseAt (s : State) (p : Port) (k : Condition) : State :=
  if s.attached p then s.setPort p ((s.port p).raise k) else s

/-- A condition raised at every attached port (R164). -/
def State.raiseAll (s : State) (k : Condition) : State := allPorts.foldl (fun t p => t.raiseAt p k) s

/-! ## Event queues -/

/-- A copy put in its place: after the copies of its level and above, before those below it (R160). -/
def insertCopy (c : Copy) : List Copy → List Copy
  | [] => [c]
  | x :: xs => if x.level < c.level then c :: x :: xs else x :: insertCopy c xs

/-- The lowest level present in a queue, that of its last copy, since the queue is ordered by level (R160). -/
def lowestLevel (q : List Copy) : Nat := (q.getLast?.map Copy.level).getD 0

/-- A copy handed to a port's queue: stored where there is room (R160); in a full queue it displaces the newest copy of
the lowest level, or is lost itself, and QUEUE_OVERRUN is raised (R161). -/
def PortUnit.storeCopy (c : Copy) (u : PortUnit) : PortUnit :=
  if u.queue.length < Config.queueCapacity then
    { u with queue := insertCopy { c with gap := u.gapPending } u.queue, gapPending := false }
  else if lowestLevel u.queue < c.level then
    PortUnit.raise .queueOverrun
      { u with queue := insertCopy { c with gap := true } u.queue.dropLast, gapPending := false }
  else
    PortUnit.raise .queueOverrun { u with gapPending := true }

/-- A record handed to one port at a level; a copy for a port that is not attached is discarded (R155). -/
def State.deliver (s : State) (p : Port) (level : Nat) (r : Record) : State :=
  if s.attached p then s.setPort p ((s.port p).storeCopy { level := level, gap := false, record := r }) else s

/-- The highest of some levels; none of none. -/
def highest : List Nat → Option Nat
  | [] => none
  | l :: ls => some (ls.foldl max l)

/-- Whether a subscription matches a record of a source (R154). -/
def Subscription.covers (src : SubSource) (k : RecordKind) (u : Subscription) : Bool :=
  decide (u.source = src) && inKinds u.kinds k

/-- The levels a port has on a record's copy list: the owner level, and the level of each matching subscription (R154). -/
def State.copyLevels (s : State) (src : SubSource) (k : RecordKind) (owner : Option (Port × Nat)) (p : Port) : List Nat :=
  (match owner with
    | some (q, l) => if q = p then [l] else []
    | none => []) ++
  allSubs.filterMap fun i =>
    match s.sub i with
    | some u => if u.subscriber = p ∧ u.covers src k = true then some u.level else none
    | none => none

/-- A capture or FIRING record handed to its owner destination and its subscribers: one copy a port, at the highest of
its levels (R153, R154). -/
def State.deliverShared (s : State) (src : SubSource) (owner : Option (Port × Nat)) (r : Record) : State :=
  allPorts.foldl
    (fun t p =>
      match highest (s.copyLevels src r.kind owner p) with
      | some l => t.deliver p l r
      | none => t) s

/-! ## The end of a subscription -/

/-- The record of a subscription's end (R159). -/
def subEndedRecord (i : SubIx) (t : Timestamp) : Record :=
  { kind := .subEnded, late := false, source := .number i.val, stamp := t, value := 0, due := none, missed := none,
    remaining := none }

/-- A subscription removed with its SUB_ENDED record (R159). -/
def State.endSub (s : State) (i : SubIx) (u : Subscription) : State :=
  (s.setSub i none).deliver u.subscriber 2 (subEndedRecord i s.stamp)

/-- The subscriptions that satisfy a test removed in ascending order of index, each with its SUB_ENDED (R159). -/
def State.endSubs (s : State) (test : Subscription → Bool) : State :=
  allSubs.foldl
    (fun t i =>
      match t.sub i with
      | some u => if test u then t.endSub i u else t
      | none => t) s

/-- Whether a subscription's source, which stood in s, has been freed or given up since (R83, R136, R151). -/
def State.sourceGone (t s : State) : SubSource → Bool
  | .channel c => (s.channel c).owner.isSome && (t.channel c).owner.isNone
  | .entry i inst => decide ((s.entry i).inst = inst) && (s.entry i).body.isSome && (t.entry i).body.isNone

/-- The end of an event that began in s: every subscription whose source has gone in it is removed, all of them in one
ascending order of index (R159, log 27). -/
def State.endGone (t s : State) : State := t.endSubs fun u => t.sourceGone s u.source

/-- The subscriptions of a port removed with no record (R169 step 1). -/
def State.dropSubs (s : State) (p : Port) : State :=
  allSubs.foldl
    (fun t i =>
      match t.sub i with
      | some u => if u.subscriber = p then t.setSub i none else t
      | none => t) s

/-! ## Transactions -/

/-- A port's slot replaced. -/
def State.setSlot (s : State) (p : Port) (x : Slot) : State := s.setPort p { s.port p with slot := x }

/-- A transaction's end: CS goes high, after the bytes that the port shifted out. -/
def State.shiftOut (s : State) (p : Port) (bs : List Byte) : State :=
  s.setPort p { s.port p with miso := bs, transfer := .idle }

/-- A port's state replaced. -/
def State.setPortState (s : State) (p : Port) (x : PortState) : State := s.setPort p { s.port p with state := x }

/-- What MISO carries in a request frame of n bytes: the status byte and then high (R179). -/
def PortUnit.requestMiso (u : PortUnit) (n : Nat) : List Byte := u.shownStatus :: List.replicate (n - 1) 0xFF

/-- A request frame of n field bytes that has passed the frame checks, taken at a port as CS goes high: ignored in
RESET_HOLD or where it was abandoned, discarded while EXECUTING, or where the status byte told so, otherwise handed to its
block (R178 to R180); a discarded one leaves the slot as it is. The block's answer goes to the slot; an answer of none leaves the slot as the block left it (a DIGEST taken, a DETACH). -/
def State.request (s : State) (p : Port) (n : Nat) (block : State → State × Option Response) : State :=
  match (s.port p).hears with
  | .resetHold => s.shiftOut p (List.replicate (n + 3) 0xFF)
  | .executing => s.shiftOut p ((s.port p).requestMiso (n + 3))
  | .ready =>
    match block (s.shiftOut p ((s.port p).requestMiso (n + 3))) with
    | (t, some r) => t.setSlot p (.ready r)
    | (t, none) => t

/-- A refusal: a status code with no fields; nothing else changes (R180). -/
def State.refuse (s : State) (x : Status) : State × Option Response := (s, some { status := x, fields := [] })

/-- An answer with fields. -/
def State.answer (s : State) (x : Status) (fields : List Byte) : State × Option Response :=
  (s, some { status := x, fields := fields })

/-- Whether a port holds the authority (R39). -/
def State.isHolder (s : State) (p : Port) : Bool := decide (s.authority.holder = some p)

end Sys2Proof.Machine
end

