-- ==== Sys2Proof/Machine/Calendar.lean ====
section
/-! DEFINITION. The calendar view of a time value (R9 to R11), when an instant matches a CALENDAR pattern (R92), and the
next match after an instant (R93). -/

namespace Sys2Proof.Machine

/-- The day number of a seconds count (R9). -/
def dayNumber (seconds : Nat) : Nat := seconds / 86400

/-- The second of the day (R9). -/
def secondOfDay (seconds : Nat) : Nat := seconds % 86400

/-- The hour of a second of the day (R9). -/
def hourOf (sod : Nat) : Nat := sod / 3600

/-- The minute of a second of the day (R9). -/
def minuteOf (sod : Nat) : Nat := sod % 3600 / 60

/-- The second within the minute (R9). -/
def secondOf (sod : Nat) : Nat := sod % 60

/-- Whether a year is a leap year of 366 days (R10). -/
def isLeap (year : Nat) : Bool := year % 4 == 0

/-- The year in whose span a day number falls (R10): whole four-year spans of 1,461 days, a leap year first, as the
example of section 1.5.1 works it. -/
def yearOf (day : Nat) : Nat :=
  let r := day % 1461
  2000 + 4 * (day / 1461) + (if r < 366 then 0 else (r - 366) / 365 + 1)

/-- The first day number of a year (R10). -/
def yearStart (year : Nat) : Nat :=
  let k := year - 2000
  1461 * (k / 4) + (if k % 4 = 0 then 0 else 366 + 365 * (k % 4 - 1))

/-- The day of the year, from 1 (R10). -/
def dayOfYear (day : Nat) : Nat := day - yearStart (yearOf day) + 1

/-- The days before each month in a common year, with the month (R10). -/
def monthTable : List (Nat × Nat) :=
  [(1, 0), (2, 31), (3, 59), (4, 90), (5, 120), (6, 151), (7, 181), (8, 212), (9, 243), (10, 273), (11, 304), (12, 334)]

/-- The days before a month of a year (R10). -/
def daysBefore (leap : Bool) (row : Nat × Nat) : Nat := row.2 + (if leap && decide (2 < row.1) then 1 else 0)

/-- The month of a day of the year, with the days before it: the last row of R10's table whose "days before" is not
above the day counted from 0. -/
def monthRow (leap : Bool) (doy : Nat) : Nat × Nat :=
  (monthTable.filter fun row => decide (daysBefore leap row < doy)).getLastD (1, 0)

/-- The month of a day number (R10). -/
def monthOf (day : Nat) : Nat := (monthRow (isLeap (yearOf day)) (dayOfYear day)).1

/-- The day of the month of a day number (R10). -/
def dayOfMonth (day : Nat) : Nat :=
  dayOfYear day - daysBefore (isLeap (yearOf day)) (monthRow (isLeap (yearOf day)) (dayOfYear day))

/-- The weekday of a day number, 1 Monday to 7 Sunday (R11). -/
def weekdayOf (day : Nat) : Nat := (day + 5) % 7 + 1

/-- A present pattern field asks for its value, an absent one for nothing (R92). -/
def fieldMatches (f : Option Nat) (v : Nat) : Bool := f.all fun x => x == v

/-- Whether the date of a day number satisfies a pattern's month, day and weekday (R92). -/
def Pattern.matchesDay (p : Pattern) (day : Nat) : Bool :=
  fieldMatches p.month (monthOf day) && fieldMatches p.day (dayOfMonth day) && fieldMatches p.weekday (weekdayOf day)

/-- Whether a second of the day satisfies a pattern's hour, minute and second (R92). -/
def Pattern.matchesTime (p : Pattern) (sod : Nat) : Bool :=
  fieldMatches p.hour (hourOf sod) && fieldMatches p.minute (minuteOf sod) && fieldMatches p.second (secondOf sod)

/-- Whether an instant matches a CALENDAR entry (R92). -/
def calendarMatches (p : Pattern) (offset t : Nat) : Bool :=
  microsOf t == offset && p.matchesDay (dayNumber (secondsOf t)) && p.matchesTime (secondOfDay (secondsOf t))

/-- The first second of the day at or after a given one that satisfies a pattern's hour, minute and second. -/
def Pattern.firstTime (p : Pattern) (lo : Nat) : Option Nat :=
  (List.range 24).findSome? fun h =>
    if fieldMatches p.hour h && decide (lo < (h + 1) * 3600) then
      (List.range 60).findSome? fun m =>
        if fieldMatches p.minute m && decide (lo < h * 3600 + (m + 1) * 60) then
          (List.range 60).findSome? fun s =>
            if fieldMatches p.second s && decide (lo ≤ h * 3600 + m * 60 + s) then some (h * 3600 + m * 60 + s) else none
        else none
    else none

/-- The first second, at or after a second of the day of a day, that satisfies a pattern, looking through so many days. -/
def Pattern.firstSecond (p : Pattern) : Nat → Nat → Nat → Option Nat
  | 0, _, _ => none
  | days + 1, day, lo =>
    match (if p.matchesDay day then p.firstTime lo else none) with
    | some sod => some (day * 86400 + sod)
    | none => p.firstSecond days (day + 1) 0

/-- The days of the calendar, 0 to 36,524 (R9). -/
def calendarDays : Nat := 36525

/-- The next match after an instant: the earliest matching instant after it and at or before the end of range; none
where the entry is exhausted (R93). A matching instant is a second plus the offset, so the search is over seconds from
the first one whose instant lies after the given one. -/
def nextMatch (p : Pattern) (offset t : Nat) : Option Nat :=
  let first := if microsOf t < offset then secondsOf t else secondsOf t + 1
  (p.firstSecond (calendarDays - dayNumber first) (dayNumber first) (secondOfDay first)).map fun s => s * 1000000 + offset

/-- The number of matching instants after one instant and at or before another, counted up to a limit (R106). -/
def countMatches (p : Pattern) (offset last : Nat) : Nat → Nat → Nat
  | 0, _ => 0
  | limit + 1, t =>
    match nextMatch p offset t with
    | some m => if m ≤ last then countMatches p offset last limit m + 1 else 0
    | none => 0

end Sys2Proof.Machine
end

