-- ==== Sys2Proof/Machine/Operands.lean ====
section
/-! DEFINITION. The operand forms: from the field bytes of a request to the values the rules speak of. Each function
answers none for a field that its rule refuses with BAD_ARG (R187: a value that is not a code of its enumeration is
refused BAD_ARG by the owning rule). -/

namespace Sys2Proof.Machine

/-- A flag byte (R187: 0 no, 1 yes). -/
def flagOf (b : Byte) : Option Bool := if b = 0 then some false else if b = 1 then some true else none

/-- An optional field: outer none for a presence byte that is neither 0x00 nor 0x01 (log 8). -/
def OptField.read {n : Nat} (o : OptField n) : Option (Option (BitVec n)) :=
  if o.presence = 0 then some none else if o.presence = 1 then some (some o.value) else none

/-- A line number (R116). -/
def lineOf (b : Byte) : Option LineNo := if h : b.toNat < 16 then some ⟨b.toNat, h⟩ else none

/-- A channel number (R135). -/
def channelOf (b : Byte) : Option ChanNo := if h : b.toNat < 8 then some ⟨b.toNat, h⟩ else none

/-- An entry index (R64). -/
def entryOf (b : Byte) : Option EntryIx := if h : b.toNat < 64 then some ⟨b.toNat, h⟩ else none

/-- A subscription index (R158). -/
def subOf (b : Byte) : Option SubIx := if h : b.toNat < 24 then some ⟨b.toNat, h⟩ else none

/-- A port number (R69). -/
def portOf (b : Byte) : Option Port := if h : b.toNat < 4 then some ⟨b.toNat, h⟩ else none

/-- A record or subscription level (R74, R138, R157: 1 to 7). -/
def levelOf (b : Byte) : Option Nat := if 1 ≤ b.toNat ∧ b.toNat ≤ 7 then some b.toNat else none

/-- A level of a line (R187). -/
def pinLevelOf (b : Byte) : Option PinLevel := if b = 0 then some .low else if b = 1 then some .high else none

/-- A line action (R187). -/
def actionOf (b : Byte) : Option LineAction :=
  match b.toNat with
  | 0 => some .pulse
  | 1 => some .assert
  | 2 => some .deassert
  | 3 => some .toggle
  | _ => none

/-- A scope (R187). -/
def scopeOf (b : Byte) : Option Scope := if b = 0 then some .own else if b = 1 then some .all else none

/-- A digest content (R187). -/
def contentOf (b : Byte) : Option Content := if b = 0 then some .definition else if b = 1 then some .full else none

/-- A retrigger policy (R187). -/
def policyOf (b : Byte) : Option Retrigger := if b = 0 then some .restart else if b = 1 then some .keep else none

/-- A source selection that SELECT_SOURCE may ask for (R24). -/
def selectionOf (b : Byte) : Option SourceSelection :=
  if b = 1 then some .internalOnly else if b = 2 then some .reference else none

/-- A capture mode (R187). -/
def modeOf (b : Byte) : Option Mode :=
  match b.toNat with
  | 0 => some .stamp
  | 1 => some .period
  | 2 => some .width
  | 3 => some .count
  | _ => none

/-- An edge select (R187). -/
def edgeOf (b : Byte) : Option EdgeSelect :=
  match b.toNat with
  | 0 => some .rise
  | 1 => some .fall
  | 2 => some .both
  | _ => none

/-- The count source of a channel (R138, R187): own pin, or a channel below the channel's own number. -/
def countSourceOf (c : ChanNo) (b : Byte) : Option CountSource :=
  if b = 0x0F then some .ownPin
  else match channelOf b with
    | some d => if d.val < c.val then some (.channel d) else none
    | none => none

/-- The non-empty sets of capture record kinds (R61, R74, R157). -/
def captureKinds (b : Byte) : Bool := b != 0 && !b.getLsbD 7

/-- A time value within the range of a target or an anchor (R61), in microseconds. -/
def targetOf (seconds : BitVec 32) (micros : BitVec 24) : Option Nat :=
  if seconds.toNat ≤ 3155759999 ∧ micros.toNat ≤ 999999 then some (seconds.toNat * 1000000 + micros.toNat) else none

/-- One pattern field: outer none for a value outside its range, inner none for the 0xFF of absence (R61, R187). -/
def patternFieldOf (lo hi : Nat) (b : Byte) : Option (Option Nat) :=
  if b = 0xFF then some none else if lo ≤ b.toNat ∧ b.toNat ≤ hi then some (some b.toNat) else none

/-- A CALENDAR pattern (R61). -/
def patternOf (month day weekday hour minute second : Byte) : Option Pattern := do
  let mo ← patternFieldOf 1 12 month
  let d ← patternFieldOf 1 31 day
  let w ← patternFieldOf 1 7 weekday
  let h ← patternFieldOf 0 23 hour
  let mi ← patternFieldOf 0 59 minute
  let s ← patternFieldOf 0 59 second
  return { month := mo, day := d, weekday := w, hour := h, minute := mi, second := s }

/-- The definition that a block gives, every field within its range of R61. -/
def definitionOf : DefBlock → Option Definition
  | .atTime s m => (targetOf s m).map .atTime
  | .every s m p =>
    match targetOf s m with
    | some a => if 100 ≤ p.toNat then some (.every a p.toNat) else none
    | none => none
  | .calendar mo d w h mi s o =>
    match patternOf mo d w h mi s with
    | some pat => if o.toNat ≤ 999999 then some (.calendar pat o.toNat) else none
    | none => none
  | .after c k d pol =>
    match channelOf c, policyOf pol with
    | some ch, some po => if captureKinds k then some (.after ch k d.toNat po) else none
    | _, _ => none
  | .unknown _ => none

/-- Whether a definition is of kind AT. -/
def Definition.isAt : Definition → Bool
  | .atTime _ => true
  | .every _ _ | .calendar _ _ | .after _ _ _ _ => false

/-- An entry definition whose fields have passed step 1 of R74. -/
structure ArmRequest where
  defn : Definition
  lateOk : Bool
  remaining : Option Nat
  line : Option (LineNo × LineAction)
  record : Option Nat
  shareable : Bool
  tag : BitVec 32
  keep : Bool
  deriving DecidableEq, Repr

/-- The optional line action of ARM_ENTRY (R73, R189). -/
def lineActionOf (presence line action : Byte) : Option (Option (LineNo × LineAction)) :=
  if presence = 0 then some none
  else if presence = 1 then
    match lineOf line, actionOf action with
    | some l, some a => some (some (l, a))
    | _, _ => none
  else none

/-- The optional remaining count of ARM_ENTRY: 1 to 65,535 (R73). -/
def remainingOf (o : OptField 16) : Option (Option Nat) :=
  match OptField.read o with
  | some (some v) => if v = 0 then none else some (some v.toNat)
  | some none => some none
  | none => none

/-- The optional record action of ARM_ENTRY: a level 1 to 7 (R73). -/
def recordOf (o : OptField 8) : Option (Option Nat) :=
  match OptField.read o with
  | some (some v) => (levelOf v).map some
  | some none => some none
  | none => none

/-- Step 1 of R74: the fields in their ranges; no remaining count for AT; late-ok for AT alone; at least one action. -/
def armRequestOf (f : ArmFields) : Option ArmRequest := do
  let defn ← definitionOf f.defn
  let lateOk ← flagOf f.lateOk
  let remaining ← remainingOf f.remaining
  let line ← lineActionOf f.linePresence f.line f.action
  let record ← recordOf f.record
  let shareable ← flagOf f.shareable
  let keep ← flagOf f.keep
  if (defn.isAt && remaining.isSome) || (!defn.isAt && lateOk) || (line.isNone && record.isNone) then none
  else return { defn := defn, lateOk := lateOk, remaining := remaining, line := line, record := record,
                shareable := shareable, tag := f.tag, keep := keep }

/-- The source and the kinds set of SUBSCRIBE (R157 step 1, R192). -/
def subSourceOf (kind s1 s2 kinds : Byte) : Option SubSource :=
  if kind = 0 then
    match channelOf s1 with
    | some c => if captureKinds kinds then some (.channel c) else none
    | none => none
  else if kind = 1 then
    match entryOf s1 with
    | some i => if kinds = 0x80 then some (.entry i s2) else none
    | none => none
  else none

end Sys2Proof.Machine
end

