-- ==== Sys2Proof/Machine/Codec.lean ====
section
/-! DEFINITION. The byte layouts a master sees (section 10.6): the codes of R187, timestamps, entry definitions, records,
the canonical forms of the digest, its CRC-32, and the bytes a fetch clocks out. -/

namespace Sys2Proof.Machine

/-- One byte holding a small number. -/
def byteOf (n : Nat) : Byte := BitVec.ofNat 8 n

/-- A flag (R187: 0 no, 1 yes). -/
def flagByte (b : Bool) : Byte := if b then 1 else 0

/-- An optional field of k value bytes (R187). -/
def optBytes (k : Nat) : Option (List Byte) → List Byte
  | none => List.replicate (k + 1) 0
  | some bs => 1 :: bs

/-- An optional number of k bytes (R187). -/
def optNat (k : Nat) (x : Option Nat) : List Byte := optBytes k (x.map (bytesBE k))

/-- A signed number in two's complement, k bytes (R187). -/
def intBE (k : Nat) (i : Int) : List Byte := bytesBE k (i % ((256 : Int) ^ k)).toNat

/-- A time value: seconds 4, microseconds 3 (R187). -/
def timeBytes (t : Nat) : List Byte := bytesBE 4 (secondsOf t) ++ bytesBE 3 (microsOf t)

/-- An optional time value, 8 bytes (R187). -/
def optTime (t : Option Nat) : List Byte := optBytes 7 (t.map timeBytes)

/-- A port that may be none, 2 bytes (R193). -/
def optPort (p : Option Port) : List Byte := optNat 1 (p.map Fin.val)

/-- The quality codes (R187). -/
def Quality.code : Quality → Nat
  | .unset => 0
  | .freeRun => 1
  | .tracking => 2
  | .holdover => 3

/-- A timestamp: epoch 2, time value 7, quality 1 (R187). -/
def Timestamp.bytes (t : Timestamp) : List Byte :=
  bytesBE 2 t.epoch.toNat ++ timeBytes t.time ++ [byteOf t.quality.code]

/-- The slew direction codes (R187). -/
def SlewDirection.code : SlewDirection → Nat
  | .none => 0
  | .positive => 1
  | .negative => 2

/-- The source selection codes (R187). -/
def SourceSelection.code : SourceSelection → Nat
  | .notChosen => 0
  | .internalOnly => 1
  | .reference => 2

/-- The monitor state codes (R187). -/
def MonitorState.code : MonitorState → Nat
  | .refOff => 0
  | .refAbsent => 1
  | .refQualifying => 2
  | .refGood => 3

/-- The rate source codes (R187); READ_CLOCK is never taken on the backup oscillator. -/
def RateSource.code : RateSource → Nat
  | .internal => 0
  | .reference => 1
  | .backup => 0

/-- The adjustment outcome codes (R187). -/
def AdjustOutcome.code : AdjustOutcome → Nat
  | .completed => 0
  | .cancelled => 1
  | .range => 2

/-- The line action codes (R187). -/
def LineAction.code : LineAction → Nat
  | .pulse => 0
  | .assert => 1
  | .deassert => 2
  | .toggle => 3

/-- The level codes (R187). -/
def pinCode : PinLevel → Nat
  | .low => 0
  | .high => 1

/-- The drive state codes (R187). -/
def Drive.code : Drive → Nat
  | .idle => 0
  | .pulsing _ => 1
  | .held _ => 2

/-- The mode codes (R187). -/
def Mode.code : Mode → Nat
  | .stamp => 0
  | .period => 1
  | .width => 2
  | .count => 3

/-- The edge select codes (R187). -/
def EdgeSelect.code : EdgeSelect → Nat
  | .rise => 0
  | .fall => 1
  | .both => 2

/-- The count source codes (R187). -/
def CountSource.code : CountSource → Nat
  | .ownPin => 15
  | .channel c => c.val

/-- The scope codes (R187). -/
def Scope.code : Scope → Nat
  | .own => 0
  | .all => 1

/-- The content codes (R187). -/
def Content.code : Content → Nat
  | .definition => 0
  | .full => 1

/-- The retrigger policy codes (R187). -/
def Retrigger.code : Retrigger → Nat
  | .restart => 0
  | .keep => 1

/-- The record kind codes (R187). -/
def RecordKind.code : RecordKind → Nat
  | .edgeRise => 1
  | .edgeFall => 2
  | .period => 3
  | .widthHigh => 4
  | .widthLow => 5
  | .expiry => 6
  | .overflow => 7
  | .firing => 8
  | .lineTimeout => 9
  | .adjustDone => 10
  | .subEnded => 11

/-- The status codes (R192). -/
def Status.code : Status → Nat
  | .ok => 0x00
  | .queued => 0x01
  | .pending => 0x02
  | .noResponse => 0x03
  | .frameError => 0x04
  | .badRequest => 0x05
  | .badArg => 0x06
  | .busy => 0x07
  | .notAuthority => 0x08
  | .authorityHeld => 0x09
  | .keyMismatch => 0x0A
  | .owned => 0x0B
  | .notOwner => 0x0C
  | .notFound => 0x0D
  | .inUse => 0x0E
  | .pinned => 0x0F
  | .noRoom => 0x10
  | .quota => 0x11
  | .tooLate => 0x12
  | .noTime => 0x13
  | .range => 0x14
  | .locked => 0x15
  | .notReady => 0x16
  | .notStopped => 0x17
  | .empty => 0x18
  | .stale => 0x19

/-! ## Entries -/

/-- The entry kind codes (R187). -/
def Definition.code : Definition → Nat
  | .atTime _ => 0
  | .every _ _ => 1
  | .calendar _ _ => 2
  | .after _ _ _ _ => 3

/-- A pattern field, 0xFF for absent (R187). -/
def patternByte (f : Option Nat) : Byte := byteOf (f.getD 0xFF)

/-- The definition block (R189). -/
def Definition.block : Definition → List Byte
  | .atTime t => timeBytes t
  | .every a p => timeBytes a ++ bytesBE 4 p
  | .calendar p o =>
    [patternByte p.month, patternByte p.day, patternByte p.weekday, patternByte p.hour, patternByte p.minute,
      patternByte p.second] ++ bytesBE 3 o
  | .after c k d pol => [byteOf c.val, k] ++ bytesBE 4 d ++ [byteOf pol.code]

/-- Bytes padded with zero bytes to a length (R191). -/
def padTo (n : Nat) (bs : List Byte) : List Byte := bs ++ List.replicate (n - bs.length) 0

/-- The entry state codes (R187). -/
def RunState.code : RunState → Nat
  | .waiting => 1
  | .armed _ => 2
  | .heldArmed _ => 3
  | .heldWaiting => 3
  | .spent => 4

/-- The held_from codes (R187). -/
def RunState.heldFrom : RunState → Nat
  | .heldWaiting => 1
  | .heldArmed _ => 2
  | .waiting => 0
  | .armed _ => 0
  | .spent => 0

/-- The due time an entry has, or keeps while HELD from ARMED (R60, R84). -/
def RunState.due : RunState → Option Nat
  | .armed d => some d
  | .heldArmed d => some d
  | .waiting => none
  | .heldWaiting => none
  | .spent => none

/-- The line action, 3 bytes (R189). -/
def Body.lineBytes (b : Body) : List Byte := optBytes 2 (b.line.map fun x => [byteOf x.1.val, byteOf x.2.code])

/-- The record action, 2 bytes (R187, R189). -/
def Body.recordBytes (b : Body) : List Byte := optNat 1 b.record

/-- The DEFINITION form of an entry, 23 bytes (R174, R191). -/
def Body.definitionForm (b : Body) : List Byte :=
  [byteOf b.owner.val, byteOf b.defn.code] ++ padTo 11 b.defn.block ++ b.lineBytes ++ b.recordBytes ++
    [flagByte b.shareable] ++ bytesBE 4 b.tag.toNat

/-- The FULL form of an entry, 38 bytes (R174, R191). -/
def Body.fullForm (b : Body) : List Byte :=
  b.definitionForm ++ [byteOf b.run.code, byteOf b.run.heldFrom] ++ optTime b.run.due ++ optNat 2 b.remaining ++
    bytesBE 2 b.fireCount

/-- The canonical form of an entry for a content (R174). -/
def Body.form (b : Body) : Content → List Byte
  | .definition => b.definitionForm
  | .full => b.fullForm

/-! ## The digest's CRC-32 -/

/-- One bit of the CRC-32 register, polynomial 0x04C11DB7 in reflected form (R174). -/
def crc32Bit (r : BitVec 32) : BitVec 32 := if r.getLsbD 0 then (r >>> 1) ^^^ 0xEDB88320#32 else r >>> 1

/-- One byte into the CRC-32 register, least significant bit first (R174). -/
def crc32Byte (r : BitVec 32) (b : Byte) : BitVec 32 :=
  crc32Bit (crc32Bit (crc32Bit (crc32Bit (crc32Bit (crc32Bit (crc32Bit (crc32Bit (r ^^^ b.setWidth 32))))))))

/-- Bytes into the CRC-32 register (R174). -/
def crc32Feed (r : BitVec 32) (bs : List Byte) : BitVec 32 := bs.foldl crc32Byte r

/-! ## Records and responses -/

/-- The source of a record, 2 bytes (R190). -/
def RecordSource.bytes : RecordSource → List Byte
  | .entry i n => [byteOf i.val, n]
  | .number n => [0, byteOf n]

/-- The flags of a copy (R190: bit 0 GAP, bit 1 LATE). -/
def Copy.flags (c : Copy) : Byte := byteOf ((if c.gap then 1 else 0) + (if c.record.late then 2 else 0))

/-- A copy as TAKE_RECORD returns it, 34 bytes (R190). -/
def Copy.bytes (c : Copy) : List Byte :=
  [byteOf c.record.kind.code, byteOf c.level, c.flags] ++ c.record.source.bytes ++ c.record.stamp.bytes ++
    bytesBE 4 c.record.value ++ optTime c.record.due ++ optNat 2 c.record.missed ++ optNat 3 c.record.remaining

/-- A level that may be absent, one byte (R187). -/
def levelByte (l : Option Nat) : Byte := byteOf (l.getD 0)

/-- The highest level in a queue: that of its first copy (R160, R162). -/
def queueTop (q : List Copy) : Option Nat := q.head?.map Copy.level

/-- A response as it is clocked out: status code, length, fields and CRC-8 (R181). -/
def Response.bytes (r : Response) : List Byte :=
  let body := byteOf r.status.code :: byteOf r.fields.length :: r.fields
  body ++ [crc8 body]

/-- What a fetch clocks out after the status byte in each slot state (R181). -/
def Slot.bytes : Slot → List Byte
  | .ready r => r.bytes
  | .pending => Response.bytes { status := .pending, fields := [] }
  | .empty => Response.bytes { status := .noResponse, fields := [] }

end Sys2Proof.Machine
end

