-- ==== Sys2Proof/Machine/LineOps.lean ====
section
/-! DEFINITION. The shared operations of the trigger unit: the line actions, the output level, the two timer ends and
the return of a line to no owner (Chapter 6). -/

namespace Sys2Proof.Machine

/-- The opposite level (R114: the active level is the other one). -/
def PinLevel.other : PinLevel → PinLevel
  | .low => .high
  | .high => .low

/-- The output level of a line: idle level while IDLE, active level otherwise (R114). From a reset's beginning to its end it is
LOW (R131), the reset values being held; without the main supply it is shown so too (the model's choice, log 32). -/
def Line.output (x : Line) : PinLevel :=
  match x.drive with
  | .idle => x.idleLevel
  | .pulsing _ => PinLevel.other x.idleLevel
  | .held _ => PinLevel.other x.idleLevel

/-- HELD, with the hold timer started at the hold limit if it is not 0; the limit is in ms (R114, R120). -/
def Line.startHold (x : Line) : Drive := .held (if x.holdLimit = 0 then none else some (x.holdLimit * 1000))

/-- The drive state an action leads to (the table of R120). -/
def Line.actedOn (x : Line) (a : LineAction) : Drive :=
  match a, x.drive with
  | .pulse, _ => .pulsing x.width
  | .assert, _ => x.startHold
  | .deassert, _ => .idle
  | .toggle, .idle => x.startHold
  | .toggle, .pulsing _ => .idle
  | .toggle, .held _ => .idle

/-- An action applied to a line and written as its last action (R120, R124, R125). -/
def State.applyAction (s : State) (l : LineNo) (a : LineAction) (src : ActionSource) : State :=
  s.setLine l { s.line l with drive := (s.line l).actedOn a, last := some { source := src, action := a, stamp := s.stamp } }

/-- The end of a pulse, where the pulse timer has reached 0 (R121). -/
def State.endPulse (s : State) (l : LineNo) : State :=
  match (s.line l).drive with
  | .pulsing 0 => s.setLine l { s.line l with drive := .idle }
  | .pulsing (_ + 1) => s
  | .idle => s
  | .held _ => s

/-- The LINE_TIMEOUT record of a line (R122). -/
def lineTimeoutRecord (l : LineNo) (holdLimit : Nat) (t : Timestamp) : Record :=
  { kind := .lineTimeout, late := false, source := .number l.val, stamp := t, value := holdLimit, due := none,
    missed := none, remaining := none }

/-- A record handed to a port that may be none. -/
def State.deliverTo (s : State) (p : Option Port) (level : Nat) (r : Record) : State :=
  match p with
  | some q => s.deliver q level r
  | none => s

/-- The expiry of a hold, where the hold timer has reached 0: IDLE, and LINE_TIMEOUT to the owner (R122). -/
def State.expireHold (s : State) (l : LineNo) : State :=
  match (s.line l).drive with
  | .held (some 0) =>
    (s.setLine l { s.line l with drive := .idle }).deliverTo (s.line l).owner 5
      (lineTimeoutRecord l (s.line l).holdLimit s.stamp)
  | .held (some (_ + 1)) => s
  | .held none => s
  | .idle => s
  | .pulsing _ => s

/-- A line given up: IDLE, no owner, no last action; the configuration stays (R117, R129). -/
def Line.released (x : Line) : Line := { x with owner := none, drive := .idle, last := none }

/-- The unpinned lines of a port released (R129); its pinned lines stay as they are (R130). -/
def State.releaseLines (s : State) (p : Port) : State :=
  allLines.foldl
    (fun t l => if (t.line l).owner = some p ∧ (t.line l).pinned = false then t.setLine l (t.line l).released else t) s

end Sys2Proof.Machine
end

