-- ==== Sys2Proof/Machine/TableOps.lean ====
section
/-! DEFINITION. The shared operations of the schedule unit: the generations, freeing, due times, the firing of an entry,
overdue resolution, what a step does to the table, and what a capture record does to it (Chapters 4 and 5). -/

namespace Sys2Proof.Machine

/-! ## Generations -/

/-- The changed mark of a walk that watches a generation (R171). -/
def State.markChanged (s : State) (c : Content) : State :=
  match s.digest with
  | some w => if w.content = c then { s with digest := some { w with changed := true } } else s
  | none => s

/-- A change that raises the full generation alone (R72). -/
def State.bumpFull (s : State) : State :=
  State.markChanged { s with schedule := { s.schedule with fullGen := s.schedule.fullGen + 1 } } .full

/-- A change that raises both generations (R71, R72). -/
def State.bumpBoth (s : State) : State :=
  State.markChanged (State.bumpFull { s with schedule := { s.schedule with defGen := s.schedule.defGen + 1 } }) .definition

/-! ## Freeing -/

/-- An entry becomes FREE and the generations rise (R83 steps 1 to 3 and 5). The owner's count and the entries-naming
counts fall with it, being counts of the entries that are not FREE. Its subscriptions end at the end of the event that
frees it, in the one order of R159. -/
def State.vacate (s : State) (i : EntryIx) : State := (s.setBody i none).bumpBoth

/-- An entry freed in an event that frees no other, with the end of its subscriptions (R83). -/
def State.freeEntry (s : State) (i : EntryIx) : State := (s.vacate i).endGone s

/-- The entries of a port freed in ascending order of index (R86). -/
def State.freeEntriesOf (s : State) (p : Port) : State :=
  allEntries.foldl (fun t i => if (t.entry i).body.any (fun b => decide (b.owner = p)) then t.vacate i else t) s

/-- The lowest-numbered index whose entry is FREE (R63). -/
def State.lowestFree (s : State) : Option EntryIx := allEntries.find? fun i => (s.entry i).body.isNone

/-! ## Due times -/

/-- The first point of an EVERY grid that lies after an instant (R90, R105). -/
def firstGridAfter (anchor period now : Nat) : Nat :=
  if now < anchor then anchor else anchor + ((now - anchor) / period + 1) * period

/-- The largest missed count that is reported (R106). -/
def missedLimit : Nat := 65535

/-- The missed count of a resolution, from the due time and now (R106). -/
def missedCount (d : Definition) (due now : Nat) : Nat :=
  match d with
  | .atTime _ => 0
  | .every _ p => min missedLimit ((now - due) / p)
  | .calendar pat off => countMatches pat off now missedLimit due
  | .after _ _ _ _ => 0

/-- The state in which a firing leaves an entry that stays in its round, by kind (R91, R103, R105); none where the entry
leaves its round. The remaining count given is the one after part 4 of the firing. -/
def nextRun (d : Definition) (remaining : Option Nat) (late : Bool) (due now : Nat) : Option RunState :=
  match d with
  | .atTime _ => none
  | .every a p =>
    if remaining = some 0 then none else some (.armed (if late then firstGridAfter a p now else due + p))
  | .calendar pat off => if remaining = some 0 then none else (nextMatch pat off now).map .armed
  | .after _ _ _ _ => if remaining = some 0 then none else some .waiting

/-! ## Firing -/

/-- The FIRING record of an entry (R100). -/
def firingRecord (i : EntryIx) (inst : BitVec 8) (b : Body) (due : Nat) (late : Bool) (missed : Nat) (t : Timestamp) : Record :=
  { kind := .firing, late := late, source := .entry i inst, stamp := t, value := b.tag.toNat,
    due := if due = t.time then none else some due, missed := if missed = 0 then none else some missed, remaining := none }

/-- Part 1 of a firing: the line action handed to the trigger unit (R99, R101). -/
def State.fireLine (s : State) (i : EntryIx) (inst : BitVec 8) (b : Body) : State :=
  match b.line with
  | some x => s.applyAction x.1 x.2 (.firing i inst)
  | none => s

/-- Parts 3 and 4 of a firing: the fire count, the last firing and the remaining count (R102). -/
def Body.fired (b : Body) (late : Bool) (missed : Nat) (t : Timestamp) : Body :=
  { b with fireCount := min 65535 (b.fireCount + 1), last := some { stamp := t, late := late, missed := missed },
           remaining := b.remaining.map fun n => n - 1 }

/-- Part 5 of a firing: the next state, SPENT or FREE where the entry leaves its round (R103). -/
def State.settleFired (s : State) (i : EntryIx) (b : Body) (late : Bool) (due : Nat) : State :=
  match nextRun b.defn b.remaining late due s.now with
  | some r => s.setBody i (some { b with run := r })
  | none => if b.keep then s.setBody i (some { b with run := .spent }) else s.vacate i

/-- The firing of an ARMED entry (R99): line, record, firing state, count, next state. Where it frees the entry, the
entry's subscriptions end at the end of the event. -/
def State.fireWithin (s : State) (i : EntryIx) (late : Bool) (missed : Nat) : State :=
  match (s.entry i).body with
  | some b =>
    match b.run with
    | .armed due =>
      let inst := (s.entry i).inst
      let record := firingRecord i inst b due late missed s.stamp
      let driven := s.fireLine i inst b
      let recorded := driven.deliverShared (.entry i inst) (b.record.map fun l => (b.owner, l)) record
      recorded.bumpFull.settleFired i (b.fired late missed s.stamp) late due
    | .waiting => s
    | .heldArmed _ => s
    | .heldWaiting => s
    | .spent => s
  | none => s

/-- A firing that is carried out whole, the end of the entry's subscriptions included (R83, R98, R99). -/
def State.fire (s : State) (i : EntryIx) (late : Bool) (missed : Nat) : State := (s.fireWithin i late missed).endGone s

/-- The due time of an ARMED entry. -/
def Entry.armedDue (e : Entry) : Option Nat :=
  match e.body with
  | some b =>
    match b.run with
    | .armed d => some d
    | .waiting => none
    | .heldArmed _ => none
    | .heldWaiting => none
    | .spent => none
  | none => none

/-- The ARMED entries whose due times satisfy a test fired on time, in ascending order of index, each firing carried out
whole before the next begins (R98). -/
def State.fireWhere (s : State) (test : Nat → Bool) : State :=
  allEntries.foldl (fun u i => if (u.entry i).armedDue.any test then u.fire i false 0 else u) s

/-- The entries due at or before a value fired on time (R98). -/
def State.fireDue (s : State) (t : Nat) : State := s.fireWhere fun d => decide (d ≤ t)

/-- The firings that an advance calls for: of the entries due at a value it has passed over, and then of those due at now
(R8, R98). -/
def State.fireReached (s : State) : State := (s.fireWhere fun d => decide (d < s.now)).fireDue s.now

/-- The firings that the latest advance has left, made now: on time, of the entries that are then ARMED for now or before
it (R98, R104; log 30). -/
def State.fireUnfired (s : State) : State := if s.unfired then State.fireReached { s with unfired := false } else s

/-- The entries whose firings an advance calls for, in the order of the firings (R98). -/
def State.reached (s : State) : List EntryIx :=
  allEntries.filter (fun i => (s.entry i).armedDue.any fun d => decide (d < s.now)) ++
    allEntries.filter fun i => decide ((s.entry i).armedDue = some s.now)

/-- The next one of the firings that the latest advance has left, made now; the others are left still (R98, R104; log 30). -/
def State.fireOne (s : State) : State :=
  if s.unfired then
    match s.reached with
    | [] => { s with unfired := false }
    | i :: rest => State.fire { s with unfired := !rest.isEmpty } i false 0
  else s

/-- Overdue resolution of an ARMED entry (R105, R106), its subscriptions left to the end of the event. -/
def State.resolveWithin (s : State) (i : EntryIx) : State :=
  match (s.entry i).body with
  | some b =>
    match b.run with
    | .armed due => if due ≤ s.now then s.fireWithin i true (missedCount b.defn due s.now) else s
    | .waiting => s
    | .heldArmed _ => s
    | .heldWaiting => s
    | .spent => s
  | none => s

/-- Overdue resolution in an event that resolves no other entry (R108). -/
def State.resolve (s : State) (i : EntryIx) : State := (s.resolveWithin i).endGone s

/-- What a forward set or step does to the table (R107): the resolutions, all in the one event of the application, and
then the end of the subscriptions to the entries they freed (R159, log 27). -/
def State.stepForward (s : State) : State := (allEntries.foldl State.resolveWithin s).endGone s

/-- What a backward set or step does to one entry: a CALENDAR entry that is ARMED or held from ARMED has its due time
found again (R110). An entry HELD past its last match finds none, and there the spec states no due time: it keeps the one
it had, which is the model's choice (log 22). An ARMED one due at the value a POSITIVE slew passed over, with its firing
left, is found again too where the new now is that value: the later match replaces a due time that is then never served,
though R104 has it served once, which is the model's choice (log 31). -/
def State.recompute (s : State) (i : EntryIx) : State :=
  match (s.entry i).body with
  | some b =>
    match b.defn with
    | .calendar pat off =>
      match b.run with
      | .armed d => (s.setBody i (some { b with run := .armed ((nextMatch pat off s.now).getD d) })).bumpFull
      | .heldArmed d => (s.setBody i (some { b with run := .heldArmed ((nextMatch pat off s.now).getD d) })).bumpFull
      | .waiting => s
      | .heldWaiting => s
      | .spent => s
    | .atTime _ => s
    | .every _ _ => s
    | .after _ _ _ _ => s
  | none => s

/-- What a backward set or step does to the table (R110). -/
def State.stepBackward (s : State) : State := allEntries.foldl (fun t i => t.recompute i) s

/-! ## Capture records at the table -/

/-- A due time given to an AFTER entry by a capture record; with a delay of 0 the entry fires in the same event, on time,
unless the range is held (R95, R96, R113). -/
def State.armAt (s : State) (i : EntryIx) (b : Body) (due : Nat) : State :=
  let armed := (s.setBody i (some { b with run := .armed due })).bumpFull
  if due ≤ s.now ∧ s.backup.rangeHeld = false then armed.fireWithin i false 0 else armed

/-- What a capture record of a channel does to one entry (R94). -/
def State.captureAt (s : State) (c : ChanNo) (k : RecordKind) (time : Nat) (i : EntryIx) : State :=
  match (s.entry i).body with
  | some b =>
    match b.defn with
    | .after ch kinds delay policy =>
      if ch = c ∧ inKinds kinds k = true then
        match b.run with
        | .waiting => s.armAt i b (time + delay)
        | .armed _ => if policy = .restart then s.armAt i b (time + delay) else s
        | .heldArmed _ => s
        | .heldWaiting => s
        | .spent => s
      else s
    | .atTime _ => s
    | .every _ _ => s
    | .calendar _ _ => s
  | none => s

/-- A capture record at the schedule unit: every matching entry, in ascending order of index (R94). -/
def State.captureAll (s : State) (c : ChanNo) (k : RecordKind) (time : Nat) : State :=
  allEntries.foldl (fun t i => t.captureAt c k time i) s

end Sys2Proof.Machine
end

