-- ==== Sys2Proof/Machine/TimeOps.lean ====
section
/-! DEFINITION. The shared operations of the clock supervisor, of the authority and adjustment unit and of the timebase:
the quality transitions, the windows of the monitor, applying a set or a step, the beginning and the end of a slew, the
discarding of the queue, the change of holder, the end of range and the advance of the count (Chapters 1 to 3). -/

namespace Sys2Proof.Machine

/-! ## Quality (section 2.3) -/

/-- The quality replaced. -/
def State.setQuality (s : State) (q : Quality) : State := { s with backup := { s.backup with quality := q } }

/-- A change of quality to TRACKING, with TRACKING_BEGUN at every attached port (R35). -/
def State.beginTracking (s : State) : State := (s.setQuality .tracking).raiseAll .trackingBegun

/-- A condition raised at the holder of the authority, if there is one (R34). -/
def State.raiseAtHolder (s : State) (k : Condition) : State :=
  match s.authority.holder with
  | some p => s.raiseAt p k
  | none => s

/-- What reaching REF_GOOD does to the quality (R32). -/
def State.refGoodReached (s : State) : State :=
  match s.backup.quality with
  | .unset => s
  | .freeRun => s.beginTracking
  | .holdover => s.raiseAtHolder .refReady
  | .tracking => s

/-- What leaving REF_GOOD does to the quality (R33). -/
def State.refGoodLeft (s : State) : State :=
  match s.backup.quality with
  | .tracking => (s.setQuality .holdover).raiseAll .holdover
  | .unset => s
  | .freeRun => s
  | .holdover => s

/-- The examination of the quality at a reset (R6). -/
def Quality.examined : Quality → Quality
  | .tracking => .freeRun
  | .holdover => .freeRun
  | .freeRun => .freeRun
  | .unset => .unset

/-! ## The monitor (section 2.2) -/

/-- An integer over a positive natural, rounded to the nearest, halves away from zero (R26). -/
def roundDiv (n : Int) (d : Nat) : Int := n.sign * (((2 * n.natAbs + d) / (2 * d) : Nat) : Int)

/-- A frequency error held within -32,768 to 32,767 (R26). -/
def clampError (e : Int) : Int := max (-32768) (min 32767 e)

/-- The frequency error of a window in ppm from its cycles and the measured time in thousandths of a microsecond (R26):
cycles over ten times the microseconds, less one, times 1,000,000. -/
def windowError (cycles measured : Nat) : Int :=
  clampError (roundDiv ((100 * (cycles : Int) - measured) * 1000000) measured)

/-- The error of a window in which no interval was measured: FREE within the range R26 gives (log 3, log 11). -/
def freeError (n : Nat) : Int := ((Config.freeValue n % 65536 : Nat) : Int) - 32768

/-- The monitor with a new window begun (R26): no edge seen in it yet. R26 does not say whether an edge at the very instant
at which one window ends and the next begins is seen in both: the model counts it in one, in the window that the order of
the two commands puts it in (the model's choice, log 29). -/
def Monitor.newWindow (m : Monitor) : Monitor := { m with elapsed := 0, edgeSeen := false, cycles := 0, measured := 0 }

/-- The monitor taken to REF_ABSENT: count 0, the window discarded, the last window error as it was (R25, R30). -/
def Monitor.absent (m : Monitor) : Monitor := { m.newWindow with state := .refAbsent, windowCount := 0, sinceEdge := 0 }

/-- The end of a window judged in REF_QUALIFYING (R28). -/
def State.judgeQualifying (s : State) (e : Int) : State :=
  let m := { s.monitor.newWindow with lastError := some e }
  if e.natAbs ≤ 100 then
    if m.windowCount + 1 < 16 then { s with monitor := { m with windowCount := m.windowCount + 1 } }
    else State.refGoodReached { s with monitor := { m with windowCount := 16, state := .refGood } }
  else { s with monitor := { m with windowCount := 0 } }

/-- The end of a window judged in REF_GOOD (R29). -/
def State.judgeGood (s : State) (e : Int) : State :=
  let m := { s.monitor.newWindow with lastError := some e }
  if e.natAbs ≤ 500 then { s with monitor := m }
  else State.refGoodLeft { s with monitor := { m with windowCount := 0, state := .refQualifying } }

/-- The error of the window in progress, with the state that has drawn a free value where one was needed (R26). -/
def State.windowErrorNow (s : State) : State × Int :=
  if s.monitor.measured = 0 then ({ s with freeCount := s.freeCount + 1 }, freeError s.freeCount)
  else (s, windowError s.monitor.cycles s.monitor.measured)

/-- The end of a window, where its 1,000 device microseconds have passed (R26, R28, R29). -/
def State.endWindow (s : State) : State :=
  if s.monitor.elapsed = 1000 then
    match s.monitor.state with
    | .refQualifying => s.windowErrorNow.1.judgeQualifying s.windowErrorNow.2
    | .refGood => s.windowErrorNow.1.judgeGood s.windowErrorNow.2
    | .refOff => s
    | .refAbsent => s
  else s

/-- The reference taken to be lost (R30). -/
def State.loseReference (s : State) : State :=
  match s.monitor.state with
  | .refQualifying => { s with monitor := s.monitor.absent }
  | .refGood => State.refGoodLeft { s with monitor := s.monitor.absent }
  | .refOff => s
  | .refAbsent => s

/-- The reference lost where 1 microsecond has passed since its last edge and no command has told of the loss (R30): with
two microseconds ended since the edge, the second of them held none. -/
def State.takeLoss (s : State) : State := if 2 ≤ s.monitor.sinceEdge then s.loseReference else s

/-- The edge that takes the monitor out of REF_ABSENT and begins the first window (R26, R27). -/
def Monitor.firstEdge (m : Monitor) : Monitor :=
  { m.newWindow with state := .refQualifying, windowCount := 0, edgeSeen := true, sinceEdge := 0 }

/-- An edge within a window, so long after the edge before it (R26). -/
def Monitor.countEdge (m : Monitor) (gap : Nat) : Monitor :=
  if m.edgeSeen then { m with cycles := m.cycles + 1, measured := m.measured + gap, sinceEdge := 0 }
  else { m with edgeSeen := true, sinceEdge := 0 }

/-- The interval from the last edge to one that says so long a gap: at least what the microseconds ended since the last
edge show, of which the first may have held it (R30, log 10). -/
def Monitor.interval (m : Monitor) (gap : Nat) : Nat := max gap (1000 * (m.sinceEdge - 1))

/-- An edge of the reference input, after its interval since the last edge (R27, R30). An interval of more than 1
microsecond of the internal oscillator is a loss that the edge then finds already taken (log 10). -/
def State.takeEdgeAfter (s : State) (gap : Nat) : State :=
  match s.monitor.state with
  | .refOff => s
  | .refAbsent => { s with monitor := s.monitor.firstEdge }
  | .refQualifying =>
    if 1000 < gap then { s.loseReference with monitor := s.loseReference.monitor.firstEdge }
    else { s with monitor := s.monitor.countEdge gap }
  | .refGood =>
    if 1000 < gap then { s.loseReference with monitor := s.loseReference.monitor.firstEdge }
    else { s with monitor := s.monitor.countEdge gap }

/-- An edge of the reference input that says how long after the last one it falls (R27, R30). -/
def State.takeReferenceEdge (s : State) (gap : Nat) : State := s.takeEdgeAfter (s.monitor.interval gap)

/-! ## Adjustments (Chapter 3) -/

/-- The ADJUST_DONE record of an adjustment (R54). -/
def adjustDoneRecord (number : BitVec 8) (outcome : AdjustOutcome) (remaining : Option Nat) (t : Timestamp) : Record :=
  { kind := .adjustDone, late := false, source := .number number.toNat, stamp := t, value := outcome.code, due := none,
    missed := none, remaining := remaining }

/-- An ADJUST_DONE handed to a port that may be none, stamped now (R54). -/
def State.adjustDone (s : State) (dest : Option Port) (number : BitVec 8) (outcome : AdjustOutcome)
    (remaining : Option Nat) : State :=
  s.deliverTo dest 3 (adjustDoneRecord number outcome remaining s.stamp)

/-- What a set or step hands the schedule unit: forward where the new value is at or after the old one (R50 step 4). -/
def State.stepTable (s : State) (old : Nat) : State := if old ≤ s.now then s.stepForward else s.stepBackward

/-- The quality after a set that finds it UNSET (R51). -/
def State.leaveUnset (s : State) : State :=
  if s.backup.source = .reference ∧ s.monitor.state = .refGood then s.beginTracking else s.setQuality .freeRun

/-- A SET or STEP whose value is within range applied (R50, R51). Only a SET can find the quality UNSET. -/
def State.applyTime (s : State) (value : Nat) : State :=
  let counted := { s with backup :=
    { s.backup with count := value, rangeHeld := false, epoch := s.backup.epoch + 1 } }
  let kept := if s.backup.quality = .unset then counted.leaveUnset else counted
  (kept.stepTable s.now).raiseAll .timeStepped

/-- The result of a STEP, if it is within range (R49). -/
def stepTarget (now : Nat) (amount : Int) : Option Nat :=
  let r := (now : Int) + amount
  if 0 ≤ r ∧ r ≤ (Config.endOfRange : Int) then some r.toNat else none

/-- The target of a SET, if it is within range (R48). -/
def setTarget (target : Nat) : Option Nat := if target ≤ Config.endOfRange then some target else none

/-- The slew leaves the ACTIVE slot with an outcome and an unapplied amount, which the slew report takes (R58); the
timebase's direction is NONE and its remaining amount 0 (R14, R15). -/
def State.slewLeaves (s : State) (number : BitVec 8) (outcome : AdjustOutcome) (unapplied : Nat) : State :=
  { s with slew := SlewState.idle,
           authority := { s.authority with active := none,
                                           report := some { number := number, outcome := outcome, unapplied := unapplied } } }

/-- Step 1 of R53: the ended slew leaves ACTIVE, reported COMPLETED to the holder. -/
def State.completeSlew (s : State) (unapplied : Nat) : State :=
  match s.authority.active with
  | some a => (s.slewLeaves a.number .completed unapplied).adjustDone s.authority.holder a.number .completed none
  | none => s

/-- A slew made ACTIVE and begun at the timebase (R14, R52); while the range is held it ends at once, its full amount
unapplied (R16). -/
def State.beginSlew (s : State) (number : BitVec 8) (amount : Int) : State :=
  let begun := { s with
    slew := { direction := if 0 ≤ amount then .positive else .negative, remaining := amount.natAbs, blockElapsed := 0 }
    authority := { s.authority with active := some { number := number, amount := amount } } }
  if s.backup.rangeHeld then begun.completeSlew amount.natAbs else begun

/-- A SET or STEP taken from the WAITING slot: applied, or reported RANGE (R53 step 4). -/
def State.applyWaiting (s : State) (number : BitVec 8) (value : Option Nat) : State :=
  match value with
  | some v => (s.applyTime v).adjustDone s.authority.holder number .completed none
  | none => s.adjustDone s.authority.holder number .range none

/-- The end of the ACTIVE slew, with the amount the timebase hands over as unapplied (R53). -/
def State.slewEnded (s : State) (unapplied : Nat) : State :=
  let done := s.completeSlew unapplied
  match done.authority.waiting with
  | none => done
  | some w =>
    let taken := { done with authority := { done.authority with waiting := none } }
    match w.what with
    | .slew amount => taken.beginSlew w.number amount
    | .set target => taken.applyWaiting w.number (setTarget target)
    | .step amount => taken.applyWaiting w.number (stepTarget taken.now amount)

/-- The remaining part of a discarded WAITING adjustment's record (R55 step 2). -/
def AdjustKind.unbegun : AdjustKind → Option Nat
  | .slew a => some a.natAbs
  | .set _ => none
  | .step _ => none

/-- Step 1 of R55: the ACTIVE slew stopped where it stands, CANCELLED. -/
def State.cancelActive (s : State) (dest : Option Port) : State :=
  match s.authority.active with
  | some a =>
    (s.slewLeaves a.number .cancelled s.slew.remaining).adjustDone dest a.number .cancelled (some s.slew.remaining)
  | none => s

/-- Step 2 of R55: the WAITING adjustment leaves without being applied, CANCELLED. -/
def State.cancelWaiting (s : State) (dest : Option Port) : State :=
  match s.authority.waiting with
  | some w =>
    State.adjustDone { s with authority := { s.authority with waiting := none } } dest w.number .cancelled w.what.unbegun
  | none => s

/-- The queue discarded, its records going to a port, or to none where the cause gives none (R45, R54, R55). -/
def State.discardQueue (s : State) (dest : Option Port) : State := (s.cancelActive dest).cancelWaiting dest

/-- Step 4 of R42: REF_READY at the new holder, where the quality is HOLDOVER and the monitor is REF_GOOD (R34). -/
def State.offerReference (s : State) : State :=
  if s.backup.quality = .holdover ∧ s.monitor.state = .refGood then s.raiseAtHolder .refReady else s

/-- A change of holder (R42), the records of the discarded queue going to a port or to none. -/
def State.changeHolder (s : State) (new dest : Option Port) : State :=
  ((State.discardQueue { s with authority := { s.authority with holder := new } } dest).raiseAll
    .authorityChanged).offerReference

/-- An adjustment number taken for a request that enters the queue (R47). -/
def State.takeNumber (s : State) : State :=
  { s with authority := { s.authority with nextNumber := s.authority.nextNumber + 1 } }

/-- A request that enters the WAITING slot with the next adjustment number (R46, R47). -/
def State.enqueue (s : State) (k : AdjustKind) : State :=
  State.takeNumber
    { s with authority := { s.authority with waiting := some { number := s.authority.nextNumber, what := k } } }

/-! ## The advance of the count (Chapter 1) -/

/-- A slew in progress ended, what remains of it handed over (R16). -/
def State.endSlewAtRange (s : State) : State :=
  if s.slew.direction = .none then s else s.slewEnded s.slew.remaining

/-- The count set to the end of range and held there (R16). -/
def State.holdRange (s : State) : State :=
  { s with backup := { s.backup with count := Config.endOfRange, rangeHeld := true } }

/-- The end of range reached (R16, R112): the count holds, the entries due at the held value fire, RANGE_END is raised,
and then a slew in progress ends. -/
def State.reachEnd (s : State) : State :=
  ((s.holdRange.fireDue Config.endOfRange).raiseAll .rangeEnd).endSlewAtRange

/-- An advance of the count to a value, with the firings it calls for, or with these left (R2, R8, R98; log 30). -/
def State.advanceTo (s : State) (value : Nat) (fires : Bool) : State :=
  let reached := { s with backup := { s.backup with count := value } }
  if fires then reached.fireReached else { reached with unfired := true }

/-- An advance by one value (R2), or the end of range it reaches, which is one event with its firings (R16, R112). -/
def State.advanceOne (s : State) (fires : Bool) : State :=
  if s.counting then
    if s.now < Config.endOfRange then s.advanceTo (s.now + 1) fires else s.reachEnd
  else s

/-- One microsecond lowered from the slew remaining at the end of a block, and the next block begun (R14). -/
def State.countBlock (s : State) : State :=
  { s with slew := { s.slew with remaining := s.slew.remaining - 1, blockElapsed := 0 } }

/-- The slew ended where nothing of it remains (R14, R53). -/
def State.endSlewIfDone (s : State) : State :=
  if s.slew.direction ≠ .none ∧ s.slew.remaining = 0 then s.slewEnded 0 else s

/-- The thousandth device microsecond of a slew block (R14): 2 or 0 microseconds of advance, one from the remaining
amount; under a POSITIVE slew it reaches the end of range where its 2 microseconds would pass it (R16), and then nothing
is lowered (log 12). The end of the slew follows the firings, or comes before them where they are left (R104; log 30). In
either case nothing comes between the end and what is before it, the last firing or the count: no examination (R173), and
no other event of the instant, which is the model's choice (log 30). -/
def State.blockEnd (s : State) (fires : Bool) : State :=
  match s.slew.direction with
  | .positive =>
    if s.now + 2 ≤ Config.endOfRange then (s.countBlock.advanceTo (s.now + 2) fires).endSlewIfDone else s.reachEnd
  | .negative => s.countBlock.endSlewIfDone
  | .none => s

/-- Whether the next device microsecond is the thousandth of a slew block (R14). -/
def State.atBlockEnd (s : State) : Bool := decide (s.slew.direction ≠ .none) && decide (s.slew.blockElapsed = 999)

/-- One device microsecond at the timebase (R2, R14), with the firings of its advance or with these left. -/
def State.timebaseMicro (s : State) (fires : Bool) : State :=
  if s.atBlockEnd then s.blockEnd fires
  else if s.slew.direction = .none then s.advanceOne fires
  else State.advanceOne { s with slew := { s.slew with blockElapsed := s.slew.blockElapsed + 1 } } fires

/-- One microsecond of the rate source while the other blocks do not run, with RESET held or without the main supply:
the end of range is reached in silence (R18, R21). -/
def Backup.silentAdvance (b : Backup) : Backup :=
  if b.quality ≠ .unset ∧ b.rangeHeld = false then
    if b.count < Config.endOfRange then { b with count := b.count + 1 }
    else { b with count := Config.endOfRange, rangeHeld := true }
  else b

end Sys2Proof.Machine
end

