-- ==== Sys2Proof/Machine/CaptureOps.lean ====
section
/-! DEFINITION. The shared operations of the capture unit: what an edge, a count event and an overflow do to a channel,
and the path of a capture record (Chapter 7). -/

namespace Sys2Proof.Machine

/-- The largest measured value, in microseconds (R132, R144). -/
def measureLimit : Nat := 4294967295

/-- A capture record (R142). -/
def captureRecord (c : ChanNo) (k : RecordKind) (value : Nat) (t : Timestamp) : Record :=
  { kind := k, late := false, source := .number c.val, stamp := t, value := value, due := none, missed := none,
    remaining := none }

/-- Step 1 of R142: a capture record handed to the delivery unit with the channel's owner and record level. -/
def State.deliverCapture (s : State) (c : ChanNo) (k : RecordKind) (value : Nat) : State :=
  s.deliverShared (.channel c) ((s.channel c).owner.map fun p => (p, (s.channel c).level))
    (captureRecord c k value s.stamp)

/-- Whether a channel counts the records of a source channel at this instant (R148): RUNNING in COUNT mode with that
count source, and of the same owner or the source shareable. -/
def State.countsFrom (s : State) (d c : ChanNo) : Bool :=
  (s.channel d).running && decide ((s.channel d).mode = .count) && decide ((s.channel d).source = .channel c) &&
    (decide ((s.channel d).owner = (s.channel c).owner) || (s.channel c).shareable)

/-- The counter lowered by a count event, reloaded where it has reached 0 (R147). -/
def Channel.counted (x : Channel) : Channel :=
  { x with counter := if x.counter ≤ 1 then x.reload else x.counter - 1 }

/-- A capture record handed on by R142: to the delivery unit, to the schedule unit, and then to each COUNT channel that
counts it, in ascending order; an EXPIRY a counting channel produces is handed on wholly before the next one counts. A
record passes up at most seven counting channels (R148), which bounds the depth. -/
def State.handOn : Nat → State → ChanNo → RecordKind → Nat → State
  | 0, s, _, _, _ => s
  | depth + 1, s, c, k, value =>
    let acted := (s.deliverCapture c k value).captureAll c k s.now
    if k = .overflow then acted
    else
      allChannels.foldl
        (fun t d =>
          if t.countsFrom d c then
            let counted := t.setChannel d (t.channel d).counted
            if (t.channel d).counter ≤ 1 then State.handOn depth counted d .expiry (t.channel d).reload else counted
          else t) acted

/-- A capture record produced by a channel and handed on, through at most eight channels (R142, R148), and then the end of
the subscriptions to the entries that this one event has freed (R94, R159, log 27). -/
def State.produce (s : State) (c : ChanNo) (k : RecordKind) (value : Nat) : State := (State.handOn 8 s c k value).endGone s

/-- A count event at a RUNNING channel in COUNT mode (R147). -/
def State.countEvent (s : State) (c : ChanNo) : State :=
  let counted := s.setChannel c (s.channel c).counted
  if (s.channel c).counter ≤ 1 then counted.produce c .expiry (s.channel c).reload else counted

/-- Whether an edge select takes an edge to a new level: HIGH is a rising edge, LOW a falling one (R133, R143). -/
def EdgeSelect.takes (e : EdgeSelect) (level : PinLevel) : Bool :=
  match e, level with
  | .rise, .high => true
  | .rise, .low => false
  | .fall, .high => false
  | .fall, .low => true
  | .both, _ => true

/-- The measurement begun at an edge (R144, R145). -/
def State.beginMeasure (s : State) (c : ChanNo) : State := s.setChannel c { s.channel c with measuring := some 0 }

/-- An edge that the mode takes, at a PERIOD or WIDTH channel: the first one begins the measurement, each later one ends
it with a record and begins the next (R144, R145). An overflow that falls at this instant and is not yet taken leaves
4,294,967,295 as the value (R146). -/
def State.measureEdge (s : State) (c : ChanNo) (k : RecordKind) : State :=
  match (s.channel c).measuring with
  | none => s.beginMeasure c
  | some e => (s.beginMeasure c).produce c k (min e measureLimit)

/-- The record kind of an edge to a new level in STAMP mode (R143). -/
def edgeKind : PinLevel → RecordKind
  | .high => .edgeRise
  | .low => .edgeFall

/-- The record kind of the level that an edge to a new level ends in WIDTH mode (R145). -/
def widthKind : PinLevel → RecordKind
  | .high => .widthLow
  | .low => .widthHigh

/-- What a RUNNING channel does with an edge of its pin to a new level, by its mode (R143 to R148). -/
def State.actOnEdge (s : State) (c : ChanNo) (level : PinLevel) : State :=
  match (s.channel c).mode with
  | .stamp => if (s.channel c).edge.takes level then s.produce c (edgeKind level) 0 else s
  | .period => if (s.channel c).edge.takes level then s.measureEdge c .period else s
  | .width => s.measureEdge c (widthKind level)
  | .count =>
    if (s.channel c).source = .ownPin ∧ (s.channel c).edge.takes level = true then s.countEvent c else s

/-- The raw level of a capture pin. -/
def State.rawLevel (s : State) (c : ChanNo) : PinLevel := s.pins.cap.get c

/-- The edge taken where a qualification has completed: the filtered level takes the raw level, and a RUNNING channel
acts on the edge (R133, R149). -/
def State.takeEdge (s : State) (c : ChanNo) : State :=
  match (s.channel c).qualification with
  | .complete =>
    let filtered := s.setChannel c { s.channel c with filtered := s.rawLevel c, qualification := .none }
    if (s.channel c).running then filtered.actOnEdge c (s.rawLevel c) else filtered
  | .none => s
  | .running => s

/-- The overflow of a measurement that has reached 4,294,967,296 microseconds (R146). -/
def State.overflowMeasure (s : State) (c : ChanNo) : State :=
  match (s.channel c).measuring with
  | some e =>
    if measureLimit < e then (s.setChannel c { s.channel c with measuring := none }).produce c .overflow measureLimit
    else s
  | none => s

/-- A channel given up: STOPPED, the counter at the reload, no owner, not shareable; the configuration and the reload
stay (R136, R151). -/
def Channel.released (x : Channel) : Channel :=
  { x with owner := none, shareable := false, running := false, measuring := none, counter := x.reload }

/-- A channel released, with the end of its subscriptions (R136). -/
def State.releaseChannel (s : State) (c : ChanNo) : State := (s.setChannel c (s.channel c).released).endGone s

/-- The channels of a port released in ascending order (R151). -/
def State.releaseChannels (s : State) (p : Port) : State :=
  allChannels.foldl (fun t c => if (t.channel c).owner = some p then t.setChannel c (t.channel c).released else t) s

end Sys2Proof.Machine
end

