-- ==== Sys2Proof/Machine/DigestOps.lean ====
section
/-! DEFINITION. The shared operations of the digest engine: examining one index, and the end of a walk (Chapter 9). -/

namespace Sys2Proof.Machine

/-- Whether a walk feeds an entry (R173). -/
def Walk.takes (w : Walk) (b : Body) : Bool := decide (w.scope = .all) || decide (b.owner = w.requester)

/-- One index examined: the form of an entry in scope is fed (R173, R174). -/
def Walk.examined (w : Walk) (body : Option Body) : Walk :=
  match body with
  | some b =>
    if w.takes b then
      { w with crc := crc32Feed w.crc (b.form w.content), fed := w.fed + 1, nextIndex := w.nextIndex + 1 }
    else { w with nextIndex := w.nextIndex + 1 }
  | none => { w with nextIndex := w.nextIndex + 1 }

/-- The generation that a content watches (R171). -/
def State.watched (s : State) (c : Content) : BitVec 32 :=
  match c with
  | .definition => s.schedule.defGen
  | .full => s.schedule.fullGen

/-- The response of a walk that has examined every index (R175, R193). -/
def State.walkResponse (s : State) (w : Walk) : Response :=
  { status := if w.changed then .stale else .ok
    fields := [byteOf w.scope.code, byteOf w.content.code] ++ bytesBE 4 (~~~w.crc).toNat ++ [byteOf w.fed] ++
      bytesBE 4 w.startGen.toNat ++ bytesBE 4 (s.watched w.content).toNat }

/-- The end of a walk: its response in the requester's slot, the requester READY, the engine IDLE (R175). -/
def State.endWalk (s : State) (w : Walk) : State :=
  State.setPort { s with digest := none } w.requester
    { s.port w.requester with slot := .ready (s.walkResponse w), state := .ready }

/-- The state after an index of a walk has been examined: the walk goes on, or ends after index 63 (R173, R175). -/
def State.storeWalk (s : State) (w : Walk) : State :=
  if w.nextIndex < 64 then { s with digest := some w } else s.endWalk w

/-- The examination of the next index, where 20 microseconds for it have passed (R173). -/
def State.examineNext (s : State) : State :=
  match s.digest with
  | some w =>
    if 20 * (w.nextIndex + 1) ≤ w.elapsed then
      if h : w.nextIndex < 64 then s.storeWalk (w.examined (s.entry ⟨w.nextIndex, h⟩).body) else s
    else s
  | none => s

/-- A walk of a port abandoned, with no response (R176). -/
def State.abandonWalk (s : State) (p : Port) : State :=
  match s.digest with
  | some w => if w.requester = p then { s with digest := none } else s
  | none => s

end Sys2Proof.Machine
end

