-- ==== Sys2Proof/Machine/TickOps.lean ====
section
/-! DEFINITION. One device microsecond (R3): the timers and measurements that count it, the events that fall due by it,
and the advance of the timebase. -/

namespace Sys2Proof.Machine

/-- An event of the part's own clocks taken, where it is due at this instant; nothing otherwise. -/
def State.takeDue (s : State) (d : DueEvent) : State :=
  match d with
  | .pulseEnd l => s.endPulse l
  | .holdExpiry l => s.expireHold l
  | .overflow c => s.overflowMeasure c
  | .edge c => s.takeEdge c
  | .windowEnd => s.endWindow
  | .loss => s.takeLoss
  | .examine => s.examineNext
  | .firing => s.fireOne

/-- The order in which the events of an instant that no command has taken are taken before the next microsecond begins, after
the firings left (log 6): each of them may come in any order there. -/
def dueOrder : List DueEvent :=
  allLines.map .pulseEnd ++ allLines.map .holdExpiry ++ allChannels.map .overflow ++ allChannels.map .edge ++
    [.windowEnd, .loss, .examine]

/-- Everything due at this instant taken: the firings that an advance has left, and then every event of the clocks. None of
it waits beyond its instant (R30, R98, R121, R122, R133, R146, R173). -/
def State.settle (s : State) : State := dueOrder.foldl State.takeDue s.fireUnfired

/-- One device microsecond counted by a drive state's timer (R114). -/
def Drive.counted : Drive → Drive
  | .idle => .idle
  | .pulsing n => .pulsing (n - 1)
  | .held (some n) => .held (some (n - 1))
  | .held none => .held none

/-- One device microsecond counted by a qualification of 1 microsecond (R133). -/
def Qualification.counted : Qualification → Qualification
  | .none => .none
  | .running => .complete
  | .complete => .complete

/-- One device microsecond counted by a channel's measurement and filter (R133, R144). -/
def Channel.tick (x : Channel) : Channel :=
  { x with measuring := x.measuring.map fun e => e + 1, qualification := x.qualification.counted }

/-- One device microsecond counted by the lines' timers (R114). -/
def State.countLines (s : State) : State :=
  allLines.foldl (fun t l => t.setLine l { t.line l with drive := (t.line l).drive.counted }) s

/-- One device microsecond counted by the channels (R133, R144). -/
def State.countChannels (s : State) : State := allChannels.foldl (fun t c => t.setChannel c (t.channel c).tick) s

/-- One device microsecond counted by the monitor's window and by its interval since the last edge (R26, R30). -/
def Monitor.tick (m : Monitor) : Monitor :=
  match m.state with
  | .refQualifying => { m with elapsed := m.elapsed + 1, sinceEdge := m.sinceEdge + 1 }
  | .refGood => { m with elapsed := m.elapsed + 1, sinceEdge := m.sinceEdge + 1 }
  | .refOff => m
  | .refAbsent => m

/-- One device microsecond counted by everything that counts in device microseconds (R3). -/
def State.countTimers (s : State) : State :=
  let t := s.countLines.countChannels
  { t with monitor := t.monitor.tick, digest := t.digest.map fun w => { w with elapsed := w.elapsed + 1 } }

/-- One device microsecond of a part that runs: what is still due at the old instant is taken; the microsecond is
counted; the events named are taken before the advance (R7, R123, R173); and the timebase advances (R2, R14), with its
firings or with these left for later commands, so that any event of the instant may come before each of them (log 30). -/
def State.runMicro (s : State) (first : List DueEvent) (fires : Bool) : State :=
  (first.foldl State.takeDue s.settle.countTimers).timebaseMicro fires

/-- One microsecond of the rate source, whatever the part's condition (R2, R18, R21): a part held in reset, or without
the main supply but with the backup supply, goes on counting in the backup domain alone. -/
def State.micro (s : State) (first : List DueEvent) (fires : Bool) : State :=
  if s.running then s.runMicro first fires
  else if s.pins.mainSupply || s.pins.backupSupply then { s with backup := s.backup.silentAdvance }
  else s

/-- The rest of an advance whose firings were left: the events named are taken, single firings among them where these are
named, and then the firings still left are made (R98, R99, R173; log 30). A part that does not run has none. -/
def State.finishAdvance (s : State) (first : List DueEvent) : State :=
  if s.running then (first.foldl State.takeDue s).fireUnfired else s

end Sys2Proof.Machine
end

