-- ==== Sys2Proof/Machine/ResetOps.lean ====
section
/-! DEFINITION. The shared operations of the resets: what a port reset and a DETACH take from a port, what the main
domain holds while it is in reset, and how the part leaves reset (Chapter 10, and the reset sections of the others). -/

namespace Sys2Proof.Machine

/-- Step 5 of R182: the authority released where the port holds it, without ADJUST_DONE records (R45). -/
def State.releaseAuthorityOf (s : State) (p : Port) : State :=
  if s.authority.holder = some p then s.changeHolder none none else s

/-- Step 7 of R182: the port's queue, gap mark and condition set emptied, its mask 0, its slot EMPTY (R169); a transaction
in progress is abandoned (R178). -/
def PortUnit.cleared (u : PortUnit) : PortUnit :=
  { u with queue := [], gapPending := false, conditions := 0, mask := 0, slot := .empty, transfer := u.transfer.broken }

/-- Steps 1 to 5 of R182: everything the port holds given up. The subscriptions to its entries and channels end in the one
ascending order of index that R159 gives the removals of one event, once both have been given up (log 27). -/
def State.giveUp (s : State) (p : Port) : State :=
  (((((s.freeEntriesOf p).releaseLines p).releaseChannels p).endGone s).dropSubs p).releaseAuthorityOf p

/-- Step 7 of R182 at a port. -/
def State.clearPort (s : State) (p : Port) : State := s.setPort p (s.port p).cleared

/-- The port reset (R182), from the port's not being attached (R155) to its cleared state. -/
def State.portGone (s : State) (p : Port) : State := (((s.setPortState p .resetHold).giveUp p).abandonWalk p).clearPort p

/-- The DETACH (R182): the port is not attached during the event (R155), and READY after it. -/
def State.detached (s : State) (p : Port) : State :=
  (((s.setPortState p .resetHold).giveUp p).clearPort p).setPortState p .ready

/-- A port while the part is held in reset or without power; a transaction in progress is abandoned (log 9). -/
def PortUnit.atReset (u : PortUnit) : PortUnit := { PortUnit.reset with transfer := u.transfer.broken }

/-- The main domain at its reset values: nothing is attached, no line is driven, no entry is in use, no walk runs (R87,
R131, R152, R170, R177). The backup domain, the pins and the queue of commands stay. -/
def State.resetMain (s : State) : State :=
  { s with
    slew := SlewState.idle
    monitor := Monitor.off
    authority := Authority.reset
    schedule := Schedule.reset
    unfired := false
    lines := Vector.replicate 16 Line.reset
    channels := Vector.replicate 8 Channel.reset
    subs := Vector.replicate 24 none
    digest := none
    ports := s.ports.map PortUnit.atReset }

/-- The quality examined as a reset is taken (R6). -/
def State.examineQuality (s : State) : State := s.setQuality s.backup.quality.examined

/-- A port as the part leaves reset: READY where PRST is high, RESET_HOLD where it is low, with the causes (R183, R185). -/
def PortUnit.leaving (u : PortUnit) (prst : PinLevel) (causes : BitVec 5) : PortUnit :=
  match prst with
  | .high => { PortUnit.reset with state := .ready, causes := causes, transfer := u.transfer.broken }
  | .low => { PortUnit.reset with causes := causes, transfer := u.transfer.broken }

/-- Every port as the part leaves reset (R185). -/
def State.leavePorts (s : State) : State :=
  allPorts.foldl (fun t p => t.setPort p ((t.port p).leaving (t.pins.prst.get p) t.leaveCauses)) s

/-- The filtered level of every channel taken from its pin (R133, R152). -/
def State.leaveChannels (s : State) : State :=
  allChannels.foldl (fun t c => t.setChannel c { t.channel c with filtered := t.rawLevel c }) s

/-- The holder that the straps name, unless its port is in RESET_HOLD (R39). -/
def State.strapHolder (s : State) (straps : BitVec 3) : Option Port :=
  if h : straps.toNat < 4 then
    if s.attached ⟨straps.toNat, h⟩ then some ⟨straps.toNat, h⟩ else none
  else none

/-- The monitor as the part leaves reset: REF_ABSENT where the selection is REFERENCE, REF_OFF otherwise (R38). -/
def Monitor.leaving (sel : SourceSelection) : Monitor :=
  match sel with
  | .reference => { Monitor.off with state := .refAbsent }
  | .notChosen => Monitor.off
  | .internalOnly => Monitor.off

/-- RANGE_END raised at every attached port where the range is held (R19, R21). -/
def State.raiseRange (s : State) : State := if s.backup.rangeHeld then s.raiseAll .rangeEnd else s

/-- The holder and the monitor as the part leaves reset (R38, R39). -/
def State.leaveUnits (s : State) (straps : BitVec 3) : State :=
  { s with authority := { s.authority with holder := s.strapHolder straps }, monitor := Monitor.leaving s.backup.source,
           leaveCauses := 0 }

/-- The part leaves reset (R185): from the reset values of the main domain. -/
def State.leaveReset (s : State) (straps : BitVec 3) : State :=
  (s.leaveChannels.leavePorts.leaveUnits straps).raiseRange

/-- The main supply comes: every block but the backup domain at its reset values, and the part leaves reset unless its
RESET input is held (R19, R20, R185). -/
def State.powerOn (s : State) (straps : BitVec 3) (causes : BitVec 5) : State :=
  let up := { s.resetMain with pins := { s.pins with mainSupply := true }, leaveCauses := causes }
  if s.pins.resetHeld then up else up.leaveReset straps

/-- FREE (log 13): a source selection. -/
def freeSource (n : Nat) : SourceSelection :=
  if Config.freeValue n % 3 = 0 then .notChosen else if Config.freeValue n % 3 = 1 then .internalOnly else .reference

/-- FREE (log 13): a quality other than TRACKING, and HOLDOVER only beside the selection REFERENCE (R18, R36). -/
def freeQuality (n : Nat) (sel : SourceSelection) : Quality :=
  if Config.freeValue n % 3 = 0 then .unset
  else if Config.freeValue n % 3 = 1 ∧ sel = .reference then .holdover
  else .freeRun

/-- FREE (log 13): an authority key, or its absence. -/
def freeKey (n : Nat) : Option (BitVec 64) :=
  if Config.freeValue n % 2 = 0 then none else some (BitVec.ofNat 64 (Config.freeValue (n + 1)))

/-- The counts, epoch and range-held flag made to agree with the quality: 0 and no while UNSET (R5, R7), the last value
while the range is held (R16). -/
def Backup.agreed (b : Backup) : Backup :=
  match b.quality with
  | .unset => { b with count := 0, epoch := 0, rangeHeld := false }
  | .freeRun => if b.rangeHeld then { b with count := Config.endOfRange } else b
  | .tracking => if b.rangeHeld then { b with count := Config.endOfRange } else b
  | .holdover => if b.rangeHeld then { b with count := Config.endOfRange } else b

/-- How many free values freeBackup draws. -/
def freeBackupDraws : Nat := 7

/-- The contents of the backup domain whose power was lost and came back: FREE within the ranges of R1, R5 and R23 and
within what R5, R7, R16, R18 and R36 say always holds of them (log 3, log 13). -/
def freeBackup (n : Nat) : Backup :=
  Backup.agreed
    { count := Config.freeValue n % (Config.endOfRange + 1)
      epoch := BitVec.ofNat 16 (Config.freeValue (n + 1))
      quality := freeQuality (n + 2) (freeSource (n + 3))
      rangeHeld := decide (Config.freeValue (n + 6) % 2 = 1)
      source := freeSource (n + 3)
      key := freeKey (n + 4)
      retention := true }

end Sys2Proof.Machine
end

