-- ==== Sys2Proof/Machine/AuthorityUnit.lean ====
section
/-! DEFINITION. The commands of the authority and adjustment unit (Chapter 3). -/

namespace Sys2Proof.Machine

/-- The response of a claim answered OK: the holder as it then stands, whether this claim changed it, and the timestamp
after a grant or a transfer (R41, R193). -/
def State.claimAnswer (s : State) (changed : Bool) : State × Option Response :=
  s.answer .ok (optPort s.authority.holder ++ [flagByte changed] ++
    optBytes 10 (if changed then some s.stamp.bytes else none))

/-- The outcome of a claim by the table of R41; the presented key is absent or has a value. -/
def State.claim (s : State) (p : Port) (key : Option (BitVec 64)) : State × Option Response :=
  match s.authority.holder with
  | none => (s.changeHolder (some p) none).claimAnswer true
  | some q =>
    if q = p then s.claimAnswer false
    else match s.backup.key with
      | none => s.refuse .authorityHeld
      | some k => if key = some k then (s.changeHolder (some p) (some q)).claimAnswer true else s.refuse .keyMismatch

/-- CLAIM_AUTHORITY (R41). -/
def blockClaimAuthority (p : Port) (key : OptField 64) (s : State) : State × Option Response :=
  match OptField.read key with
  | none => s.refuse .badArg
  | some k => s.claim p k

/-- CLAIM_AUTHORITY taken at a port (R41). -/
def execClaimAuthority (p : Port) (key : OptField 64) (s : State) : Result :=
  .next (s.request p 9 (blockClaimAuthority p key))

/-- RELEASE_AUTHORITY (R44): the records of the discarded queue go to the releasing port. -/
def blockReleaseAuthority (p : Port) (s : State) : State × Option Response :=
  if s.isHolder p = false then s.refuse .notAuthority else (s.changeHolder none (some p)).answer .ok []

/-- RELEASE_AUTHORITY taken at a port (R44). -/
def execReleaseAuthority (p : Port) (s : State) : Result := .next (s.request p 0 (blockReleaseAuthority p))

/-- The stored key replaced (R43). -/
def State.setKey (s : State) (k : Option (BitVec 64)) : State := { s with backup := { s.backup with key := k } }

/-- SET_KEY (R43). -/
def blockSetKey (p : Port) (key : OptField 64) (s : State) : State × Option Response :=
  if s.isHolder p = false then s.refuse .notAuthority
  else match OptField.read key with
    | none => s.refuse .badArg
    | some k => (s.setKey k).answer .ok []

/-- SET_KEY taken at a port (R43). -/
def execSetKey (p : Port) (key : OptField 64) (s : State) : Result := .next (s.request p 9 (blockSetKey p key))

/-- Whether both slots of the adjustment queue are occupied (R48, R49, R52). -/
def Authority.full (a : Authority) : Bool := a.active.isSome && a.waiting.isSome

/-- A request entered in the WAITING slot, answered QUEUED with its number (R48, R49, R52). -/
def State.queueAnswer (s : State) (k : AdjustKind) : State × Option Response :=
  (s.enqueue k).answer .queued [s.authority.nextNumber]

/-- A value applied at once, answered OK with the new epoch and a timestamp; RANGE where there is none (R48, R49). -/
def State.applyAnswer (s : State) (value : Option Nat) : State × Option Response :=
  match value with
  | none => s.refuse .range
  | some v => (s.applyTime v).answer .ok (bytesBE 2 (s.applyTime v).backup.epoch.toNat ++ (s.applyTime v).stamp.bytes)

/-- SET_TIME (R48). -/
def blockSetTime (p : Port) (seconds : BitVec 32) (micros : BitVec 24) (s : State) : State × Option Response :=
  if s.isHolder p = false then s.refuse .notAuthority
  else if 999999 < micros.toNat then s.refuse .badArg
  else if s.authority.full then s.refuse .busy
  else if s.authority.active.isSome then s.queueAnswer (.set (seconds.toNat * 1000000 + micros.toNat))
  else s.applyAnswer (setTarget (seconds.toNat * 1000000 + micros.toNat))

/-- SET_TIME taken at a port (R48). -/
def execSetTime (p : Port) (seconds : BitVec 32) (micros : BitVec 24) (s : State) : Result :=
  .next (s.request p 7 (blockSetTime p seconds micros))

/-- STEP (R49). -/
def blockStep (p : Port) (amount : BitVec 32) (s : State) : State × Option Response :=
  if s.isHolder p = false then s.refuse .notAuthority
  else if amount = 0 then s.refuse .badArg
  else if s.backup.quality = .unset then s.refuse .noTime
  else if s.authority.full then s.refuse .busy
  else if s.authority.active.isSome then s.queueAnswer (.step amount.toInt)
  else s.applyAnswer (stepTarget s.now amount.toInt)

/-- STEP taken at a port (R49). -/
def execStep (p : Port) (amount : BitVec 32) (s : State) : Result := .next (s.request p 4 (blockStep p amount))

/-- SLEW (R52). -/
def blockSlew (p : Port) (amount : BitVec 32) (s : State) : State × Option Response :=
  if s.isHolder p = false then s.refuse .notAuthority
  else if amount.toInt = 0 ∨ 1000000 < amount.toInt.natAbs then s.refuse .badArg
  else if s.backup.quality = .unset then s.refuse .noTime
  else if s.authority.full then s.refuse .busy
  else if s.authority.active.isSome then s.queueAnswer (.slew amount.toInt)
  else (s.takeNumber.beginSlew s.authority.nextNumber amount.toInt).answer .queued [s.authority.nextNumber]

/-- SLEW taken at a port (R52). -/
def execSlew (p : Port) (amount : BitVec 32) (s : State) : Result := .next (s.request p 4 (blockSlew p amount))

/-- How many adjustments the queue holds (R56). -/
def Authority.held (a : Authority) : Nat := (if a.active.isSome then 1 else 0) + (if a.waiting.isSome then 1 else 0)

/-- CANCEL_ADJUST (R56). -/
def blockCancelAdjust (p : Port) (s : State) : State × Option Response :=
  if s.isHolder p = false then s.refuse .notAuthority
  else (s.discardQueue (some p)).answer .ok
    (byteOf s.authority.held :: optNat 3 (s.authority.active.map fun _ => s.slew.remaining))

/-- CANCEL_ADJUST taken at a port (R56). -/
def execCancelAdjust (p : Port) (s : State) : Result := .next (s.request p 0 (blockCancelAdjust p))

/-- The adjustment kind codes (R187). -/
def AdjustKind.code : AdjustKind → Nat
  | .set _ => 0
  | .step _ => 1
  | .slew _ => 2

/-- The amount of an adjustment in 7 bytes (R193). -/
def AdjustKind.amountBytes : AdjustKind → List Byte
  | .set t => timeBytes t
  | .step a => [0, 0, 0] ++ intBE 4 a
  | .slew a => [0, 0, 0] ++ intBE 4 a

/-- READ_ADJUST (R59, R193). -/
def blockReadAdjust (s : State) : State × Option Response :=
  s.answer .ok
    (optPort s.authority.holder ++ [flagByte s.backup.key.isSome] ++
      optBytes 8 (s.authority.active.map fun a => [a.number] ++ intBE 4 a.amount ++ bytesBE 3 s.slew.remaining) ++
      optBytes 9 (s.authority.waiting.map fun w => [byteOf w.what.code, w.number] ++ w.what.amountBytes) ++
      [s.authority.nextNumber] ++
      optBytes 5 (s.authority.report.map fun r => [r.number, byteOf r.outcome.code] ++ bytesBE 3 r.unapplied) ++
      s.stamp.bytes)

/-- READ_ADJUST taken at a port (R59). -/
def execReadAdjust (p : Port) (s : State) : Result := .next (s.request p 0 blockReadAdjust)

end Sys2Proof.Machine
end

