-- ==== Sys2Proof/Machine/CaptureUnit.lean ====
section
/-! DEFINITION. The capture unit's commands (Chapter 7). -/

namespace Sys2Proof.Machine

/-- A channel number checked first (R135 to R137, R139 to R141, R150: above 7 is BAD_ARG). -/
def State.withChannel (s : State) (channel : Byte) (go : ChanNo → State × Option Response) : State × Option Response :=
  match channelOf channel with
  | none => s.refuse .badArg
  | some c => go c

/-- A channel number and then the owner checked (R136 to R141). -/
def State.withOwnChannel (s : State) (p : Port) (channel : Byte) (go : ChanNo → State × Option Response) :
    State × Option Response :=
  s.withChannel channel fun c => if (s.channel c).owner = some p then go c else s.refuse .notOwner

/-- The configuration of a channel, 4 bytes (R193). -/
def Channel.configBytes (x : Channel) : List Byte :=
  [byteOf x.mode.code, byteOf x.edge.code, byteOf x.source.code, byteOf x.level]

/-- The first fields of CLAIM_CHANNEL and READ_CHANNEL (R193). -/
def Channel.headBytes (x : Channel) : List Byte :=
  optPort x.owner ++ [flagByte x.shareable] ++ x.configBytes ++ bytesBE 2 x.reload ++ bytesBE 2 x.counter ++
    [flagByte x.running]

/-- The phase, 2 bytes: present in modes PERIOD and WIDTH (R132, R193). -/
def Channel.phaseBytes (x : Channel) : List Byte :=
  match x.mode with
  | .period => optBytes 1 (some [flagByte x.measuring.isSome])
  | .width => optBytes 1 (some [flagByte x.measuring.isSome])
  | .stamp => optBytes 1 none
  | .count => optBytes 1 none

/-- The measurement elapsed as READ_CHANNEL shows it (R150): one whose overflow falls at this instant shows
4,294,967,295 (log 20). -/
def Channel.elapsedBytes (x : Channel) : List Byte := optNat 4 (x.measuring.map fun e => min e measureLimit)

/-- A channel with an owner given to it (R135). -/
def State.ownChannel (s : State) (c : ChanNo) (p : Port) : State :=
  s.setChannel c { s.channel c with owner := some p }

/-- CLAIM_CHANNEL (R135). -/
def blockClaimChannel (p : Port) (channel : Byte) (s : State) : State × Option Response :=
  s.withChannel channel fun c =>
    match (s.channel c).owner with
    | none => (s.ownChannel c p).answer .ok ((s.ownChannel c p).channel c).headBytes
    | some q => if q = p then s.answer .ok (s.channel c).headBytes else s.refuse .owned

/-- CLAIM_CHANNEL taken at a port (R135). -/
def execClaimChannel (p : Port) (channel : Byte) (s : State) : Result :=
  .next (s.request p 1 (blockClaimChannel p channel))

/-- RELEASE_CHANNEL (R136). -/
def blockReleaseChannel (p : Port) (channel : Byte) (s : State) : State × Option Response :=
  s.withOwnChannel p channel fun c =>
    if s.channelNaming c ≠ 0 then s.refuse .inUse else (s.releaseChannel c).answer .ok []

/-- RELEASE_CHANNEL taken at a port (R136). -/
def execReleaseChannel (p : Port) (channel : Byte) (s : State) : Result :=
  .next (s.request p 1 (blockReleaseChannel p channel))

/-- A channel's shareable flag replaced; clearing it ends the other ports' subscriptions to it (R137, R159). -/
def State.shareChannel (s : State) (p : Port) (c : ChanNo) (share : Bool) : State :=
  if share then s.setChannel c { s.channel c with shareable := true }
  else if (s.channel c).shareable then
    (s.setChannel c { s.channel c with shareable := false }).endSubs fun u =>
      decide (u.source = .channel c) && decide (u.subscriber ≠ p)
  else s

/-- SHARE_CHANNEL (R137). -/
def blockShareChannel (p : Port) (channel flag : Byte) (s : State) : State × Option Response :=
  match channelOf channel, flagOf flag with
  | some _, some share => s.withOwnChannel p channel fun c => (s.shareChannel p c share).answer .ok [flagByte share]
  | none, _ => s.refuse .badArg
  | some _, none => s.refuse .badArg

/-- SHARE_CHANNEL taken at a port (R137). -/
def execShareChannel (p : Port) (channel flag : Byte) (s : State) : Result :=
  .next (s.request p 2 (blockShareChannel p channel flag))

/-- A channel configuration whose fields have passed step 1 of R138. -/
structure ChannelConfig where
  channel : ChanNo
  mode : Mode
  edge : EdgeSelect
  source : CountSource
  level : Nat
  deriving DecidableEq, Repr

/-- Step 1 of R138. -/
def channelConfigOf (channel mode edge source level : Byte) : Option ChannelConfig := do
  let c ← channelOf channel
  let m ← modeOf mode
  let e ← edgeOf edge
  let src ← countSourceOf c source
  let l ← levelOf level
  return { channel := c, mode := m, edge := e, source := src, level := l }

/-- Step 4 of R138: a count source that names a channel names one that the requester owns or that is shareable. -/
def State.sourceAllowed (s : State) (p : Port) (src : CountSource) : Bool :=
  match src with
  | .ownPin => true
  | .channel d => decide ((s.channel d).owner = some p) || (s.channel d).shareable

/-- A channel with a configuration given to it (R138). -/
def Channel.configured (x : Channel) (k : ChannelConfig) : Channel :=
  { x with mode := k.mode, edge := k.edge, source := k.source, level := k.level }

/-- CONFIGURE_CHANNEL (R138). -/
def blockConfigureChannel (p : Port) (channel mode edge source level : Byte) (s : State) : State × Option Response :=
  match channelConfigOf channel mode edge source level with
  | none => s.refuse .badArg
  | some k =>
    if (s.channel k.channel).owner ≠ some p then s.refuse .notOwner
    else if (s.channel k.channel).running then s.refuse .notStopped
    else if s.sourceAllowed p k.source = false then s.refuse .notOwner
    else (s.setChannel k.channel ((s.channel k.channel).configured k)).answer .ok
      ((s.channel k.channel).configured k).configBytes

/-- CONFIGURE_CHANNEL taken at a port (R138). -/
def execConfigureChannel (p : Port) (channel mode edge source level : Byte) (s : State) : Result :=
  .next (s.request p 5 (blockConfigureChannel p channel mode edge source level))

/-- A channel RUNNING; one that was STOPPED awaits its first edge (R139). -/
def Channel.started (x : Channel) : Channel := if x.running then x else { x with running := true, measuring := none }

/-- START_CHANNEL (R139). -/
def blockStartChannel (p : Port) (channel : Byte) (s : State) : State × Option Response :=
  s.withOwnChannel p channel fun c =>
    let x := (s.channel c).started
    (s.setChannel c x).answer .ok ([flagByte x.running] ++ x.phaseBytes ++ bytesBE 2 x.counter ++ s.stamp.bytes)

/-- START_CHANNEL taken at a port (R139). -/
def execStartChannel (p : Port) (channel : Byte) (s : State) : Result :=
  .next (s.request p 1 (blockStartChannel p channel))

/-- A channel STOPPED, a measurement in progress discarded, the counter kept (R140). -/
def Channel.stopped (x : Channel) : Channel := { x with running := false, measuring := none }

/-- STOP_CHANNEL (R140). -/
def blockStopChannel (p : Port) (channel : Byte) (s : State) : State × Option Response :=
  s.withOwnChannel p channel fun c =>
    let x := (s.channel c).stopped
    (s.setChannel c x).answer .ok ([flagByte x.running] ++ bytesBE 2 x.counter ++ s.stamp.bytes)

/-- STOP_CHANNEL taken at a port (R140). -/
def execStopChannel (p : Port) (channel : Byte) (s : State) : Result :=
  .next (s.request p 1 (blockStopChannel p channel))

/-- A reload given to a channel, and to its counter where it is STOPPED (R141). -/
def Channel.reloaded (x : Channel) (v : Nat) : Channel :=
  { x with reload := v, counter := if x.running then x.counter else v }

/-- SET_RELOAD (R141). -/
def blockSetReload (p : Port) (channel : Byte) (reload : BitVec 16) (s : State) : State × Option Response :=
  if reload = 0 then s.refuse .badArg
  else s.withOwnChannel p channel fun c =>
    let x := (s.channel c).reloaded reload.toNat
    (s.setChannel c x).answer .ok (bytesBE 2 x.reload ++ bytesBE 2 x.counter)

/-- SET_RELOAD taken at a port (R141). -/
def execSetReload (p : Port) (channel : Byte) (reload : BitVec 16) (s : State) : Result :=
  .next (s.request p 3 (blockSetReload p channel reload))

/-- A channel as READ_CHANNEL returns it, with the count of entries naming it (R150, R193). -/
def Channel.readBytes (x : Channel) (naming : Nat) : List Byte :=
  x.headBytes ++ x.phaseBytes ++ x.elapsedBytes ++ [byteOf (pinCode x.filtered), byteOf naming]

/-- READ_CHANNEL (R150). -/
def blockReadChannel (channel : Byte) (s : State) : State × Option Response :=
  s.withChannel channel fun c => s.answer .ok ((s.channel c).readBytes (s.channelNaming c) ++ s.stamp.bytes)

/-- READ_CHANNEL taken at a port (R150). -/
def execReadChannel (p : Port) (channel : Byte) (s : State) : Result :=
  .next (s.request p 1 (blockReadChannel channel))

/-! ## Events at the pins -/

/-- The raw level of a capture pin replaced. -/
def State.setRaw (s : State) (c : ChanNo) (level : PinLevel) : State :=
  { s with pins := { s.pins with cap := s.pins.cap.set c.val level c.isLt } }

/-- The qualification of a raw level against the filtered one: started where they differ, one in progress going on, and
abandoned where they agree (R133). -/
def Qualification.against (q : Qualification) (raw filtered : PinLevel) : Qualification :=
  if raw = filtered then .none
  else match q with
    | .none => .running
    | .running => .running
    | .complete => .complete

/-- A new raw level at a running filter (R133). A qualification whose 1 microsecond has passed has its edge taken before
the level changes: the level held for the whole 1 microsecond. -/
def State.filterRaw (s : State) (c : ChanNo) (level : PinLevel) : State :=
  let t := if s.rawLevel c = level then s else s.takeEdge c
  (t.setRaw c level).setChannel c
    { t.channel c with qualification := (t.channel c).qualification.against level (t.channel c).filtered }

/-- CAPTURE_PIN_CHANGE (R133). While RESET is held or without the main supply the filter does not run. -/
def execCapturePinChange (c : ChanNo) (level : PinLevel) (s : State) : Result :=
  .next (if s.running then s.filterRaw c level else s.setRaw c level)

/-- EDGE_TAKEN (R133): taken where the channel's qualification has completed. -/
def execEdgeTaken (c : ChanNo) (s : State) : Result := .next (if s.running then s.takeEdge c else s)

/-- MEASUREMENT_OVERFLOW (R146): taken where the channel's measurement has reached 4,294,967,296 microseconds. -/
def execMeasurementOverflow (c : ChanNo) (s : State) : Result := .next (if s.running then s.overflowMeasure c else s)

/-- Whether a channel's count source can give it a count event: its own pin, or a RUNNING channel whose records it counts
(R148, R149). -/
def State.sourceCounts (s : State) (c : ChanNo) : Bool :=
  match (s.channel c).source with
  | .ownPin => true
  | .channel d => (s.channel d).running && s.countsFrom c d

/-- COUNTER_EXPIRY (R147): the count event that takes the counter of a RUNNING COUNT channel to 0, where its count source
can give one (R148, log 14). -/
def execCounterExpiry (c : ChanNo) (s : State) : Result :=
  .next (if s.running ∧ (s.channel c).running = true ∧ (s.channel c).mode = .count ∧ (s.channel c).counter = 1 ∧
      s.sourceCounts c = true
    then s.countEvent c else s)

end Sys2Proof.Machine
end

