-- ==== Sys2Proof/Machine/DeliveryUnit.lean ====
section
/-! DEFINITION. The delivery unit's requests (Chapter 8). -/

namespace Sys2Proof.Machine

/-- Step 2 of R157: an entry source names an entry that is not FREE by its present handle. -/
def State.sourceStands (s : State) (src : SubSource) : Bool :=
  match src with
  | .channel _ => true
  | .entry i inst => (s.entry i).body.isSome && decide ((s.entry i).inst = inst)

/-- Step 3 of R157: the requester owns the source, or the source is shareable. -/
def State.mayHear (s : State) (p : Port) (src : SubSource) : Bool :=
  match src with
  | .channel c => decide ((s.channel c).owner = some p) || (s.channel c).shareable
  | .entry i _ => (s.entry i).body.any fun b => decide (b.owner = p) || b.shareable

/-- The lowest-numbered free entry of the subscription table (R157). -/
def State.lowestFreeSub (s : State) : Option SubIx := allSubs.find? fun i => (s.sub i).isNone

/-- Step 5 of R157: a subscription placed in the lowest free entry; NO_ROOM where there is none (step 4). -/
def State.placeSub (s : State) (u : Subscription) : State × Option Response :=
  match s.lowestFreeSub with
  | none => s.refuse .noRoom
  | some i => (s.setSub i (some u)).answer .ok [byteOf i.val]

/-- SUBSCRIBE (R157). The second source byte of a channel is not looked at (log 17). -/
def blockSubscribe (p : Port) (sourceKind s1 s2 kinds level : Byte) (s : State) : State × Option Response :=
  match subSourceOf sourceKind s1 s2 kinds, levelOf level with
  | some src, some l =>
    if s.sourceStands src = false then s.refuse .notFound
    else if s.mayHear p src = false then s.refuse .notOwner
    else s.placeSub { subscriber := p, source := src, kinds := kinds, level := l }
  | none, _ => s.refuse .badArg
  | some _, none => s.refuse .badArg

/-- SUBSCRIBE taken at a port (R157). -/
def execSubscribe (p : Port) (sourceKind s1 s2 kinds level : Byte) (s : State) : Result :=
  .next (s.request p 5 (blockSubscribe p sourceKind s1 s2 kinds level))

/-- UNSUBSCRIBE (R158). -/
def blockUnsubscribe (p : Port) (index : Byte) (s : State) : State × Option Response :=
  match subOf index with
  | none => s.refuse .badArg
  | some i =>
    match s.sub i with
    | none => s.refuse .notFound
    | some u => if u.subscriber = p then (s.setSub i none).answer .ok [] else s.refuse .notOwner

/-- UNSUBSCRIBE taken at a port (R158). -/
def execUnsubscribe (p : Port) (index : Byte) (s : State) : Result := .next (s.request p 1 (blockUnsubscribe p index))

/-- A port's queue replaced. -/
def State.setQueue (s : State) (p : Port) (q : List Copy) : State := s.setPort p { s.port p with queue := q }

/-- TAKE_RECORD (R162). -/
def blockTakeRecord (p : Port) (s : State) : State × Option Response :=
  match (s.port p).queue with
  | [] => s.refuse .empty
  | c :: left => (s.setQueue p left).answer .ok (c.bytes ++ [byteOf left.length, levelByte (queueTop left)])

/-- TAKE_RECORD taken at a port (R162). -/
def execTakeRecord (p : Port) (s : State) : Result := .next (s.request p 0 (blockTakeRecord p))

/-- The fields of READ_CONDITIONS (R165, R193). -/
def PortUnit.conditionBytes (u : PortUnit) : List Byte :=
  [u.conditions.setWidth 8, byteOf u.queue.length, levelByte (queueTop u.queue), flagByte u.gapPending, byteOf u.mask,
    flagByte u.notice]

/-- READ_CONDITIONS (R165). -/
def blockReadConditions (p : Port) (s : State) : State × Option Response := s.answer .ok (s.port p).conditionBytes

/-- READ_CONDITIONS taken at a port (R165). -/
def execReadConditions (p : Port) (s : State) : Result := .next (s.request p 0 (blockReadConditions p))

/-- The conditions named removed from a port's set (R166). -/
def PortUnit.acknowledge (named : Byte) (u : PortUnit) : PortUnit :=
  { u with conditions := u.conditions &&& ~~~(named.setWidth 7) }

/-- ACK_CONDITIONS (R166): bit 7 names no kind (R187). -/
def blockAckConditions (p : Port) (named : Byte) (s : State) : State × Option Response :=
  if named.getLsbD 7 then s.refuse .badArg
  else (s.setPort p ((s.port p).acknowledge named)).answer .ok [((s.port p).acknowledge named).conditions.setWidth 8]

/-- ACK_CONDITIONS taken at a port (R166). -/
def execAckConditions (p : Port) (named : Byte) (s : State) : Result := .next (s.request p 1 (blockAckConditions p named))

/-- A port's notice mask replaced (R167). -/
def PortUnit.withMask (m : Nat) (u : PortUnit) : PortUnit := { u with mask := m }

/-- SET_MASK (R167). -/
def blockSetMask (p : Port) (mask : Byte) (s : State) : State × Option Response :=
  if 6 < mask.toNat then s.refuse .badArg
  else (s.setPort p ((s.port p).withMask mask.toNat)).answer .ok [mask, flagByte ((s.port p).withMask mask.toNat).notice]

/-- SET_MASK taken at a port (R167). -/
def execSetMask (p : Port) (mask : Byte) (s : State) : Result := .next (s.request p 1 (blockSetMask p mask))

end Sys2Proof.Machine
end

