-- ==== Sys2Proof/Machine/DigestEngine.lean ====
section
/-! DEFINITION. The digest engine's commands (Chapter 9). -/

namespace Sys2Proof.Machine

/-- A walk as it begins (R172). -/
def State.newWalk (s : State) (p : Port) (sc : Scope) (ct : Content) : Walk :=
  { requester := p, scope := sc, content := ct, startGen := s.watched ct, changed := false, nextIndex := 0,
    crc := 0xFFFFFFFF#32, fed := 0, elapsed := 0 }

/-- The effects of a DIGEST that is taken (R172): no response until the walk ends. -/
def State.beginWalk (s : State) (p : Port) (sc : Scope) (ct : Content) : State × Option Response :=
  (State.setPort { s with digest := some (s.newWalk p sc ct) } p { s.port p with state := .executing, slot := .pending },
    none)

/-- DIGEST (R172). -/
def blockDigest (p : Port) (scope content : Byte) (s : State) : State × Option Response :=
  match scopeOf scope, contentOf content with
  | some sc, some ct => if s.digest.isSome then s.refuse .busy else s.beginWalk p sc ct
  | none, _ => s.refuse .badArg
  | some _, none => s.refuse .badArg

/-- DIGEST taken at a port (R172). -/
def execDigest (p : Port) (scope content : Byte) (s : State) : Result := .next (s.request p 2 (blockDigest p scope content))

/-- DIGEST_EXAMINE_INDEX (R173, R175): taken where 20 microseconds have passed for the next index. -/
def execDigestExamineIndex (s : State) : Result := .next (if s.running then s.examineNext else s)

end Sys2Proof.Machine
end

