-- ==== Sys2Proof/Machine/ScheduleUnit.lean ====
section
/-! DEFINITION. The schedule unit's requests (Chapter 4, with the due times of Chapter 5). -/

namespace Sys2Proof.Machine

/-- Both generations, 8 bytes (R193). -/
def State.generations (s : State) : List Byte :=
  bytesBE 4 s.schedule.defGen.toNat ++ bytesBE 4 s.schedule.fullGen.toNat

/-- The codes of an entry's state and held_from (R187): 0, 0 for a FREE one. -/
def Entry.stateBytes (e : Entry) : List Byte :=
  match e.body with
  | some b => [byteOf b.run.code, byteOf b.run.heldFrom]
  | none => [0, 0]

/-- The due time a response shows: that of the entry's state (R60). -/
def Entry.due (e : Entry) : Option Nat := e.body.bind fun b => b.run.due

/-! ## ARM_ENTRY -/

/-- The outcome of step 6 of R74. -/
inductive FirstDue where
  /-- the entry is ARMED with this due time -/
  | armed (due : Nat)
  /-- an AT entry with late-ok whose target is at or before now (R76) -/
  | late (due : Nat)
  /-- an AFTER entry waits -/
  | waiting
  | tooLate
  | noMatch
  deriving DecidableEq, Repr

/-- The first due time of a definition at an instant (R74 step 6, R76, R89, R90, R93). -/
def firstDue (d : Definition) (lateOk : Bool) (now : Nat) : FirstDue :=
  match d with
  | .atTime t => if now < t then .armed t else if lateOk then .late t else .tooLate
  | .every a p => .armed (firstGridAfter a p now)
  | .calendar pat off =>
    match nextMatch pat off now with
    | some m => .armed m
    | none => .noMatch
  | .after _ _ _ _ => .waiting

/-- The body of a new entry (R75). -/
def ArmRequest.body (a : ArmRequest) (p : Port) (run : RunState) : Body :=
  { owner := p, defn := a.defn, run := run, remaining := a.remaining, line := a.line, record := a.record,
    shareable := a.shareable, tag := a.tag, keep := a.keep, last := none, fireCount := 0 }

/-- An entry allocated at an index (R63, R75): the handle's number rises by one, and both generations. -/
def State.allocate (s : State) (i : EntryIx) (b : Body) : State :=
  (s.setEntry i { inst := (s.entry i).inst + 1, body := some b }).bumpBoth

/-- The response of an ARM_ENTRY that was taken at an index (R75, R76, R193). -/
def State.armAnswer (s : State) (i : EntryIx) (fireCount : Nat) : State × Option Response :=
  s.answer .ok
    ([byteOf i.val, (s.entry i).inst] ++ (s.entry i).stateBytes.take 1 ++
      optTime (s.entry i).due ++ bytesBE 2 fireCount ++ s.generations)

/-- Step 3 of R74: the named line and the source channel are the requester's. -/
def State.ownsNamed (s : State) (p : Port) (a : ArmRequest) : Bool :=
  a.line.all (fun x => decide ((s.line x.1).owner = some p)) &&
    (match a.defn with
      | .after c _ _ _ => decide ((s.channel c).owner = some p)
      | .atTime _ => true
      | .every _ _ => true
      | .calendar _ _ => true)

/-- Steps 6 and 7 of R74 for a free index. -/
def State.armInto (s : State) (p : Port) (a : ArmRequest) (i : EntryIx) : State × Option Response :=
  match firstDue a.defn a.lateOk s.now with
  | .tooLate => s.refuse .tooLate
  | .noMatch => s.refuse .badArg
  | .armed d => (s.allocate i (a.body p (.armed d))).armAnswer i 0
  | .waiting => (s.allocate i (a.body p .waiting)).armAnswer i 0
  | .late d => ((s.allocate i (a.body p (.armed d))).fire i true 0).armAnswer i 1

/-- ARM_ENTRY (R74). -/
def blockArmEntry (p : Port) (f : ArmFields) (s : State) : State × Option Response :=
  match armRequestOf f with
  | none => s.refuse .badArg
  | some a =>
    if s.backup.quality = .unset then s.refuse .noTime
    else if s.ownsNamed p a = false then s.refuse .notOwner
    else if s.schedule.quotas.get p ≤ s.portCount p then s.refuse .quota
    else match s.lowestFree with
      | none => s.refuse .noRoom
      | some i => s.armInto p a i

/-- ARM_ENTRY taken at a port (R74). -/
def execArmEntry (p : Port) (f : ArmFields) (s : State) : Result :=
  .next (s.request p (f.defn.length + 16) (blockArmEntry p f))

/-! ## Handles -/

/-- Steps 1 and 2 of R64: a handle checked, and what the rule goes on to with the entry. -/
def State.withHandle (s : State) (index inst : Byte) (go : EntryIx → Body → State × Option Response) :
    State × Option Response :=
  match entryOf index with
  | none => s.refuse .badArg
  | some i =>
    match (s.entry i).body with
    | none => s.refuse .notFound
    | some b => if (s.entry i).inst = inst then go i b else s.refuse .notFound

/-- The three steps of R64: the handle checked with the owner check. -/
def State.withOwned (s : State) (p : Port) (index inst : Byte) (go : EntryIx → Body → State × Option Response) :
    State × Option Response :=
  s.withHandle index inst fun i b => if b.owner = p then go i b else s.refuse .notOwner

/-! ## RETIME_ENTRY -/

/-- Whether a new definition is one that RETIME_ENTRY may give an entry (R77 steps 2 and 3): of the entry's kind, and for
AFTER with the entry's own channel, trigger kinds and policy. -/
def Definition.retimes (new old : Definition) : Bool :=
  match new, old with
  | .atTime _, .atTime _ => true
  | .every _ _, .every _ _ => true
  | .calendar _ _, .calendar _ _ => true
  | .after c k _ pol, .after c' k' _ pol' => decide (c = c') && decide (k = k') && decide (pol = pol')
  | .atTime _, .every _ _ | .atTime _, .calendar _ _ | .atTime _, .after _ _ _ _ => false
  | .every _ _, .atTime _ | .every _ _, .calendar _ _ | .every _ _, .after _ _ _ _ => false
  | .calendar _ _, .atTime _ | .calendar _ _, .every _ _ | .calendar _ _, .after _ _ _ _ => false
  | .after _ _ _ _, .atTime _ | .after _ _ _ _, .every _ _ | .after _ _ _ _, .calendar _ _ => false

/-- An entry's definition and state replaced by a retime that is taken (R78, R79). -/
def State.retimed (s : State) (i : EntryIx) (b : Body) (d : Definition) (r : RunState) : State :=
  (s.setBody i (some { b with defn := d, run := r })).bumpBoth

/-- The response of a RETIME_ENTRY that was taken (R78, R79, R193). -/
def State.retimeAnswer (s : State) (i : EntryIx) : State × Option Response :=
  s.answer .ok ((s.entry i).stateBytes ++ optTime (s.entry i).due ++ s.generations)

/-- RETIME_ENTRY on an ARMED entry (R78). -/
def State.retimeArmed (s : State) (i : EntryIx) (b : Body) (due : Nat) (d : Definition) (lateOk : Bool) :
    State × Option Response :=
  match firstDue d lateOk s.now with
  | .tooLate => s.refuse .tooLate
  | .noMatch => s.refuse .badArg
  | .armed t => (s.retimed i b d (.armed t)).retimeAnswer i
  | .waiting => (s.retimed i b d (.armed due)).retimeAnswer i
  | .late t => ((s.retimed i b d (.armed t)).fire i true 0).retimeAnswer i

/-- RETIME_ENTRY on an entry HELD from ARMED (R79): it stays HELD, and nothing fires. -/
def State.retimeHeld (s : State) (i : EntryIx) (b : Body) (due : Nat) (d : Definition) (lateOk : Bool) :
    State × Option Response :=
  match firstDue d lateOk s.now with
  | .tooLate => s.refuse .tooLate
  | .noMatch => s.refuse .badArg
  | .armed t => (s.retimed i b d (.heldArmed t)).retimeAnswer i
  | .waiting => (s.retimed i b d (.heldArmed due)).retimeAnswer i
  | .late t => (s.retimed i b d (.heldArmed t)).retimeAnswer i

/-- RETIME_ENTRY (R77). A kind byte that names no kind is refused by the frame check (R180 step 4). -/
def blockRetimeEntry (p : Port) (index inst : Byte) (block : DefBlock) (late : Byte) (s : State) :
    State × Option Response :=
  match block with
  | .unknown _ => s.refuse .badArg
  | .atTime _ _ | .every _ _ _ | .calendar _ _ _ _ _ _ _ | .after _ _ _ _ =>
    s.withOwned p index inst fun i b =>
      match definitionOf block, flagOf late with
      | some d, some lateOk =>
        if d.retimes b.defn = false ∨ (lateOk = true ∧ d.isAt = false) then s.refuse .badArg
        else match b.run with
          | .armed due => s.retimeArmed i b due d lateOk
          | .heldArmed due => s.retimeHeld i b due d lateOk
          | .heldWaiting => (s.retimed i b d .heldWaiting).retimeAnswer i
          | .waiting => s.refuse .badArg
          | .spent => s.refuse .badArg
      | none, _ => s.refuse .badArg
      | some _, none => s.refuse .badArg

/-- RETIME_ENTRY taken at a port (R77). -/
def execRetimeEntry (p : Port) (index inst : Byte) (block : DefBlock) (late : Byte) (s : State) : Result :=
  .next (s.request p (block.length + 4) (blockRetimeEntry p index inst block late))

/-! ## HOLD_ENTRY, UNHOLD_ENTRY, CANCEL_ENTRY -/

/-- An entry's state replaced by a hold or an unhold: the full generation rises by one (R72, R80, R81). -/
def State.setRun (s : State) (i : EntryIx) (b : Body) (r : RunState) : State :=
  (s.setBody i (some { b with run := r })).bumpFull

/-- The response of HOLD_ENTRY (R80, R193). -/
def State.holdAnswer (s : State) (i : EntryIx) : State × Option Response :=
  s.answer .ok ((s.entry i).stateBytes ++ s.generations)

/-- HOLD_ENTRY (R80). -/
def blockHoldEntry (p : Port) (index inst : Byte) (s : State) : State × Option Response :=
  s.withOwned p index inst fun i b =>
    match b.run with
    | .armed d => (s.setRun i b (.heldArmed d)).holdAnswer i
    | .waiting => (s.setRun i b .heldWaiting).holdAnswer i
    | .heldArmed _ => s.holdAnswer i
    | .heldWaiting => s.holdAnswer i
    | .spent => s.refuse .badArg

/-- HOLD_ENTRY taken at a port (R80). -/
def execHoldEntry (p : Port) (index inst : Byte) (s : State) : Result :=
  .next (s.request p 2 (blockHoldEntry p index inst))

/-- The response of UNHOLD_ENTRY (R81, R193). -/
def State.unholdAnswer (s : State) (i : EntryIx) : State × Option Response :=
  s.answer .ok ((s.entry i).stateBytes.take 1 ++ optTime (s.entry i).due ++ s.generations)

/-- UNHOLD_ENTRY (R81, R108): an entry whose kept due time has passed is resolved in the same event. -/
def blockUnholdEntry (p : Port) (index inst : Byte) (s : State) : State × Option Response :=
  s.withOwned p index inst fun i b =>
    match b.run with
    | .heldWaiting => (s.setRun i b .waiting).unholdAnswer i
    | .heldArmed d => ((s.setRun i b (.armed d)).resolve i).unholdAnswer i
    | .armed _ => s.unholdAnswer i
    | .waiting => s.unholdAnswer i
    | .spent => s.refuse .badArg

/-- UNHOLD_ENTRY taken at a port (R81). -/
def execUnholdEntry (p : Port) (index inst : Byte) (s : State) : Result :=
  .next (s.request p 2 (blockUnholdEntry p index inst))

/-- CANCEL_ENTRY (R82). -/
def blockCancelEntry (p : Port) (index inst : Byte) (s : State) : State × Option Response :=
  s.withOwned p index inst fun i _ => (s.freeEntry i).answer .ok (s.freeEntry i).generations

/-- CANCEL_ENTRY taken at a port (R82). -/
def execCancelEntry (p : Port) (index inst : Byte) (s : State) : Result :=
  .next (s.request p 2 (blockCancelEntry p index inst))

/-! ## READ_ENTRY, LIST_ENTRIES, SET_QUOTA -/

/-- The last firing, 14 bytes with its presence byte (R193). -/
def Body.lastBytes (b : Body) : List Byte :=
  optBytes 13 (b.last.map fun l => l.stamp.bytes ++ [flagByte l.late] ++ bytesBE 2 l.missed)

/-- An entry as READ_ENTRY returns it (R84, R193). -/
def Body.readBytes (b : Body) (i : EntryIx) (inst : BitVec 8) : List Byte :=
  [byteOf i.val, inst, byteOf b.owner.val, byteOf b.defn.code, byteOf b.run.code, byteOf b.run.heldFrom] ++
    optTime b.run.due ++ padTo 11 b.defn.block ++ optNat 2 b.remaining ++ b.lineBytes ++ b.recordBytes ++
    [flagByte b.shareable] ++ bytesBE 4 b.tag.toNat ++ [flagByte b.keep] ++ b.lastBytes ++ bytesBE 2 b.fireCount

/-- READ_ENTRY (R84). -/
def blockReadEntry (index inst : Byte) (s : State) : State × Option Response :=
  s.withHandle index inst fun i b => s.answer .ok (b.readBytes i inst ++ s.generations)

/-- READ_ENTRY taken at a port (R84). -/
def execReadEntry (p : Port) (index inst : Byte) (s : State) : Result :=
  .next (s.request p 2 (blockReadEntry index inst))

/-- The entries in scope at or above a start index, in ascending order (R85). -/
def State.inScope (s : State) (p : Port) (sc : Scope) (start : Nat) : List EntryIx :=
  allEntries.filter fun i =>
    decide (start ≤ i.val) && (s.entry i).body.any fun b => decide (sc = .all) || decide (b.owner = p)

/-- The summary of an entry, 6 bytes (R85, R193). -/
def Entry.summary (e : Entry) (i : EntryIx) : List Byte :=
  match e.body with
  | some b => [byteOf i.val, e.inst, byteOf b.owner.val, byteOf b.defn.code, byteOf b.run.code, flagByte b.shareable]
  | none => []

/-- The index following the last one summarised, where further ones lie above it (R85). -/
def continueIndex (found : List EntryIx) : Option Nat :=
  if 16 < found.length then ((found.take 16).getLast?).map fun i => i.val + 1 else none

/-- LIST_ENTRIES (R85). -/
def blockListEntries (p : Port) (scope start : Byte) (s : State) : State × Option Response :=
  match scopeOf scope, entryOf start with
  | some sc, some i =>
    let found := s.inScope p sc i.val
    s.answer .ok
      ([byteOf (min 16 found.length)] ++ (found.take 16).flatMap (fun j => (s.entry j).summary j) ++
        optNat 1 (continueIndex found) ++
        [byteOf s.freeEntries, byteOf (s.portCount p), byteOf (s.schedule.quotas.get p)] ++ s.generations)
  | none, _ => s.refuse .badArg
  | some _, none => s.refuse .badArg

/-- LIST_ENTRIES taken at a port (R85). -/
def execListEntries (p : Port) (scope start : Byte) (s : State) : Result :=
  .next (s.request p 2 (blockListEntries p scope start))

/-- A port's quota replaced (R69). -/
def State.setQuota (s : State) (p : Port) (q : Nat) : State :=
  { s with schedule := { s.schedule with quotas := s.schedule.quotas.set p.val q p.isLt } }

/-- SET_QUOTA (R69). -/
def blockSetQuota (p : Port) (target quota : Byte) (s : State) : State × Option Response :=
  if s.isHolder p = false then s.refuse .notAuthority
  else match portOf target with
    | none => s.refuse .badArg
    | some t =>
      if 64 < quota.toNat then s.refuse .badArg
      else (s.setQuota t quota.toNat).answer .ok [target, quota, byteOf (s.portCount t)]

/-- SET_QUOTA taken at a port (R69). -/
def execSetQuota (p : Port) (target quota : Byte) (s : State) : Result :=
  .next (s.request p 2 (blockSetQuota p target quota))

end Sys2Proof.Machine
end

