-- ==== Sys2Proof/Machine/Supervisor.lean ====
section
/-! DEFINITION. The clock supervisor's commands (Chapter 2). -/

namespace Sys2Proof.Machine

/-- A source selection taken: the monitor moves to REF_ABSENT where it is REFERENCE (R24). -/
def State.chooseSource (s : State) (sel : SourceSelection) : State :=
  { s with backup := { s.backup with source := sel },
           monitor := match sel with
             | .reference => s.monitor.absent
             | .notChosen => s.monitor
             | .internalOnly => s.monitor }

/-- SELECT_SOURCE (R24). -/
def blockSelectSource (p : Port) (selection : Byte) (s : State) : State × Option Response :=
  if s.isHolder p = false then s.refuse .notAuthority
  else match selectionOf selection with
    | none => s.refuse .badArg
    | some sel =>
      if s.backup.source ≠ .notChosen then s.refuse .locked
      else (s.chooseSource sel).answer .ok [byteOf sel.code]

/-- SELECT_SOURCE taken at a port (R24). -/
def execSelectSource (p : Port) (selection : Byte) (s : State) : Result :=
  .next (s.request p 1 (blockSelectSource p selection))

/-- RESUME_REFERENCE (R36). -/
def blockResumeReference (p : Port) (s : State) : State × Option Response :=
  if s.isHolder p = false then s.refuse .notAuthority
  else if s.backup.quality ≠ .holdover then s.refuse .badArg
  else if s.monitor.state ≠ .refGood then s.refuse .notReady
  else s.beginTracking.answer .ok s.beginTracking.stamp.bytes

/-- RESUME_REFERENCE taken at a port (R36). -/
def execResumeReference (p : Port) (s : State) : Result := .next (s.request p 0 (blockResumeReference p))

/-- READ_CLOCK (R37). -/
def blockReadClock (s : State) : State × Option Response :=
  s.answer .ok
    ([byteOf s.backup.source.code, byteOf s.monitor.state.code, byteOf s.monitor.windowCount] ++
      optBytes 2 (s.monitor.lastError.map (intBE 2)) ++ [byteOf s.rateSource.code] ++ s.stamp.bytes)

/-- READ_CLOCK taken at a port (R37). -/
def execReadClock (p : Port) (s : State) : Result := .next (s.request p 0 blockReadClock)

/-- REFERENCE_EDGE (R27, R30). The monitor does not run while the part is held in reset or without power (R38). -/
def execReferenceEdge (gap : Nat) (s : State) : Result := .next (if s.running then s.takeReferenceEdge gap else s)

/-- WINDOW_END (R26, R28, R29): taken where the window's 1,000 device microseconds have passed. -/
def execWindowEnd (s : State) : Result := .next (if s.running then s.endWindow else s)

/-- Whether 1 microsecond of the internal oscillator can have passed since the last edge (R30): a device microsecond has
ended since it, or the reference is the rate source, whose microseconds end with its edges (R2, R31). -/
def State.lossCanFall (s : State) : Bool := decide (1 ≤ s.monitor.sinceEdge ∨ s.backup.quality = .tracking)

/-- REFERENCE_LOSS (R30): taken where the microsecond without an edge can have passed (log 10). -/
def execReferenceLoss (s : State) : Result := .next (if s.running && s.lossCanFall then s.loseReference else s)

end Sys2Proof.Machine
end

