-- ==== Sys2Proof/Machine/Timebase.lean ====
section
/-! DEFINITION. The timebase's commands: READ_TIME, READ_CALENDAR, CLEAR_BACKUP, and the microseconds of its rate source
(Chapter 1). -/

namespace Sys2Proof.Machine

/-- READ_TIME (R12). -/
def blockReadTime (s : State) : State × Option Response :=
  s.answer .ok (s.stamp.bytes ++ [byteOf s.slew.direction.code, flagByte s.backup.rangeHeld])

/-- READ_TIME taken at a port (R12). -/
def execReadTime (p : Port) (s : State) : Result := .next (s.request p 0 blockReadTime)

/-- The calendar view of one sample (R9 to R11, R13, R193). -/
def calendarBytes (t : Timestamp) : List Byte :=
  let day := dayNumber (secondsOf t.time)
  let sod := secondOfDay (secondsOf t.time)
  bytesBE 2 (yearOf day) ++
    [byteOf (monthOf day), byteOf (dayOfMonth day), byteOf (hourOf sod), byteOf (minuteOf sod), byteOf (secondOf sod)] ++
    bytesBE 3 (microsOf t.time) ++ [byteOf (weekdayOf day)] ++ bytesBE 2 (dayOfYear day) ++ bytesBE 2 t.epoch.toNat ++
    [byteOf t.quality.code]

/-- READ_CALENDAR (R13). -/
def blockReadCalendar (s : State) : State × Option Response := s.answer .ok (calendarBytes s.stamp)

/-- READ_CALENDAR taken at a port (R13). -/
def execReadCalendar (p : Port) (s : State) : Result := .next (s.request p 0 blockReadCalendar)

/-- A reset cause added at every attached port (R183). -/
def State.causeAttached (s : State) (c : ResetCause) : State :=
  allPorts.foldl (fun t p => if t.attached p then t.setPort p ((t.port p).addCause c) else t) s

/-- The effects of a CLEAR_BACKUP that is taken (R20, R22, R38, R183). -/
def State.clearBackup (s : State) : State :=
  (State.raiseAll { s with backup := Backup.reset, monitor := Monitor.off } .timeStepped).causeAttached .backupLost

/-- CLEAR_BACKUP (R22). -/
def blockClearBackup (p : Port) (s : State) : State × Option Response :=
  if s.isHolder p = false then s.refuse .notAuthority
  else if s.countEntries (fun _ => true) ≠ 0 then s.refuse .inUse
  else if s.authority.active.isSome || s.authority.waiting.isSome then s.refuse .busy
  else s.clearBackup.answer .ok []

/-- CLEAR_BACKUP taken at a port (R22). -/
def execClearBackup (p : Port) (s : State) : Result := .next (s.request p 0 (blockClearBackup p))

/-- TIMEBASE_ADVANCE (R2): one microsecond of the rate source, whole or in parts (log 30). Where it is the thousandth
of a slew block it advances the count as R14 says of that one. -/
def execTimebaseAdvance (part : Advance) (s : State) : Result :=
  .next (match part with
    | .whole first => s.micro first true
    | .count first => s.micro first false
    | .firings first => s.finishAdvance first)

/-- SLEW_BLOCK_END (R14): the microsecond that is the thousandth of a slew block, whole or in parts (log 30); nothing
where the next one is not. -/
def execSlewBlockEnd (part : Advance) (s : State) : Result :=
  let ends := s.running && s.atBlockEnd
  .next (match part with
    | .whole first => if ends then s.runMicro first true else s
    | .count first => if ends then s.runMicro first false else s
    | .firings first => s.finishAdvance first)

/-- SLEW_END (R14, R53): the thousandth microsecond of the last block of a slew, whole or in parts (log 30); nothing
where the next one is not. -/
def execSlewEnd (part : Advance) (s : State) : Result :=
  let ends := s.running && s.atBlockEnd && decide (s.slew.remaining = 1)
  .next (match part with
    | .whole first => if ends then s.runMicro first true else s
    | .count first => if ends then s.runMicro first false else s
    | .firings first => s.finishAdvance first)

end Sys2Proof.Machine
end

