-- ==== Sys2Proof/Machine/TriggerUnit.lean ====
section
/-! DEFINITION. The trigger unit's commands (Chapter 6). -/

namespace Sys2Proof.Machine

/-- A line number checked first (R116 to R119, R124, R128: above 15 is BAD_ARG). -/
def State.withLine (s : State) (line : Byte) (go : LineNo → State × Option Response) : State × Option Response :=
  match lineOf line with
  | none => s.refuse .badArg
  | some l => go l

/-- A line number and then the owner checked (R117 to R119, R124). -/
def State.withOwnLine (s : State) (p : Port) (line : Byte) (go : LineNo → State × Option Response) :
    State × Option Response :=
  s.withLine line fun l => if (s.line l).owner = some p then go l else s.refuse .notOwner

/-- The configuration of a line: idle level, pulse width, hold limit (R193). -/
def Line.configBytes (x : Line) : List Byte :=
  [byteOf (pinCode x.idleLevel)] ++ bytesBE 2 x.width ++ bytesBE 2 x.holdLimit

/-- The first fields of CLAIM_LINE and READ_LINE (R193). -/
def Line.headBytes (x : Line) : List Byte :=
  optPort x.owner ++ [flagByte x.pinned] ++ x.configBytes ++ [byteOf x.drive.code]

/-- A line with an owner given to it (R116). -/
def State.ownLine (s : State) (l : LineNo) (p : Port) : State := s.setLine l { s.line l with owner := some p }

/-- CLAIM_LINE (R116). -/
def blockClaimLine (p : Port) (line : Byte) (s : State) : State × Option Response :=
  s.withLine line fun l =>
    match (s.line l).owner with
    | none => (s.ownLine l p).answer .ok ((s.ownLine l p).line l).headBytes
    | some q => if q = p then s.answer .ok (s.line l).headBytes else s.refuse .owned

/-- CLAIM_LINE taken at a port (R116). -/
def execClaimLine (p : Port) (line : Byte) (s : State) : Result := .next (s.request p 1 (blockClaimLine p line))

/-- RELEASE_LINE (R117). -/
def blockReleaseLine (p : Port) (line : Byte) (s : State) : State × Option Response :=
  s.withOwnLine p line fun l =>
    if (s.line l).pinned then s.refuse .pinned
    else if s.lineNaming l ≠ 0 then s.refuse .inUse
    else (s.setLine l (s.line l).released).answer .ok []

/-- RELEASE_LINE taken at a port (R117). -/
def execReleaseLine (p : Port) (line : Byte) (s : State) : Result := .next (s.request p 1 (blockReleaseLine p line))

/-- PIN_LINE (R118). -/
def blockPinLine (p : Port) (line : Byte) (s : State) : State × Option Response :=
  s.withOwnLine p line fun l => (s.setLine l { s.line l with pinned := true }).answer .ok [flagByte true]

/-- PIN_LINE taken at a port (R118). -/
def execPinLine (p : Port) (line : Byte) (s : State) : Result := .next (s.request p 1 (blockPinLine p line))

/-- A line with a configuration given to it (R119). -/
def Line.configured (x : Line) (idle : PinLevel) (width holdLimit : Nat) : Line :=
  { x with idleLevel := idle, width := width, holdLimit := holdLimit }

/-- Steps 3 and 4 of R119, with the fields read. -/
def State.configureLine (s : State) (l : LineNo) (idle : PinLevel) (width holdLimit : Nat) : State × Option Response :=
  match (s.line l).drive with
  | .idle =>
    let x := (s.line l).configured idle width holdLimit
    (s.setLine l x).answer .ok (x.configBytes ++ [byteOf (pinCode x.output)])
  | .pulsing _ => s.refuse .notStopped
  | .held _ => s.refuse .notStopped

/-- CONFIGURE_LINE (R119). A hold limit has two bytes and is never above 65,535. -/
def blockConfigureLine (p : Port) (line idle : Byte) (width holdLimit : BitVec 16) (s : State) :
    State × Option Response :=
  match lineOf line, pinLevelOf idle with
  | some _, some level =>
    if width = 0 then s.refuse .badArg
    else s.withOwnLine p line fun l => s.configureLine l level width.toNat holdLimit.toNat
  | none, _ => s.refuse .badArg
  | some _, none => s.refuse .badArg

/-- CONFIGURE_LINE taken at a port (R119). -/
def execConfigureLine (p : Port) (line idle : Byte) (width holdLimit : BitVec 16) (s : State) : Result :=
  .next (s.request p 6 (blockConfigureLine p line idle width holdLimit))

/-- An action applied by its owner's DRIVE_LINE, and the response (R124, R193). -/
def State.driveLine (s : State) (p : Port) (l : LineNo) (a : LineAction) : State × Option Response :=
  let driven := s.applyAction l a (.drive p)
  driven.answer .ok ([byteOf (driven.line l).drive.code, byteOf (pinCode (driven.line l).output)] ++ driven.stamp.bytes)

/-- DRIVE_LINE (R124). -/
def blockDriveLine (p : Port) (line action : Byte) (s : State) : State × Option Response :=
  match lineOf line, actionOf action with
  | some _, some a => s.withOwnLine p line fun l => s.driveLine p l a
  | none, _ => s.refuse .badArg
  | some _, none => s.refuse .badArg

/-- DRIVE_LINE taken at a port (R124). -/
def execDriveLine (p : Port) (line action : Byte) (s : State) : Result :=
  .next (s.request p 2 (blockDriveLine p line action))

/-- The pulse time remaining as READ_LINE shows it (R128); one whose end falls at this instant shows 1 (log 20). -/
def Drive.pulseLeft : Drive → Option Nat
  | .pulsing n => some (max 1 n)
  | .idle => none
  | .held _ => none

/-- The hold time remaining as READ_LINE shows it (R128); one whose end falls at this instant shows 1 (log 20). -/
def Drive.holdLeft : Drive → Option Nat
  | .held (some n) => some (max 1 n)
  | .held none => none
  | .idle => none
  | .pulsing _ => none

/-- The source of a last action, 3 bytes (R193). -/
def ActionSource.bytes : ActionSource → List Byte
  | .drive p => [0, 0, byteOf p.val]
  | .firing i n => [1, byteOf i.val, n]

/-- A last action, 15 bytes with its presence byte (R193). -/
def Line.lastBytes (x : Line) : List Byte :=
  optBytes 14 (x.last.map fun a => a.source.bytes ++ [byteOf a.action.code] ++ a.stamp.bytes)

/-- A line as READ_LINE returns it, with the count of entries naming it (R128, R193). -/
def Line.readBytes (x : Line) (naming : Nat) : List Byte :=
  x.headBytes ++ [byteOf (pinCode x.output)] ++ optNat 2 x.drive.pulseLeft ++ optNat 4 x.drive.holdLeft ++
    [byteOf naming] ++ x.lastBytes

/-- READ_LINE (R128). -/
def blockReadLine (line : Byte) (s : State) : State × Option Response :=
  s.withLine line fun l => s.answer .ok ((s.line l).readBytes (s.lineNaming l) ++ s.stamp.bytes)

/-- READ_LINE taken at a port (R128). -/
def execReadLine (p : Port) (line : Byte) (s : State) : Result := .next (s.request p 1 (blockReadLine line))

/-- PULSE_END (R121): taken where the line's pulse timer has reached 0. -/
def execPulseEnd (l : LineNo) (s : State) : Result := .next (if s.running then s.endPulse l else s)

/-- HOLD_EXPIRY (R122): taken where the line's hold timer has reached 0. -/
def execHoldExpiry (l : LineNo) (s : State) : Result := .next (if s.running then s.expireHold l else s)

end Sys2Proof.Machine
end

