-- ==== Sys2Proof/Machine/Ports.lean ====
section
/-! DEFINITION. The port units' commands: the requests they serve themselves, the two other transactions, and the resets
and the supplies (Chapter 10, with R18 to R21). -/

namespace Sys2Proof.Machine

/-! ## Requests -/

/-- A port's reset-cause set emptied (R183). -/
def State.clearCauses (s : State) (p : Port) : State := s.setPort p { s.port p with causes := 0 }

/-- READ_RESET_CAUSE (R183). -/
def blockReadResetCause (p : Port) (s : State) : State × Option Response :=
  (s.clearCauses p).answer .ok [(s.port p).causes.setWidth 8]

/-- READ_RESET_CAUSE taken at a port (R183). -/
def execReadResetCause (p : Port) (s : State) : Result := .next (s.request p 0 (blockReadResetCause p))

/-- A reset cause added at a port (R183). -/
def State.addCauseAt (s : State) (p : Port) (c : ResetCause) : State := s.setPort p ((s.port p).addCause c)

/-- DETACH (R182): no response, and the slot EMPTY. -/
def blockDetach (p : Port) (s : State) : State × Option Response := ((s.detached p).addCauseAt p .detach, none)

/-- DETACH taken at a port (R182). -/
def execDetach (p : Port) (s : State) : Result := .next (s.request p 0 (blockDetach p))

/-- IDENTIFY (R184): vendor code 0x2E47, part number 412, revision 1, and the capacities. -/
def blockIdentify (s : State) : State × Option Response :=
  s.answer .ok (bytesBE 2 0x2E47 ++ bytesBE 2 412 ++ [1, 4, 64, 16, 8, 24, 32])

/-- IDENTIFY taken at a port (R184). -/
def execIdentify (p : Port) (s : State) : Result := .next (s.request p 0 blockIdentify)

/-! ## Fetches and frames -/

/-- The bytes a fetch of n bytes shifts out of an attached port: the status byte, the response, and then 0xFF (R181). Both
were sampled when CS went low. -/
def PortUnit.fetchMiso (u : PortUnit) (n : Nat) : List Byte :=
  let out := u.shownStatus :: u.shownSlot.bytes
  out.take n ++ List.replicate (n - out.length) 0xFF

/-- The slot after a fetch of n bytes: one that was READY when CS went low is EMPTY once its CRC byte has been clocked
(R181). -/
def PortUnit.fetchedSlot (u : PortUnit) (n : Nat) : Slot :=
  match u.shownSlot with
  | .ready r => if 1 + r.bytes.length ≤ n then .empty else u.slot
  | .pending => u.slot
  | .empty => u.slot

/-- A fetch of n bytes at an attached port (R181). -/
def PortUnit.fetched (u : PortUnit) (n : Nat) : PortUnit :=
  { u with miso := u.fetchMiso n, slot := u.fetchedSlot n, transfer := .idle }

/-- CS goes low at a port: the status byte and the slot are sampled (R179, R181); a transaction that begins in RESET_HOLD
is ignored to its end (R178; log 9). The spec gives no second fall of CS within a transaction: commanded while CS is low
already, it changes nothing, so that what was sampled stands and an abandoned transaction stays abandoned, which is the
model's choice (DESIGN CHOICE, log 4). -/
def PortUnit.opened (u : PortUnit) : PortUnit :=
  match u.transfer, u.state with
  | .idle, .resetHold => { u with transfer := .abandoned }
  | .idle, .ready => { u with transfer := .begun u.statusByte u.slot }
  | .idle, .executing => { u with transfer := .begun u.statusByte u.slot }
  | .begun _ _, _ => u
  | .abandoned, _ => u

/-- A fetch of n whole bytes: ignored in RESET_HOLD, MISO high (R178, R179). Of no byte it is CS going low alone (R179,
log 9), and nothing where CS is low already (log 4). -/
def State.fetchAt (s : State) (p : Port) (n : Nat) : State :=
  if n = 0 then s.setPort p (s.port p).opened
  else match (s.port p).hears with
    | .resetHold => s.shiftOut p (List.replicate n 0xFF)
    | .executing => s.setPort p ((s.port p).fetched n)
    | .ready => s.setPort p ((s.port p).fetched n)

/-- A transaction of no whole byte: CS goes high with no other effect (R180). -/
def State.closeTransfer (s : State) (p : Port) : State := s.setPort p { s.port p with transfer := .idle }

/-- FETCH (R181); of no byte, CS going low (R179, log 9), which changes nothing where CS is low already (log 4). -/
def execFetch (p : Port) (clocked : Nat) (s : State) : Result := .next (s.fetchAt p clocked)

/-- A frame of n bytes that the frame checks refuse: its status code in the slot, with no fields; ignored in RESET_HOLD
and discarded at a port that is EXECUTING or told the master so (R178 to R180). -/
def State.refuseFrame (s : State) (p : Port) (n : Nat) (x : Status) : State :=
  match (s.port p).hears with
  | .resetHold => s.shiftOut p (List.replicate n 0xFF)
  | .executing => s.shiftOut p ((s.port p).requestMiso n)
  | .ready => (s.shiftOut p ((s.port p).requestMiso n)).setSlot p (.ready { status := x, fields := [] })

/-- The request that a frame spells, dispatched to its block (R180 step 5). -/
def dispatchRequest (i : Instr) (s : State) : Result :=
  match i with
  | .readTime p => execReadTime p s
  | .readCalendar p => execReadCalendar p s
  | .claimAuthority p key => execClaimAuthority p key s
  | .releaseAuthority p => execReleaseAuthority p s
  | .setKey p key => execSetKey p key s
  | .setTime p sec us => execSetTime p sec us s
  | .step p amount => execStep p amount s
  | .slew p amount => execSlew p amount s
  | .cancelAdjust p => execCancelAdjust p s
  | .readAdjust p => execReadAdjust p s
  | .selectSource p sel => execSelectSource p sel s
  | .resumeReference p => execResumeReference p s
  | .readClock p => execReadClock p s
  | .clearBackup p => execClearBackup p s
  | .armEntry p f => execArmEntry p f s
  | .retimeEntry p i n d l => execRetimeEntry p i n d l s
  | .holdEntry p i n => execHoldEntry p i n s
  | .unholdEntry p i n => execUnholdEntry p i n s
  | .cancelEntry p i n => execCancelEntry p i n s
  | .readEntry p i n => execReadEntry p i n s
  | .listEntries p sc st => execListEntries p sc st s
  | .setQuota p t q => execSetQuota p t q s
  | .digest p sc ct => execDigest p sc ct s
  | .claimLine p l => execClaimLine p l s
  | .releaseLine p l => execReleaseLine p l s
  | .pinLine p l => execPinLine p l s
  | .configureLine p l idle w h => execConfigureLine p l idle w h s
  | .driveLine p l a => execDriveLine p l a s
  | .readLine p l => execReadLine p l s
  | .claimChannel p c => execClaimChannel p c s
  | .releaseChannel p c => execReleaseChannel p c s
  | .shareChannel p c f => execShareChannel p c f s
  | .configureChannel p c m e src l => execConfigureChannel p c m e src l s
  | .startChannel p c => execStartChannel p c s
  | .stopChannel p c => execStopChannel p c s
  | .setReload p c r => execSetReload p c r s
  | .readChannel p c => execReadChannel p c s
  | .subscribe p k a b ks l => execSubscribe p k a b ks l s
  | .unsubscribe p i => execUnsubscribe p i s
  | .takeRecord p => execTakeRecord p s
  | .readConditions p => execReadConditions p s
  | .ackConditions p c => execAckConditions p c s
  | .setMask p m => execSetMask p m s
  | .readResetCause p => execReadResetCause p s
  | .detach p => execDetach p s
  | .identify p => execIdentify p s
  | .badRequest _ _ _ | .fetch _ _ | .portReset _ | .portLeavesResetHold _ | .deviceReset | .partLeavesReset _
  | .powerOnRetained _ | .powerOnBackupLost _ | .mainSupplyLoss | .backupSupplyLoss | .backupSupplyReturn
  | .timebaseAdvance _ | .slewBlockEnd _ | .slewEnd _ | .referenceEdge _ | .windowEnd | .referenceLoss
  | .pulseEnd _ | .holdExpiry _ | .capturePinChange _ _ | .edgeTaken _ | .measurementOverflow _
  | .counterExpiry _ | .digestExamineIndex => .next s

/-- What a transaction of n bytes does (R180). -/
def State.transact (s : State) (p : Port) (n : Nat) (t : Transaction) : Result :=
  match t with
  | .nothing => .next (s.closeTransfer p)
  | .fetch k => .next (s.fetchAt p k)
  | .frameError => .next (s.refuseFrame p n .frameError)
  | .badRequest => .next (s.refuseFrame p n .badRequest)
  | .badArg => .next (s.refuseFrame p n .badArg)
  | .request i => dispatchRequest i s

/-- BAD_REQUEST (R180): a transaction through the frame checks. One that passes them all is the request it spells
(log 18). -/
def execBadRequest (p : Port) (bytes : List Byte) (incomplete : Bool) (s : State) : Result :=
  s.transact p bytes.length (decodeFrame p bytes incomplete)

/-! ## Port resets -/

/-- The level of a PRST input replaced. -/
def State.setPrst (s : State) (p : Port) (x : PinLevel) : State :=
  { s with pins := { s.pins with prst := s.pins.prst.set p.val x p.isLt } }

/-- PORT_RESET (R182): PRST goes low. A port already in RESET_HOLD has nothing left to lose. -/
def execPortReset (p : Port) (s : State) : Result :=
  .next (if s.running && s.attached p then (s.setPrst p .low).portGone p else s.setPrst p .low)

/-- A port leaving RESET_HOLD, to READY, with PORT_RESET added to its causes and nothing else changed (R178, R183). -/
def State.leaveHold (s : State) (p : Port) : State := (s.setPortState p .ready).addCauseAt p .portReset

/-- PORT_LEAVES_RESET_HOLD (R178): PRST goes high. -/
def execPortLeavesResetHold (p : Port) (s : State) : Result :=
  .next (if s.running && !s.attached p then (s.setPrst p .high).leaveHold p else s.setPrst p .high)

/-! ## Device resets and supplies -/

/-- The RESET input's level recorded. -/
def State.holdReset (s : State) (held : Bool) : State := { s with pins := { s.pins with resetHeld := held } }

/-- The reset causes to add at the leaving of a reset. -/
def State.withLeaveCauses (s : State) (causes : BitVec 5) : State := { s with leaveCauses := causes }

/-- A device reset taken (R21): the quality is examined (R6), and the main domain is held at its reset values. -/
def State.takeReset (s : State) : State :=
  ((s.holdReset true).examineQuality.resetMain).withLeaveCauses (addBit 0#5 ResetCause.deviceReset.bit)

/-- DEVICE_RESET (R21): RESET goes low. Without the main supply only the pin changes. -/
def execDeviceReset (s : State) : Result := .next (if s.running then s.takeReset else s.holdReset true)

/-- PART_LEAVES_RESET (R185): RESET goes high; with the main supply present the part leaves reset. -/
def execPartLeavesReset (straps : BitVec 3) (s : State) : Result :=
  .next
    (if s.pins.resetHeld then
      if s.pins.mainSupply then (s.holdReset false).leaveReset straps else s.holdReset false
    else s)

/-- POWER_ON_RETAINED (R19): the quality is examined (R6), the rest of the backup domain is kept. -/
def execPowerOnRetained (straps : BitVec 3) (s : State) : Result :=
  .next
    (if s.pins.mainSupply = false ∧ s.backup.retention = true then
      s.examineQuality.powerOn straps (addBit 0#5 ResetCause.powerOn.bit)
    else s)

/-- The backup domain at its reset values (R20). -/
def State.resetBackup (s : State) : State := { s with backup := Backup.reset }

/-- POWER_ON_BACKUP_LOST (R20). -/
def execPowerOnBackupLost (straps : BitVec 3) (s : State) : Result :=
  .next
    (if s.pins.mainSupply = false ∧ s.backup.retention = false then
      s.resetBackup.powerOn straps (addBit (addBit 0#5 ResetCause.powerOn.bit) ResetCause.backupLost.bit)
    else s)

/-- The retention mark replaced (R18). -/
def State.setRetention (s : State) (x : Bool) : State := { s with backup := { s.backup with retention := x } }

/-- The quality as the main supply is lost (R18). -/
def Quality.unpowered : Quality → Quality
  | .tracking => .holdover
  | .holdover => .holdover
  | .freeRun => .freeRun
  | .unset => .unset

/-- The main supply's level recorded. -/
def State.setMain (s : State) (x : Bool) : State := { s with pins := { s.pins with mainSupply := x } }

/-- The backup supply's level recorded. -/
def State.setBackupSupply (s : State) (x : Bool) : State := { s with pins := { s.pins with backupSupply := x } }

/-- The main supply lost (R18): the other blocks are without power, TRACKING becomes HOLDOVER, and without the backup
supply the retention mark is lost. R131 gives the lines no output level without power: the reset values show LOW, as while
RESET is held, which is the model's choice (log 32). -/
def State.losePower (s : State) : State :=
  ((s.setQuality s.backup.quality.unpowered).resetMain.setMain false).setRetention
    (s.backup.retention && s.pins.backupSupply)

/-- MAIN_SUPPLY_LOSS (R18). -/
def execMainSupplyLoss (s : State) : Result := .next (if s.pins.mainSupply then s.losePower else s)

/-- BACKUP_SUPPLY_LOSS (R18): no effect while the main supply is present. -/
def execBackupSupplyLoss (s : State) : Result :=
  .next (if s.pins.mainSupply then s.setBackupSupply false else (s.setBackupSupply false).setRetention false)

/-- The backup domain's power established again after both supplies were absent: its contents are FREE and the retention
mark is present (R18, log 13). -/
def State.renewBackup (s : State) : State :=
  { s with backup := freeBackup s.freeCount, freeCount := s.freeCount + freeBackupDraws }

/-- BACKUP_SUPPLY_RETURN (R18). -/
def execBackupSupplyReturn (s : State) : Result :=
  .next
    (if s.pins.mainSupply = false ∧ s.backup.retention = false then (s.setBackupSupply true).renewBackup
    else s.setBackupSupply true)

end Sys2Proof.Machine
end

