-- ==== Sys2Proof/Machine/Dispatch.lean ====
section
/-! DEFINITION. The meaning of every command: one arm a constructor, each one direct call. -/

namespace Sys2Proof.Machine

def exec (i : Instr) (s : State) : Host.Outcome State Fault Refusal :=
  match i with
  | .readTime p => Sys2Proof.Machine.execReadTime p s
  | .readCalendar p => Sys2Proof.Machine.execReadCalendar p s
  | .claimAuthority p key => Sys2Proof.Machine.execClaimAuthority p key s
  | .releaseAuthority p => Sys2Proof.Machine.execReleaseAuthority p s
  | .setKey p key => Sys2Proof.Machine.execSetKey p key s
  | .setTime p sec us => Sys2Proof.Machine.execSetTime p sec us s
  | .step p amount => Sys2Proof.Machine.execStep p amount s
  | .slew p amount => Sys2Proof.Machine.execSlew p amount s
  | .cancelAdjust p => Sys2Proof.Machine.execCancelAdjust p s
  | .readAdjust p => Sys2Proof.Machine.execReadAdjust p s
  | .selectSource p sel => Sys2Proof.Machine.execSelectSource p sel s
  | .resumeReference p => Sys2Proof.Machine.execResumeReference p s
  | .readClock p => Sys2Proof.Machine.execReadClock p s
  | .clearBackup p => Sys2Proof.Machine.execClearBackup p s
  | .armEntry p f => Sys2Proof.Machine.execArmEntry p f s
  | .retimeEntry p index inst d late => Sys2Proof.Machine.execRetimeEntry p index inst d late s
  | .holdEntry p ix n => Sys2Proof.Machine.execHoldEntry p ix n s
  | .unholdEntry p ix n => Sys2Proof.Machine.execUnholdEntry p ix n s
  | .cancelEntry p ix n => Sys2Proof.Machine.execCancelEntry p ix n s
  | .readEntry p ix n => Sys2Proof.Machine.execReadEntry p ix n s
  | .listEntries p sc st => Sys2Proof.Machine.execListEntries p sc st s
  | .setQuota p t q => Sys2Proof.Machine.execSetQuota p t q s
  | .digest p sc ct => Sys2Proof.Machine.execDigest p sc ct s
  | .claimLine p l => Sys2Proof.Machine.execClaimLine p l s
  | .releaseLine p l => Sys2Proof.Machine.execReleaseLine p l s
  | .pinLine p l => Sys2Proof.Machine.execPinLine p l s
  | .configureLine p l idle w h => Sys2Proof.Machine.execConfigureLine p l idle w h s
  | .driveLine p l a => Sys2Proof.Machine.execDriveLine p l a s
  | .readLine p l => Sys2Proof.Machine.execReadLine p l s
  | .claimChannel p c => Sys2Proof.Machine.execClaimChannel p c s
  | .releaseChannel p c => Sys2Proof.Machine.execReleaseChannel p c s
  | .shareChannel p c f => Sys2Proof.Machine.execShareChannel p c f s
  | .configureChannel p c m e src l => Sys2Proof.Machine.execConfigureChannel p c m e src l s
  | .startChannel p c => Sys2Proof.Machine.execStartChannel p c s
  | .stopChannel p c => Sys2Proof.Machine.execStopChannel p c s
  | .setReload p c r => Sys2Proof.Machine.execSetReload p c r s
  | .readChannel p c => Sys2Proof.Machine.execReadChannel p c s
  | .subscribe p k a b ks l => Sys2Proof.Machine.execSubscribe p k a b ks l s
  | .unsubscribe p ix => Sys2Proof.Machine.execUnsubscribe p ix s
  | .takeRecord p => Sys2Proof.Machine.execTakeRecord p s
  | .readConditions p => Sys2Proof.Machine.execReadConditions p s
  | .ackConditions p c => Sys2Proof.Machine.execAckConditions p c s
  | .setMask p m => Sys2Proof.Machine.execSetMask p m s
  | .readResetCause p => Sys2Proof.Machine.execReadResetCause p s
  | .detach p => Sys2Proof.Machine.execDetach p s
  | .identify p => Sys2Proof.Machine.execIdentify p s
  | .badRequest p bs inc => Sys2Proof.Machine.execBadRequest p bs inc s
  | .fetch p n => Sys2Proof.Machine.execFetch p n s
  | .portReset p => Sys2Proof.Machine.execPortReset p s
  | .portLeavesResetHold p => Sys2Proof.Machine.execPortLeavesResetHold p s
  | .deviceReset => Sys2Proof.Machine.execDeviceReset s
  | .partLeavesReset straps => Sys2Proof.Machine.execPartLeavesReset straps s
  | .powerOnRetained straps => Sys2Proof.Machine.execPowerOnRetained straps s
  | .powerOnBackupLost straps => Sys2Proof.Machine.execPowerOnBackupLost straps s
  | .mainSupplyLoss => Sys2Proof.Machine.execMainSupplyLoss s
  | .backupSupplyLoss => Sys2Proof.Machine.execBackupSupplyLoss s
  | .backupSupplyReturn => Sys2Proof.Machine.execBackupSupplyReturn s
  | .timebaseAdvance part => Sys2Proof.Machine.execTimebaseAdvance part s
  | .slewBlockEnd part => Sys2Proof.Machine.execSlewBlockEnd part s
  | .slewEnd part => Sys2Proof.Machine.execSlewEnd part s
  | .referenceEdge gap => Sys2Proof.Machine.execReferenceEdge gap s
  | .windowEnd => Sys2Proof.Machine.execWindowEnd s
  | .referenceLoss => Sys2Proof.Machine.execReferenceLoss s
  | .pulseEnd l => Sys2Proof.Machine.execPulseEnd l s
  | .holdExpiry l => Sys2Proof.Machine.execHoldExpiry l s
  | .capturePinChange c level => Sys2Proof.Machine.execCapturePinChange c level s
  | .edgeTaken c => Sys2Proof.Machine.execEdgeTaken c s
  | .measurementOverflow c => Sys2Proof.Machine.execMeasurementOverflow c s
  | .counterExpiry c => Sys2Proof.Machine.execCounterExpiry c s
  | .digestExamineIndex => Sys2Proof.Machine.execDigestExamineIndex s

end Sys2Proof.Machine
end

