-- ==== Sys2Proof/Safety.lean ====
section
/-! DEFINITION. The words the statements about this model are written in: the parts of the state and what a command
leaves unchanged, the outcomes of a request at its port, and the properties that every step keeps. -/

namespace Sys2Proof.Machine

/-! ## Frames -/

/-- The parts of the state. -/
inductive Part where
  | backup
  | slew
  | monitor
  | authority
  | schedule
  | unfired
  | lines
  | channels
  | subs
  | digest
  | ports
  | pins
  | leaveCauses
  | freeCount
  | pending
  deriving DecidableEq, Repr

/-- A part is the same in two states. -/
def Part.same (s t : State) : Part → Prop
  | .backup => t.backup = s.backup
  | .slew => t.slew = s.slew
  | .monitor => t.monitor = s.monitor
  | .authority => t.authority = s.authority
  | .schedule => t.schedule = s.schedule
  | .unfired => t.unfired = s.unfired
  | .lines => t.lines = s.lines
  | .channels => t.channels = s.channels
  | .subs => t.subs = s.subs
  | .digest => t.digest = s.digest
  | .ports => t.ports = s.ports
  | .pins => t.pins = s.pins
  | .leaveCauses => t.leaveCauses = s.leaveCauses
  | .freeCount => t.freeCount = s.freeCount
  | .pending => t.pending = s.pending

/-- Of the first state, the second changes at most the parts named. -/
structure OnlyChanges (parts : List Part) (s t : State) : Prop where
  keeps : ∀ q, q ∉ parts → Part.same s t q

/-- A step answers a next state. -/
def Safe (s : State) : Prop := ∃ t, step s = .next t

/-! ## Requests at a port -/

/-- A port is READY, the transaction at it has not been abandoned, and no status byte told the master of it that the port is
EXECUTING: requests that reach it are taken (R178, R179). -/
def Ready (s : State) (p : Port) : Prop :=
  (s.port p).state = .ready ∧ (s.port p).transfer ≠ .abandoned ∧ (s.port p).transfer.saysExecuting = false

/-- A port is EXECUTING, or was so when it told the status byte of the transaction at it, which has not been abandoned:
request frames that reach it are discarded (R178 to R180). -/
def Discards (s : State) (p : Port) : Prop :=
  (s.port p).state = .executing ∧ (s.port p).transfer ≠ .abandoned ∨
    (s.port p).state = .ready ∧ (s.port p).transfer.saysExecuting = true

/-- A port is in RESET_HOLD, or a reset has abandoned the transaction at it: what reaches it is ignored (R178). -/
def Ignores (s : State) (p : Port) : Prop := (s.port p).state = .resetHold ∨ (s.port p).transfer = .abandoned

/-- A port's own unit after a request frame of n field bytes that leaves it a response: the slot is READY with it (R180),
MISO carried the status byte sampled as CS went low and then stayed high (R179), and the transaction is over. Nothing else
of the unit is touched. -/
def PortUnit.replied (u : PortUnit) (n : Nat) (r : Response) : PortUnit :=
  { u with slot := .ready r, miso := u.shownStatus :: List.replicate (n + 2) 0xFF, transfer := .idle }

/-- A port has its response, and the other ports are as they were. -/
def Replied (p : Port) (n : Nat) (r : Response) (s t : State) : Prop :=
  t.port p = (s.port p).replied n r ∧ ∀ q, q ≠ p → t.port q = s.port q

/-- A request refused with a status code: it has no fields, and nothing else changes (R180). -/
def Refused (p : Port) (n : Nat) (x : Status) (s t : State) : Prop :=
  OnlyChanges [.ports] s t ∧ Replied p n { status := x, fields := [] } s t

/-- A request answered OK that changes nothing but its port's slot. -/
def Reported (p : Port) (n : Nat) (fields : List Byte) (s t : State) : Prop :=
  OnlyChanges [.ports] s t ∧ Replied p n { status := .ok, fields := fields } s t

/-- One line replaced and the other lines as they were. -/
def LineBecomes (l : LineNo) (x : Line) (s t : State) : Prop := t.line l = x ∧ ∀ k, k ≠ l → t.line k = s.line k

/-- One channel replaced and the other channels as they were. -/
def ChannelBecomes (c : ChanNo) (x : Channel) (s t : State) : Prop :=
  t.channel c = x ∧ ∀ k, k ≠ c → t.channel k = s.channel k

/-- One index of the schedule table replaced and the other indices as they were. -/
def EntryBecomes (i : EntryIx) (e : Entry) (s t : State) : Prop := t.entry i = e ∧ ∀ j, j ≠ i → t.entry j = s.entry j

/-- One entry of the subscription table replaced and the others as they were. -/
def SubBecomes (i : SubIx) (x : Option Subscription) (s t : State) : Prop :=
  t.sub i = x ∧ ∀ j, j ≠ i → t.sub j = s.sub j

/-- One port unit replaced and the others as they were. -/
def PortBecomes (p : Port) (u : PortUnit) (s t : State) : Prop := t.port p = u ∧ ∀ q, q ≠ p → t.port q = s.port q

/-- The generations rise by so much each, the definition generation first (R71, R72). -/
def GenerationsRise (d f : Nat) (s t : State) : Prop :=
  t.schedule.defGen = s.schedule.defGen + BitVec.ofNat 32 d ∧ t.schedule.fullGen = s.schedule.fullGen + BitVec.ofNat 32 f

/-- A walk after the generations have risen by so much each: its changed mark is set where the one it watches rose
(R171). -/
def Walk.risen (d f : Nat) (w : Walk) : Walk :=
  { w with changed := w.changed || (match w.content with
      | .definition => decide (0 < d)
      | .full => decide (0 < f)) }

/-- A condition raised at a port where it is attached (R164). -/
def PortUnit.raisedIf (attached : Bool) (k : Condition) (u : PortUnit) : PortUnit := if attached then u.raise k else u

/-- Copies of records, each with its level, handed to a port's queue one after the other. -/
def PortUnit.stores (rs : List (Nat × Record)) (u : PortUnit) : PortUnit :=
  rs.foldl (fun v x => v.storeCopy { level := x.1, gap := false, record := x.2 }) u

/-- Copies handed to a port: discarded where it is not attached (R155). -/
def PortUnit.storesIf (attached : Bool) (rs : List (Nat × Record)) (u : PortUnit) : PortUnit :=
  if attached then u.stores rs else u

/-- The records of a discarded adjustment queue, in their order, each at level 3 (R54, R55). -/
def State.discardRecords (s : State) : List (Nat × Record) :=
  (s.authority.active.map fun a => (3, adjustDoneRecord a.number .cancelled (some s.slew.remaining) s.stamp)).toList ++
    (s.authority.waiting.map fun w => (3, adjustDoneRecord w.number .cancelled w.what.unbegun s.stamp)).toList

/-- The slew report after the queue is discarded (R58). -/
def State.discardReport (s : State) : Option SlewReport :=
  match s.authority.active with
  | some a => some { number := a.number, outcome := .cancelled, unapplied := s.slew.remaining }
  | none => s.authority.report

/-- The slew state after the queue is discarded (R15, R55). -/
def State.discardSlew (s : State) : SlewState := if s.authority.active.isSome then SlewState.idle else s.slew

/-- The SUB_ENDED records that go to a port when the subscriptions that satisfy a test end at an instant, in ascending
order of index (R159). -/
def State.endedRecords (s : State) (test : Subscription → Bool) (at' : Timestamp) (q : Port) : List (Nat × Record) :=
  (List.finRange 24).filterMap fun j =>
    match s.sub j with
    | some u => if test u = true ∧ u.subscriber = q then some (2, subEndedRecord j at') else none
    | none => none

/-- The subscriptions that satisfy a test are gone and the others as they were (R159). -/
def SubsEnd (test : Subscription → Bool) (s t : State) : Prop :=
  ∀ j, t.sub j = (match s.sub j with
    | some u => if test u then none else some u
    | none => none)

/-- A request queued behind the ACTIVE slew with the next adjustment number (R46, R47). -/
def Queued (p : Port) (n : Nat) (k : AdjustKind) (s t : State) : Prop :=
  OnlyChanges [.authority, .ports] s t ∧
    t.authority = { s.authority with
      waiting := some { number := s.authority.nextNumber, what := k }, nextNumber := s.authority.nextNumber + 1 } ∧
    Replied p n { status := .queued, fields := [s.authority.nextNumber] } s t

/-- A value applied at once (R50, R51): the count, the epoch, the range-held flag and the quality, TIME_STEPPED at every
attached port, and the response with the new epoch and a timestamp. What it does to the table is another statement. -/
def Applied (p : Port) (n value : Nat) (s t : State) : Prop :=
  OnlyChanges [.backup, .schedule, .lines, .subs, .digest, .ports] s t ∧
    t.backup = { s.backup with
      count := value, rangeHeld := false, epoch := s.backup.epoch + 1,
      quality := if s.backup.quality = .unset then
          (if s.backup.source = .reference ∧ s.monitor.state = .refGood then .tracking else .freeRun)
        else s.backup.quality } ∧
    (∀ q, s.attached q = true → (t.port q).holds .timeStepped = true) ∧
    (s.backup.quality = .unset → s.backup.source = .reference → s.monitor.state = .refGood →
      ∀ q, s.attached q = true → (t.port q).holds .trackingBegun = true) ∧
    (t.port p).slot = .ready { status := .ok, fields := bytesBE 2 t.backup.epoch.toNat ++ t.stamp.bytes } ∧
    (t.port p).miso = (s.port p).shownStatus :: List.replicate (n + 2) 0xFF ∧ (t.port p).transfer = .idle ∧
    ∀ q, (t.port q).state = (s.port q).state ∧ (t.port q).causes = (s.port q).causes ∧
      (t.port q).mask = (s.port q).mask ∧
      (q ≠ p → (t.port q).slot = (s.port q).slot ∧ (t.port q).transfer = (s.port q).transfer)

/-- The copy of a capture or FIRING record that goes to a port: one, at the highest of its levels as the owner's
destination and as a subscriber, or none (R153, R154). -/
def State.recordCopies (s : State) (src : SubSource) (owner : Option (Port × Nat)) (r : Record) (q : Port) :
    List (Nat × Record) :=
  let levels := (match owner with
      | some (o, l) => if o = q then [l] else []
      | none => []) ++
    (List.finRange 24).filterMap fun j => match s.sub j with
      | some u =>
        if u.subscriber = q ∧ u.source = src ∧ u.kinds.getLsbD r.kind.bit = true then some u.level else none
      | none => none
  (levels.max?.map fun l => (l, r)).toList

/-! ## Entries -/

/-- Whether a definition block has every field within the range that R61 gives it. -/
def blockInRange : DefBlock → Bool
  | .atTime s m => decide (s.toNat ≤ 3155759999 ∧ m.toNat ≤ 999999)
  | .every s m per => decide (s.toNat ≤ 3155759999 ∧ m.toNat ≤ 999999 ∧ 100 ≤ per.toNat)
  | .calendar mo d w h mi s o => decide (
      (mo = 0xFF ∨ 1 ≤ mo.toNat ∧ mo.toNat ≤ 12) ∧ (d = 0xFF ∨ 1 ≤ d.toNat ∧ d.toNat ≤ 31) ∧
      (w = 0xFF ∨ 1 ≤ w.toNat ∧ w.toNat ≤ 7) ∧ (h = 0xFF ∨ h.toNat ≤ 23) ∧ (mi = 0xFF ∨ mi.toNat ≤ 59) ∧
      (s = 0xFF ∨ s.toNat ≤ 59) ∧ o.toNat ≤ 999999)
  | .after c k _ pol => decide (c.toNat ≤ 7 ∧ k ≠ 0 ∧ k.getLsbD 7 = false ∧ pol.toNat ≤ 1)
  | .unknown _ => false

/-- Step 1 of R74. -/
def armAcceptable (f : ArmFields) : Bool :=
  blockInRange f.defn && decide (
    f.lateOk.toNat ≤ 1 ∧ (f.lateOk = 1 → f.defn.kind = 0) ∧
    (f.remaining.presence = 0 ∨ f.remaining.presence = 1 ∧ f.remaining.value ≠ 0 ∧ f.defn.kind ≠ 0) ∧
    (f.linePresence = 0 ∨ f.linePresence = 1 ∧ f.line.toNat < 16 ∧ f.action.toNat < 4) ∧
    (f.record.presence = 0 ∨ f.record.presence = 1 ∧ 1 ≤ f.record.value.toNat ∧ f.record.value.toNat ≤ 7) ∧
    f.shareable.toNat ≤ 1 ∧ f.keep.toNat ≤ 1 ∧ (f.linePresence = 1 ∨ f.record.presence = 1))

/-- What an entry holds after a firing, its next state being given, or none where it leaves its round (R102, R103). -/
def Body.afterFiring (b : Body) (run : Option RunState) (late : Bool) (missed : Nat) (stamp : Timestamp) : Option Body :=
  let fired : Body := { b with
    fireCount := min 65535 (b.fireCount + 1), remaining := b.remaining.map fun n => n - 1,
    last := some { stamp := stamp, late := late, missed := missed } }
  match run with
  | some r => some { fired with run := r }
  | none => if b.keep = true then some { fired with run := .spent } else none

/-- The next state by kind: on time where no late now is given, late at one otherwise (R91, R103, R105). -/
def Body.nextRun (b : Body) (late : Bool) (due now : Nat) : Option RunState :=
  if b.remaining.map (fun n => n - 1) = some 0 then none
  else match b.defn with
    | .atTime _ => none
    | .every a per => some (.armed (
        if late = false then due + per
        else if now < a then a
        else a + ((now - a) / per + 1) * per))
    | .calendar pat off => (nextMatch pat off now).map .armed
    | .after _ _ _ _ => some .waiting

/-- The entry i, holding b with the due time given, fires in the step from s to t: it, the generations, the walk in
progress, the lines and every port are as the firing leaves them (R99 to R103). The lines, the walk and the ports are
given as the rest of the step leaves them. Where the firing frees the entry, its subscriptions end in the firing if that is
whole, and at the end of its event if it is not (R159; log 27). -/
def Fires (whole : Bool) (i : EntryIx) (b : Body) (due : Nat) (late : Bool) (missed : Nat) (lines : LineNo → Line)
    (walk : Option Walk) (ports : Port → PortUnit) (s t : State) : Prop :=
  let stamp := t.stamp
  let inst := (s.entry i).inst
  let after := b.afterFiring (b.nextRun late due t.now) late missed stamp
  let ends := fun u : Subscription => whole && after.isNone && decide (u.source = .entry i inst)
  EntryBecomes i { inst := inst, body := after } s t ∧ t.schedule.quotas = s.schedule.quotas ∧
    (if after.isSome = true then GenerationsRise 0 1 s t ∧ t.digest = walk.map (Walk.risen 0 1)
      else GenerationsRise 1 2 s t ∧ t.digest = walk.map (Walk.risen 1 2)) ∧
    SubsEnd ends s t ∧
    (∀ l, t.line l = match b.line with
      | some y => if y.1 = l then { lines l with
          drive := (lines l).actedOn y.2,
          last := some { source := .firing i inst, action := y.2, stamp := stamp } } else lines l
      | none => lines l) ∧
    ∀ q, t.port q = (ports q).storesIf (s.attached q)
      (s.recordCopies (.entry i inst) (b.record.map fun l => (b.owner, l))
          { kind := .firing, late := late, source := .entry i inst, stamp := stamp, value := b.tag.toNat,
            due := if due = stamp.time then none else some due,
            missed := if missed = 0 then none else some missed, remaining := none } q ++
        s.endedRecords ends stamp q)

/-- The three steps of R64 for a handle that a request with the owner check names; what follows where they pass. -/
def OwnedHandle (p : Port) (n : Nat) (index inst : Byte) (s t : State) (go : EntryIx → Body → Prop) : Prop :=
  if h : index.toNat < 64 then
    match (s.entry ⟨index.toNat, h⟩).body with
    | none => Refused p n .notFound s t
    | some b =>
      if (s.entry ⟨index.toNat, h⟩).inst ≠ inst then Refused p n .notFound s t
      else if b.owner ≠ p then Refused p n .notOwner s t
      else go ⟨index.toNat, h⟩ b
  else Refused p n .badArg s t

/-- The entry i becomes e, and the generations rise by so much each, as the walk that watches them notes (R71, R72). -/
def EntrySet (i : EntryIx) (e : Entry) (d f : Nat) (s t : State) : Prop :=
  EntryBecomes i e s t ∧ t.schedule.quotas = s.schedule.quotas ∧ GenerationsRise d f s t ∧
    t.digest = s.digest.map (Walk.risen d f)

/-- A request answered OK that changes one entry, the generations and its port's slot alone. -/
def EntryAnswered (p : Port) (n : Nat) (i : EntryIx) (e : Entry) (d f : Nat) (fields : List Byte) (s t : State) : Prop :=
  OnlyChanges [.schedule, .digest, .ports] s t ∧ EntrySet i e d f s t ∧
    Replied p n { status := .ok, fields := fields } s t

/-- A request answered OK that gives the entry i the body b and fires it late in the same event (R76, R78, R108). -/
def FiresAtOnce (p : Port) (n : Nat) (i : EntryIx) (inst : BitVec 8) (b : Body) (d f due missed : Nat)
    (fields : List Byte) (s t : State) : Prop :=
  OnlyChanges [.schedule, .lines, .subs, .digest, .ports] s t ∧
    ∃ u, OnlyChanges [.schedule, .digest] s u ∧ EntrySet i { inst := inst, body := some b } d f s u ∧
      Fires true i b due true missed u.line u.digest
        (fun q => if q = p then (s.port p).replied n { status := .ok, fields := fields } else s.port q) u t

/-- The missed count of a resolution at an instant (R106). -/
def Body.missedAt (b : Body) (due now : Nat) : Nat :=
  match b.defn with
  | .atTime _ => 0
  | .every _ per => min 65535 ((now - due) / per)
  | .calendar pat off => countMatches pat off now 65535 due
  | .after _ _ _ _ => 0

/-- The entries ARMED for an instant, in ascending order of index. -/
def State.dueAt (s : State) (due : Nat) : List EntryIx :=
  (List.finRange 64).filter fun i => decide ((s.entry i).armedDue = some due)

/-- The entries ARMED for an instant before now, in ascending order of index: those of the value that an advance has passed
over, while its firings are left (R98; log 30). -/
def State.passed (s : State) : List EntryIx :=
  (List.finRange 64).filter fun i => (s.entry i).armedDue.any fun d => decide (d < s.now)

/-- The entries ARMED for now or before it, in ascending order of index. -/
def State.overdue (s : State) : List EntryIx :=
  (List.finRange 64).filter fun i => (s.entry i).armedDue.any fun d => decide (d ≤ s.now)

/-- What is given for each of a list happens one after the other from s to t, each from the state that the one before it
left. -/
def InOrder {α : Type} (happens : α → State → State → Prop) : List α → State → State → Prop
  | [], s, t => t = s
  | x :: rest, s, t => ∃ u, happens x s u ∧ InOrder happens rest u t

/-- The entries named fire one after the other from s to t: on time, each firing whole, or late with the missed count of
now, as parts of one event; nothing else changes (R98, R99, R105 to R107). -/
def FiresInOrder (late : Bool) : List EntryIx → State → State → Prop :=
  InOrder fun i s t => ∃ b due, (s.entry i).body = some b ∧ b.run = .armed due ∧
    OnlyChanges [.schedule, .lines, .subs, .digest, .ports] s t ∧
    Fires (!late) i b due late (if late = true then b.missedAt due s.now else 0) s.line s.digest s.port s t

/-- Whether a subscription's source is an entry that has been freed from s to t. -/
def State.freedUntil (s t : State) (u : Subscription) : Bool :=
  match u.source with
  | .entry i inst => decide ((s.entry i).inst = inst) && (s.entry i).body.isSome && (t.entry i).body.isNone
  | .channel _ => false

/-- The subscriptions to the entries that one event has freed, from s to t, end from t to u: in ascending order of index,
each with its record; nothing else changes (R159). -/
def FreedEnd (s t u : State) : Prop :=
  OnlyChanges [.subs, .ports] t u ∧ SubsEnd (s.freedUntil t) t u ∧
    ∀ q, u.port q = (t.port q).storesIf (t.attached q) (t.endedRecords (s.freedUntil t) t.stamp q)

/-- Nothing fires, and every CALENDAR entry that is ARMED or held from ARMED has its due time found again from now, each of
them raising the full generation (R72, R110). One that has no match left keeps the due time it had (the model's choice,
log 22). One that a passed-over value has left ARMED for the new now is found again as the others are (the model's choice,
log 31). -/
def Recomputed (s t : State) : Prop :=
  let found := ((List.finRange 64).filter fun i => (s.entry i).body.any fun b =>
    decide (b.defn.code = 2) && b.run.due.isSome).length
  OnlyChanges [.schedule, .digest] s t ∧ t.schedule.quotas = s.schedule.quotas ∧ GenerationsRise 0 found s t ∧
    t.digest = s.digest.map (Walk.risen 0 found) ∧
    ∀ i, t.entry i = { inst := (s.entry i).inst, body := (s.entry i).body.map (fun b =>
      match b.defn with
      | .calendar pat off => { b with run := (match b.run with
          | .armed d => .armed ((nextMatch pat off s.now).getD d)
          | .heldArmed d => .heldArmed ((nextMatch pat off s.now).getD d)
          | .waiting => .waiting
          | .heldWaiting => .heldWaiting
          | .spent => .spent) }
      | .atTime _ => b
      | .every _ _ => b
      | .after _ _ _ _ => b) }

/-- What follows, from s, which has it already, a value applied where the count was the old one: overdue entries are
resolved in ascending order of index at or after the old count, and the subscriptions to those freed end together; the due
times of CALENDAR entries are found again before it; then TIME_STEPPED is raised at every attached port, and the records
given go to the holder (R50, R54, R107, R110, R159). -/
def Stepped (old : Nat) (records : List (Nat × Record)) (s t : State) : Prop :=
  ∃ u, (if old ≤ s.now then ∃ v, FiresInOrder true s.overdue s v ∧ FreedEnd s v u else Recomputed s u) ∧
    OnlyChanges [.ports] u t ∧
    ∀ q, t.port q = ((u.port q).raisedIf (s.attached q) .timeStepped).storesIf
      (decide (s.authority.holder = some q) && s.attached q) records

/-- The ACTIVE slew a ends from s to t with so much unapplied: it leaves ACTIVE with its report, and its ADJUST_DONE goes to
the holder. A slew that waits becomes ACTIVE and begins, or ends at once with its full amount unapplied while the range is
held; a SET or STEP that waits is applied to the time, or leaves with RANGE, with its own ADJUST_DONE (R16, R53, R54,
R58). -/
def SlewEnds (a : ActiveSlew) (unapplied : Nat) (s t : State) : Prop :=
  let idle : SlewState := { direction := .none, remaining := 0, blockElapsed := 0 }
  let reported := fun (number : BitVec 8) (left : Nat) =>
    { s.authority with
      active := none, waiting := none,
      report := some { number := number, outcome := .completed, unapplied := left } }
  let done := fun (number : BitVec 8) (outcome : AdjustOutcome) (at' : Timestamp) =>
    [(3, adjustDoneRecord number outcome none at')]
  let stored := fun (more : List (Nat × Record)) (q : Port) =>
    (s.port q).storesIf (decide (s.authority.holder = some q) && s.attached q) (done a.number .completed s.stamp ++ more)
  let ends := fun (x : Authority) (y : SlewState) (more : List (Nat × Record)) =>
    OnlyChanges [.slew, .authority, .ports] s t ∧ t.authority = x ∧ t.slew = y ∧ ∀ q, t.port q = stored more q
  match s.authority.waiting with
  | none => ends (reported a.number unapplied) idle []
  | some w =>
    let applied := fun target : Int =>
      if 0 ≤ target ∧ target ≤ 3155759999999999 then
        ∃ u, OnlyChanges [.backup, .slew, .authority, .ports] s u ∧
          u.authority = reported a.number unapplied ∧ u.slew = idle ∧ (∀ q, u.port q = stored [] q) ∧
          u.backup = { s.backup with
            count := target.toNat, rangeHeld := false, epoch := s.backup.epoch + 1 } ∧
          Stepped s.now (done w.number .completed u.stamp) u t
      else ends (reported a.number unapplied) idle (done w.number .range s.stamp)
    match w.what with
    | .slew n =>
      if s.backup.rangeHeld = true then
        ends (reported w.number n.natAbs) idle (done w.number .completed s.stamp)
      else
        ends { reported a.number unapplied with active := some { number := w.number, amount := n } }
          { direction := if 0 ≤ n then .positive else .negative, remaining := n.natAbs, blockElapsed := 0 } []
    | .set target => applied target
    | .step n => applied ((s.now : Int) + n)

/-- Both generations as a response carries them (R193). -/
def State.bothGenerations (t : State) : List Byte :=
  bytesBE 4 t.schedule.defGen.toNat ++ bytesBE 4 t.schedule.fullGen.toNat

/-- The state code and the due time of an entry as a response carries them, with held_from where it is asked for; a FREE
entry has state 0 and no due time (R187, R193). -/
def State.shownEntry (t : State) (i : EntryIx) (heldFrom : Bool) : List Byte :=
  match (t.entry i).body with
  | none => 0 :: (if heldFrom then [0] else []) ++ List.replicate 8 0
  | some b => byteOf b.run.code :: (if heldFrom then [byteOf b.run.heldFrom] else []) ++
      match b.run.due with
      | none => List.replicate 8 0
      | some d => 1 :: bytesBE 4 (d / 1000000) ++ bytesBE 3 (d % 1000000)

/-! ## Capture records -/

/-- No AFTER entry and no counting channel acts on the records of a channel. -/
def Unheard (c : ChanNo) (s : State) : Prop :=
  (∀ i b, (s.entry i).body = some b → b.namesChannel c = false) ∧ ∀ d, (s.channel d).source ≠ .channel c

/-- A capture record as a channel produces it (R142). -/
def State.captured (s : State) (c : ChanNo) (k : RecordKind) (value : Nat) : Record :=
  { kind := k, late := false, source := .number c.val, stamp := s.stamp, value := value, due := none, missed := none,
    remaining := none }

/-- The copy of a channel's capture record that goes to a port: to the owner at the record level, and to the subscribers
(R142, R154). -/
def State.captureCopies (s : State) (c : ChanNo) (k : RecordKind) (value : Nat) (q : Port) : List (Nat × Record) :=
  s.recordCopies (.channel c) ((s.channel c).owner.map fun p => (p, (s.channel c).level)) (s.captured c k value) q

/-- Whether a capture record of a channel acts on an entry: an AFTER entry of that channel with that trigger kind, WAITING,
or ARMED under RESTART (R94, R96). -/
def Body.takesRecord (c : ChanNo) (k : RecordKind) (b : Body) : Bool :=
  match b.defn with
  | .after ch kinds _ pol => decide (ch = c) && kinds.getLsbD k.bit &&
      (decide (b.run = .waiting) || b.run.due.isSome && decide (b.run.code = 2 ∧ pol = .restart))
  | .atTime _ => false
  | .every _ _ => false
  | .calendar _ _ => false

/-- The delay of an AFTER entry (R61). -/
def Body.delay (b : Body) : Nat :=
  match b.defn with
  | .after _ _ d _ => d
  | .atTime _ => 0
  | .every _ _ => 0
  | .calendar _ _ => 0

/-- A capture record acts on the entry i: it is ARMED for now plus its delay, and fires in the same event with a delay of
0, unless the range is held (R95, R96, R113). -/
def RecordActs (i : EntryIx) (s t : State) : Prop :=
  ∃ b, (s.entry i).body = some b ∧
    let armed : Body := { b with run := .armed (s.backup.count + b.delay) }
    let set := fun u => OnlyChanges [.schedule, .digest] s u ∧
      EntrySet i { inst := (s.entry i).inst, body := some armed } 0 1 s u
    if b.delay = 0 ∧ s.backup.rangeHeld = false then
      ∃ u, set u ∧ OnlyChanges [.schedule, .lines, .digest, .ports] u t ∧
        Fires false i armed s.backup.count false 0 u.line u.digest u.port u t
    else set t

/-- The entries that a capture record acts on, in ascending order of index (R94). -/
def State.actedOn (s : State) (c : ChanNo) (k : RecordKind) : List EntryIx :=
  (List.finRange 64).filter fun i => (s.entry i).body.any (Body.takesRecord c k)

/-- The channels that count a capture record, in ascending order: RUNNING in COUNT mode with the channel as their count
source, and of its owner or the channel shareable; no OVERFLOW is counted (R142, R148). -/
def State.counters (s : State) (c : ChanNo) (k : RecordKind) : List ChanNo :=
  (List.finRange 8).filter fun d => decide (k ≠ .overflow ∧ (s.channel d).running = true ∧ (s.channel d).mode = .count ∧
    (s.channel d).source = .channel c ∧ ((s.channel d).owner = (s.channel c).owner ∨ (s.channel c).shareable = true))

/-- A capture record of a channel is handed on from s to t: to its owner and its subscribers, to the entries it acts on, and
to each channel that counts it, whose EXPIRY, if its counter reaches 0, is handed on in the same way before the next one
counts (R142, R147, R148). The number bounds the channels it passes through. -/
def HandedOn : Nat → ChanNo → RecordKind → Nat → State → State → Prop
  | 0, _, _, _, s, t => t = s
  | n + 1, c, k, value, s, t => ∃ u v, OnlyChanges [.ports] s u ∧
      (∀ q, u.port q = (s.port q).storesIf (s.attached q) (s.captureCopies c k value q)) ∧
      InOrder RecordActs (s.actedOn c k) u v ∧
      InOrder (fun d x y =>
        let old := x.channel d
        if 1 < old.counter then
          OnlyChanges [.channels] x y ∧ ChannelBecomes d { old with counter := old.counter - 1 } x y
        else ∃ w, OnlyChanges [.channels] x w ∧ ChannelBecomes d { old with counter := old.reload } x w ∧
          HandedOn n d .expiry old.reload w y) (s.counters c k) v t

/-- A channel becomes x and produces a record, which is handed on through at most eight channels, all in one event; then the
subscriptions to the entries that this event has freed end (R94, R142, R148, R159). -/
def Produces (c : ChanNo) (x : Channel) (k : RecordKind) (value : Nat) (s t : State) : Prop :=
  ∃ u v, OnlyChanges [.channels] s u ∧ ChannelBecomes c x s u ∧ HandedOn 8 c k value u v ∧ FreedEnd u v t

/-- A channel becomes x and no record is produced; nothing else changes. -/
def ChannelOnly (c : ChanNo) (x : Channel) (s t : State) : Prop :=
  OnlyChanges [.channels] s t ∧ ChannelBecomes c x s t

/-- A channel becomes x and produces one record, which goes to its owner and its subscribers; nothing else changes. -/
def ChannelRecords (c : ChanNo) (x : Channel) (k : RecordKind) (value : Nat) (s t : State) : Prop :=
  OnlyChanges [.channels, .ports] s t ∧ ChannelBecomes c x s t ∧
    ∀ q, t.port q = (s.port q).storesIf (s.attached q) (s.captureCopies c k value q)

/-! ## Resets -/

/-- Whether a port owns the source of a subscription as it stands. -/
def State.ownsSource (s : State) (p : Port) : SubSource → Bool
  | .channel c => decide ((s.channel c).owner = some p)
  | .entry j inst => decide ((s.entry j).inst = inst) && (s.entry j).body.any fun b => decide (b.owner = p)

/-- Everything a port holds is given up in the step from s to t, and its own unit becomes u (R86, R129, R130, R151, R159,
R169, R182). The other ports receive SUB_ENDED for their subscriptions to what it owned, in ascending order of index, and
AUTHORITY_CHANGED where it held the authority. -/
def GivesUp (p : Port) (u : PortUnit) (s t : State) : Prop :=
  let owned := (List.finRange 64).filter fun i => (s.entry i).body.any fun b => decide (b.owner = p)
  (∀ i, t.entry i = if i ∈ owned then { inst := (s.entry i).inst, body := none } else s.entry i) ∧
  t.schedule.quotas = s.schedule.quotas ∧ GenerationsRise owned.length owned.length s t ∧
  (∀ l, t.line l = if (s.line l).owner = some p ∧ (s.line l).pinned = false
    then { s.line l with owner := none, drive := .idle, last := none } else s.line l) ∧
  (∀ c, t.channel c = if (s.channel c).owner = some p
    then { s.channel c with owner := none, shareable := false, running := false, measuring := none,
                            counter := (s.channel c).reload } else s.channel c) ∧
  SubsEnd (fun x => decide (x.subscriber = p) || s.ownsSource p x.source) s t ∧
  (if s.authority.holder = some p then t.slew = s.discardSlew ∧ t.authority =
      { s.authority with holder := none, active := none, waiting := none, report := s.discardReport }
    else t.slew = s.slew ∧ t.authority = s.authority) ∧
  t.digest = (s.digest.filter fun w => decide (w.requester ≠ p)).map (Walk.risen owned.length owned.length) ∧
  t.port p = u ∧
  ∀ q, q ≠ p → t.port q =
    ((s.port q).storesIf (s.attached q)
      (s.endedRecords (fun x => s.ownsSource p x.source) s.stamp q)).raisedIf
      (decide (s.authority.holder = some p) && s.attached q) .authorityChanged

/-- The main domain while it is without power or held in reset: every value at its reset value and no port attached
(R87, R131, R152, R170, R177, R185; that every port is then in RESET_HOLD is the model's choice, log 9, as MISO's being
empty, log 21, and the hold's beginning as the reset is taken, log 15, are). No transaction is in progress but one that the
port ignores. -/
structure HeldInReset (t : State) : Prop where
  slew : t.slew = { direction := .none, remaining := 0, blockElapsed := 0 }
  monitor : t.monitor = { state := .refOff, windowCount := 0, lastError := none, elapsed := 0, edgeSeen := false,
                          cycles := 0, measured := 0, sinceEdge := 0 }
  authority : t.authority = { holder := none, active := none, waiting := none, nextNumber := 0, report := none }
  entries : ∀ i, t.entry i = { inst := 0, body := none }
  generations : t.schedule.defGen = 0 ∧ t.schedule.fullGen = 0
  quotas : ∀ p, t.schedule.quotas.get p = 16
  unfired : t.unfired = false
  lines : ∀ l, t.line l = { owner := none, pinned := false, idleLevel := .low, width := 10, holdLimit := 0,
                            drive := .idle, last := none }
  channels : ∀ c, t.channel c = { owner := none, shareable := false, mode := .stamp, edge := .rise, source := .ownPin,
                                  reload := 1, counter := 1, level := 1, running := false, measuring := none,
                                  filtered := .low, qualification := .none }
  subs : ∀ j, t.sub j = none
  digest : t.digest = none
  ports : ∀ p, t.port p = { state := .resetHold, slot := .empty, causes := 0, queue := [], gapPending := false,
                            conditions := 0, mask := 0, miso := [], transfer := (t.port p).transfer }
  broken : ∀ p, (t.port p).transfer = .idle ∨ (t.port p).transfer = .abandoned

/-- The main domain as the part leaves reset with these straps and causes: at its reset values, but for the filtered
levels, which are the pins', the ports, the holder and the monitor (R38, R39, R133, R183, R185), and RANGE_END where the
range is held (R19, R21). -/
structure LeftReset (straps : BitVec 3) (causes : BitVec 5) (t : State) : Prop where
  slew : t.slew = { direction := .none, remaining := 0, blockElapsed := 0 }
  monitor : t.monitor = { state := if t.backup.source = .reference then .refAbsent else .refOff, windowCount := 0,
                          lastError := none, elapsed := 0, edgeSeen := false, cycles := 0, measured := 0,
                          sinceEdge := 0 }
  authority : t.authority = { holder := (List.finRange 4).find? fun p =>
                                decide (p.val = straps.toNat) && decide (t.pins.prst.get p = .high),
                              active := none, waiting := none, nextNumber := 0, report := none }
  entries : ∀ i, t.entry i = { inst := 0, body := none }
  generations : t.schedule.defGen = 0 ∧ t.schedule.fullGen = 0
  quotas : ∀ p, t.schedule.quotas.get p = 16
  unfired : t.unfired = false
  lines : ∀ l, t.line l = { owner := none, pinned := false, idleLevel := .low, width := 10, holdLimit := 0,
                            drive := .idle, last := none }
  channels : ∀ c, t.channel c = { owner := none, shareable := false, mode := .stamp, edge := .rise, source := .ownPin,
                                  reload := 1, counter := 1, level := 1, running := false, measuring := none,
                                  filtered := t.pins.cap.get c, qualification := .none }
  subs : ∀ j, t.sub j = none
  digest : t.digest = none
  ports : ∀ p, t.port p = { state := if t.pins.prst.get p = .high then .ready else .resetHold, slot := .empty,
                            causes := causes, queue := [], gapPending := false,
                            conditions := if t.pins.prst.get p = .high ∧ t.backup.rangeHeld = true then 2 else 0,
                            mask := 0, miso := [], transfer := (t.port p).transfer }
  broken : ∀ p, (t.port p).transfer = .idle ∨ (t.port p).transfer = .abandoned
  causesAdded : t.leaveCauses = 0

/-- The part runs, no firing of an advance is left, no event of its own clocks is due, and of the events named none is due
once the next device microsecond has been counted: each of them, taken then, would change nothing. -/
def Quiet (first : List DueEvent) (s : State) : Prop :=
  s.running = true ∧ s.unfired = false ∧ (∀ d, s.takeDue d = s) ∧ ∀ d ∈ first, s.countTimers.takeDue d = s.countTimers

/-- The parts that count device microseconds have counted one (R3). -/
def CountedOne (s t : State) : Prop :=
  (∀ l, t.line l = { s.line l with drive := (s.line l).drive.counted }) ∧
  (∀ c, t.channel c = (s.channel c).tick) ∧
  t.monitor = s.monitor.tick ∧
  t.digest = s.digest.map fun w => { w with elapsed := w.elapsed + 1 }

/-! ## Properties that every step keeps -/

/-- Every event queue holds at most 32 copies, ordered by level, highest first (R160). -/
def QueuesOrdered (s : State) : Prop :=
  ∀ p, (s.port p).queue.length ≤ 32 ∧ (s.port p).queue.Pairwise fun a b => b.level ≤ a.level

/-- A port in RESET_HOLD holds nothing, and ignores a transaction in progress (R169, R178, R182); it holds no authority
(R39, R45); a port is EXECUTING exactly while the walk in progress is its own, and its slot is PENDING exactly then (R172,
R178, R180). While the part has no power or is held in reset every port is in RESET_HOLD (R185; log 9). A slot sampled as CS
went low is the port's slot still, but for one that was PENDING when the walk had not ended (R181; log 9), and the status
byte sampled with it says EXECUTING exactly where it was PENDING (R179, R188). -/
def PortsConsistent (s : State) : Prop :=
  (∀ p, (s.port p).state = .resetHold →
      (s.port p).cleared = s.port p ∧ s.authority.holder ≠ some p) ∧
  (∀ p, (s.port p).state = .executing ↔ ∃ w, s.digest = some w ∧ w.requester = p) ∧
  (∀ p, (s.port p).slot = .pending ↔ (s.port p).state = .executing) ∧
  (s.running = false → ∀ p, (s.port p).state = .resetHold) ∧
  ∀ p status slot, (s.port p).transfer = .begun status slot →
    (slot = (s.port p).slot ∨ slot = .pending ∧ (s.port p).slot ≠ .empty) ∧
      (status.getLsbD 2 = true ↔ slot = .pending)

/-- The count is within the range, 0 with epoch 0 and no held range while the quality is UNSET, and at the end of range
while the range is held (R1, R5, R7, R16). -/
def TimeInRange (b : Backup) : Prop :=
  b.count ≤ Config.endOfRange ∧ (b.quality = .unset → b.count = 0 ∧ b.epoch = 0 ∧ b.rangeHeld = false) ∧
    (b.rangeHeld = true → b.count = Config.endOfRange)

/-- A slew is ACTIVE exactly while the timebase has a direction, with something of it remaining and less than a block
counted; then the quality is not UNSET, the range is not held and a port holds the authority. WAITING is occupied only
behind it (R1, R14, R46). -/
def SlewConsistent (s : State) : Prop :=
  (s.authority.active.isSome = true ↔ s.slew.direction ≠ .none) ∧
  (s.slew.direction = .none → s.slew.remaining = 0 ∧ s.slew.blockElapsed = 0) ∧
  (s.slew.direction ≠ .none → 0 < s.slew.remaining ∧ s.slew.remaining ≤ 1000000 ∧ s.slew.blockElapsed < 1000 ∧
      s.backup.quality ≠ .unset ∧ s.backup.rangeHeld = false ∧ s.authority.holder.isSome = true) ∧
  (s.authority.waiting.isSome = true → s.authority.active.isSome = true)

/-- The amount of a WAITING slew is within R52's range, so that it can begin. -/
def WaitingSlewInRange (s : State) : Prop :=
  ∀ w, s.authority.waiting = some w → ∀ a, w.what = .slew a → 1 ≤ a.natAbs ∧ a.natAbs ≤ 1000000

/-- The timebase and the adjustment queue are consistent. -/
def TimeConsistent (s : State) : Prop := TimeInRange s.backup ∧ SlewConsistent s ∧ WaitingSlewInRange s

/-- The monitor's state and count go together, it watches the reference only where that is the selection, and the quality
is TRACKING only while it is REF_GOOD, and HOLDOVER only with that selection (R25, R33, R36); a part that does not run has
it in REF_OFF (R38; log 15). No more than two device microseconds end without an edge before the loss is taken (R30; log
10), and none is counted in REF_OFF and REF_ABSENT (log 26). -/
def SupervisorConsistent (s : State) : Prop :=
  (s.monitor.state ≠ .refOff → s.backup.source = .reference ∧ s.running = true) ∧
  (s.monitor.state = .refOff → s.monitor.lastError = none) ∧
  (s.monitor.state = .refOff ∨ s.monitor.state = .refAbsent → s.monitor.windowCount = 0 ∧ s.monitor.sinceEdge = 0) ∧
  s.monitor.sinceEdge ≤ 2 ∧
  (s.monitor.state = .refQualifying → s.monitor.windowCount ≤ 15) ∧
  (s.monitor.state = .refGood → s.monitor.windowCount = 16) ∧
  (s.backup.quality = .tracking → s.monitor.state = .refGood) ∧
  (s.backup.quality = .holdover → s.backup.source = .reference)

/-- A due time that an entry's definition allows: an AT entry's is its target (R89), an EVERY entry's a point of its grid
(R88). -/
def Definition.allows (d : Definition) (due : Nat) : Prop :=
  match d with
  | .atTime t => due = t
  | .every a p => ∃ k, due = a + k * p
  | .calendar _ _ => True
  | .after _ _ _ _ => True

/-- What holds of an entry that is not FREE (R60, R61, R62, R65, R88). -/
structure Body.Consistent (b : Body) : Prop where
  acts : b.line.isSome = true ∨ b.record.isSome = true
  dueAllowed : ∀ d, b.run.due = some d → b.defn.allows d
  waits : b.run = .waiting ∨ b.run = .heldWaiting → ∃ c k d pol, b.defn = .after c k d pol
  period : ∀ a p, b.defn = .every a p → 100 ≤ p
  single : b.defn.isAt = true → b.remaining = none
  counted : b.remaining = some 0 → b.run = .spent
  kept : b.run = .spent → b.keep = true
  fires : b.fireCount ≤ 65535

/-- Every entry that is not FREE is consistent, and the quality is then not UNSET and the part runs (R22, R65, R74, R87). -/
def TableConsistent (s : State) : Prop :=
  ∀ i b, (s.entry i).body = some b → b.Consistent ∧ s.backup.quality ≠ .unset ∧ s.running = true

/-- An ARMED entry's due time lies after now. While the range is held it may lie at the held value or beyond, and while the
firings of the latest advance are left it may be a value which that advance has reached: now, or the value passed over
(R88, R98, R113; log 30). -/
def DueAhead (s : State) : Prop :=
  ∀ i d, (s.entry i).armedDue = some d →
    (s.backup.rangeHeld = false → if s.unfired = true then s.now ≤ d + 1 else s.now < d) ∧
    (s.backup.rangeHeld = true → Config.endOfRange ≤ d)

/-- What a line holds by its owner and its drive state (R114). -/
structure Line.Consistent (x : Line) : Prop where
  pinnedOwned : x.pinned = true → x.owner ≠ none
  unownedIdle : x.owner = none → x.drive = .idle ∧ x.last = none
  widthRange : 1 ≤ x.width ∧ x.width ≤ 65535
  limitRange : x.holdLimit ≤ 65535
  pulse : ∀ n, x.drive = .pulsing n → n ≤ x.width
  hold : ∀ n, x.drive = .held (some n) → x.holdLimit ≠ 0 ∧ n ≤ x.holdLimit * 1000
  unlimited : x.drive = .held none → x.holdLimit = 0

/-- Every line is consistent, and is owned by the owner of every entry that names it (R61, R114, R115). -/
def LinesConsistent (s : State) : Prop :=
  (∀ l, (s.line l).Consistent) ∧
  ∀ i b x, (s.entry i).body = some b → b.line = some x → (s.line x.1).owner = some b.owner

/-- What a channel holds (R132). -/
structure Channel.Consistent (x : Channel) (c : ChanNo) : Prop where
  unowned : x.owner = none → x.running = false ∧ x.shareable = false
  reloadRange : 1 ≤ x.reload ∧ x.reload ≤ 65535
  counterRange : 1 ≤ x.counter ∧ x.counter ≤ 65535
  levelRange : 1 ≤ x.level ∧ x.level ≤ 7
  sourceBelow : ∀ d, x.source = .channel d → d.val < c.val
  phase : x.measuring.isSome = true → x.running = true ∧ (x.mode = .period ∨ x.mode = .width)

/-- Every channel is consistent, and is owned by the owner of every AFTER entry it is the source of (R61, R132, R134). -/
def ChannelsConsistent (s : State) : Prop :=
  (∀ c, (s.channel c).Consistent c) ∧
  ∀ i b c, (s.entry i).body = some b → b.namesChannel c = true → (s.channel c).owner = some b.owner

/-- Every subscription in use names a source that stands and that its subscriber owns or that is shareable, and its
subscriber is attached (R156, R169). -/
def SubsConsistent (s : State) : Prop :=
  ∀ i u, s.sub i = some u →
    s.attached u.subscriber = true ∧ 1 ≤ u.level ∧ u.level ≤ 7 ∧
      match u.source with
      | .channel c => (s.channel c).owner = some u.subscriber ∨ (s.channel c).shareable = true
      | .entry j inst => (s.entry j).inst = inst ∧
          ∃ b, (s.entry j).body = some b ∧ (b.owner = u.subscriber ∨ b.shareable = true)

end Sys2Proof.Machine
end

