-- ==== Sys2Proof/Certificates/Slice0/Obligations.lean ====
section
/-! DEFINITION. The statements for the provers. Each request's statement follows the order in which its rule decides it, and
gives the response, what changes, and that nothing else does. -/

open Sys2Proof Sys2Proof.Machine

/-! ## The queue of commands, transactions and frames -/

/-- A step takes the command at the front of the queue and runs it on the state with the rest of the queue; with an empty
queue it changes nothing (the model's choice, log 2). -/
def Obligations.StepRunsFrontCommand : Prop :=
  (∀ (c : Instr) (s : State) (rest : List Instr), step (s.withPending (c :: rest)) = exec c (s.withPending rest)) ∧
  ∀ s : State, s.pending = [] → step s = .next s

/-- Every command answers a next state in every state, and leaves the queue of commands as it found it. -/
def Obligations.CommandsAnswerAndKeepQueue : Prop :=
  ∀ (c : Instr) (s : State), ∃ t, exec c s = .next t ∧ t.pending = s.pending

/-- A request that reaches an EXECUTING port is discarded, and so is one whose status byte told the master EXECUTING,
whether or not the walk has ended since; one that reaches a port in RESET_HOLD is ignored, as is one whose transaction
a reset has abandoned: MISO alone shows the transaction, which is then over (R178 to R180; an abandoned one shows 0xFF
throughout, the model's choice, log 9). The status byte thus tells whether a request frame will be discarded (R179). -/
def Obligations.RequestsLostAtBusyOrHeldPort : Prop :=
  ∀ (i : Instr) (code : Byte) (f : List Byte) (s : State), i.requestBytes = some (code, f) →
    (Discards s i.port →
      ∃ t, exec i s = .next t ∧ OnlyChanges [.ports] s t ∧
        PortBecomes i.port { s.port i.port with
          miso := (s.port i.port).shownStatus :: List.replicate (f.length + 2) 0xFF, transfer := .idle } s t) ∧
    (Ignores s i.port →
      ∃ t, exec i s = .next t ∧ OnlyChanges [.ports] s t ∧
        PortBecomes i.port { s.port i.port with
          miso := List.replicate (f.length + 3) 0xFF, transfer := .idle } s t) ∧
    (PortsConsistent s → ¬Ignores s i.port →
      (Discards s i.port ↔ (s.port i.port).shownStatus.getLsbD 2 = true))

/-- The frame of every well-formed request passes the frame checks as that request, every operand with it; only a kind
byte that names no kind does not (R180 step 4, R189). The order of the fields of CONFIGURE_LINE, DRIVE_LINE,
CONFIGURE_CHANNEL, SHARE_CHANNEL, SET_RELOAD, LIST_ENTRIES, SET_QUOTA and DIGEST in it is the model's choice (log 33). -/
def Obligations.RequestFramesRoundTrip : Prop :=
  ∀ (i : Instr) (bytes : List Byte), i.wellFormed = true → encodeFrame i = some bytes →
    (∀ p f k, i = .armEntry p f → f.defn ≠ .unknown k) → (∀ p a b k late, i ≠ .retimeEntry p a b (.unknown k) late) →
    decodeFrame i.port bytes false = .request i

/-- A request frame that fails a check of R180 leaves the status of the first check it fails in the slot of a READY
port, with no fields, and nothing is executed. At an EXECUTING port, or where its status byte told EXECUTING, it is
discarded, and in RESET_HOLD ignored, as is one that a reset has abandoned (R178, R179; that an abandoned one shows
MISO high throughout is the model's choice, log 9). A transaction of no byte has no effect; that one of some bits but
no whole byte has none either, where R180 speaks of no bytes clocked, is the model's choice (log 9). -/
def Obligations.FrameFailuresLeaveStatus : Prop :=
  (∀ (p : Port) (incomplete : Bool) (s : State), ∃ t, exec (.badRequest p [] incomplete) s = .next t ∧
    OnlyChanges [.ports] s t ∧ PortBecomes p { s.port p with transfer := .idle } s t) ∧
  ∀ (p : Port) (code : Byte) (tail : List Byte) (incomplete : Bool) (s : State), code ≠ 0 →
    ∃ t, exec (.badRequest p (code :: tail) incomplete) s = .next t ∧
      let failed := fun x : Status => OnlyChanges [.ports] s t ∧
        let high := List.replicate tail.length 0xFF
        (Ready s p → PortBecomes p { s.port p with
          slot := .ready { status := x, fields := [] }, miso := (s.port p).shownStatus :: high, transfer := .idle } s t) ∧
        (Discards s p → PortBecomes p { s.port p with
          miso := (s.port p).shownStatus :: high, transfer := .idle } s t) ∧
        (Ignores s p → PortBecomes p { s.port p with
          miso := 0xFF :: high, transfer := .idle } s t)
      (incomplete = true ∨ (∀ len rest, tail = len :: rest → rest.length ≠ len.toNat + 1) → failed .frameError) ∧
      ∀ (len : Byte) (f : List Byte) (crc : Byte), incomplete = false → tail = len :: (f ++ [crc]) →
        f.length = len.toNat →
        (crc ≠ crc8 (code :: len :: f) → failed .frameError) ∧
        (crc = crc8 (code :: len :: f) →
          (lengthRule code = none → failed .badRequest) ∧
          (∀ n, lengthRule code = some (.fixed n) → f.length ≠ n → failed .frameError) ∧
          (lengthRule code = some .armByKind →
            (f.length = 0 → failed .frameError) ∧
            (0 < f.length → blockLength (byteAt 0 f) = none → failed .badArg) ∧
            (∀ n, 0 < f.length → blockLength (byteAt 0 f) = some n → f.length ≠ n + 16 → failed .frameError)) ∧
          (lengthRule code = some .retimeByKind →
            (f.length < 3 → failed .frameError) ∧
            (3 ≤ f.length → blockLength (byteAt 2 f) = none → failed .badArg) ∧
            (∀ n, 3 ≤ f.length → blockLength (byteAt 2 f) = some n → f.length ≠ n + 4 → failed .frameError)))

/-- A transaction whose bytes are the frame of a well-formed request is that request (R180 step 5; log 18). The order of the
fields in the frames is the model's choice where the spec gives none (log 33). -/
def Obligations.WellFormedFrameRunsRequest : Prop :=
  ∀ (i : Instr) (bytes : List Byte) (s : State), i.wellFormed = true → encodeFrame i = some bytes →
    exec (.badRequest i.port bytes false) s = exec i s

/-- A fetch shifts out the status byte and the response of the slot state, both as they were when CS went low, and
then 0xFF; it empties a READY slot once the CRC byte has been clocked, and changes nothing else. In RESET_HOLD, or
abandoned by a reset, it is ignored (R178, R179, R181). It ends with CS high, and MISO is high with it (R186). That a
fetch of no byte stands for CS going low, and that a fetch with none before it samples both at its own instant, is the
model's choice (log 9), and that a fetch of no byte with CS low already changes nothing is too (log 4). -/
def Obligations.FetchReturnsSlot : Prop :=
  ∀ (p : Port) (n : Nat) (s : State), ∃ t, exec (.fetch p n) s = .next t ∧ OnlyChanges [.ports] s t ∧
    (t.port p).cs = (if n = 0 then .low else .high) ∧ ((t.port p).cs = .high → (t.port p).misoLevel = .high) ∧
    let u := s.port p
    let frame := fun r : Response => (byteOf r.status.code :: byteOf r.fields.length :: r.fields) ++
      [crc8 (byteOf r.status.code :: byteOf r.fields.length :: r.fields)]
    let out := fun (status : Byte) (r : Response) => ((status :: frame r) ++ List.replicate n 0xFF).take n
    (n = 0 → u.transfer = .idle → PortBecomes p { u with
      transfer := if u.state = .resetHold then .abandoned else .begun u.statusByte u.slot } s t) ∧
    (n = 0 → u.transfer ≠ .idle → t = s) ∧
    (0 < n → Ignores s p →
      PortBecomes p { u with miso := List.replicate n 0xFF, transfer := .idle } s t) ∧
    ∀ (status : Byte) (slot : Slot), 0 < n → u.state ≠ .resetHold →
      u.transfer = .begun status slot ∨ u.transfer = .idle ∧ status = u.statusByte ∧ slot = u.slot →
      (∀ r, slot = .ready r →
        PortBecomes p { u with
          slot := if r.fields.length + 4 ≤ n then .empty else u.slot, miso := out status r, transfer := .idle } s t) ∧
      (slot = .pending → PortBecomes p { u with
        miso := out status { status := .pending, fields := [] }, transfer := .idle } s t) ∧
      (slot = .empty → PortBecomes p { u with
        miso := out status { status := .noResponse, fields := [] }, transfer := .idle } s t)

/-- The bits of the port status byte (R188). -/
def Obligations.StatusByteShowsPort : Prop :=
  ∀ u : PortUnit,
    (u.statusByte &&& 0x03 = match u.slot with
      | .empty => 0
      | .pending => 1
      | .ready _ => 2) ∧
    u.statusByte.getLsbD 2 = decide (u.state = .executing) ∧
    u.statusByte.getLsbD 3 = u.notice ∧
    u.statusByte.getLsbD 4 = decide (u.causes ≠ 0) ∧
    u.statusByte.getLsbD 5 = false ∧ u.statusByte.getLsbD 6 = false ∧ u.statusByte.getLsbD 7 = false

/-! ## Reading the state -/

/-- READ_TIME reports one sample of the timebase, the slew direction and the range-held flag, and changes nothing else
than its port's slot (R7, R12). -/
def Obligations.ReadTimeReportsSample : Prop :=
  ∀ (p : Port) (s : State), Ready s p → ∃ t, exec (.readTime p) s = .next t ∧
    Reported p 0
      (bytesBE 2 s.backup.epoch.toNat ++ bytesBE 4 (s.backup.count / 1000000) ++ bytesBE 3 (s.backup.count % 1000000) ++
        [byteOf s.backup.quality.code, byteOf s.slew.direction.code, flagByte s.backup.rangeHeld]) s t

/-- READ_CALENDAR reports the date and the time of day of one sample: the year, month and day whose lengths add up to the
day number, the hour, minute and second of the second of the day, and the weekday (R9 to R11, R13). -/
def Obligations.ReadCalendarReportsDate : Prop :=
  ∀ (p : Port) (s : State), Ready s p → s.backup.count ≤ 3155759999999999 →
    ∃ t, exec (.readCalendar p) s = .next t ∧
    let seconds := s.backup.count / 1000000
    let yearDays := fun y : Nat => if y % 4 = 0 then 366 else 365
    let lengths := fun y : Nat => [31, if y % 4 = 0 then 29 else 28, 31, 30, 31, 30, 31, 31, 30, 31, 30, 31]
    ∃ year month day hour minute second dayOfYear : Nat,
      2000 ≤ year ∧ year ≤ 2099 ∧
      ((List.range (year - 2000)).map fun k => yearDays (2000 + k)).sum + dayOfYear = seconds / 86400 + 1 ∧
      1 ≤ dayOfYear ∧ dayOfYear ≤ yearDays year ∧
      1 ≤ month ∧ month ≤ 12 ∧ ((lengths year).take (month - 1)).sum + day = dayOfYear ∧
      1 ≤ day ∧ day ≤ (lengths year).getD (month - 1) 0 ∧
      hour * 3600 + minute * 60 + second = seconds % 86400 ∧ minute < 60 ∧ second < 60 ∧
      Reported p 0
        (bytesBE 2 year ++ [byteOf month, byteOf day, byteOf hour, byteOf minute, byteOf second] ++
          bytesBE 3 (s.backup.count % 1000000) ++ [byteOf ((seconds / 86400 + 5) % 7 + 1)] ++ bytesBE 2 dayOfYear ++
          bytesBE 2 s.backup.epoch.toNat ++ [byteOf s.backup.quality.code]) s t

/-- READ_CLOCK and READ_ADJUST report the supervisor, and the authority record with both slots of the queue, and change
nothing else than their port's slot (R37, R59). -/
def Obligations.ReadClockAndAdjustReport : Prop :=
  ∀ (p : Port) (s : State), Ready s p →
    (∃ t, exec (.readClock p) s = .next t ∧
      (s.running = true → Reported p 0
        ([byteOf s.backup.source.code, byteOf s.monitor.state.code, byteOf s.monitor.windowCount] ++
          (match s.monitor.lastError with
            | none => [0, 0, 0]
            | some e => 1 :: bytesBE 2 (BitVec.ofInt 16 e).toNat) ++
          [if s.backup.quality = .tracking then 1 else 0] ++ s.stamp.bytes) s t)) ∧
    (∃ t, exec (.readAdjust p) s = .next t ∧ Reported p 0
      ((match s.authority.holder with
          | none => [0, 0]
          | some q => [1, byteOf q.val]) ++
        [flagByte s.backup.key.isSome] ++
        (match s.authority.active with
          | none => List.replicate 9 0
          | some a => [1, a.number] ++ bytesBE 4 (BitVec.ofInt 32 a.amount).toNat ++ bytesBE 3 s.slew.remaining) ++
        (match s.authority.waiting with
          | none => List.replicate 10 0
          | some w => [1, match w.what with
              | .set _ => 0
              | .step _ => 1
              | .slew _ => 2, w.number] ++
            (match w.what with
              | .set v => bytesBE 4 (v / 1000000) ++ bytesBE 3 (v % 1000000)
              | .step a => [0, 0, 0] ++ bytesBE 4 (BitVec.ofInt 32 a).toNat
              | .slew a => [0, 0, 0] ++ bytesBE 4 (BitVec.ofInt 32 a).toNat)) ++
        [s.authority.nextNumber] ++
        (match s.authority.report with
          | none => List.replicate 6 0
          | some r => [1, r.number, byteOf r.outcome.code] ++ bytesBE 3 r.unapplied) ++
        s.stamp.bytes) s t)

/-- READ_LINE reports a line and READ_CHANNEL a channel, owned or not, sampled at one instant; a number out of range is
BAD_ARG; nothing else than the port's slot changes (R128, R150). A timer whose end falls at this instant shows 1, a
measurement that overflows at it shows 4,294,967,295 (the model's choice, log 20). -/
def Obligations.ReadLineAndChannelReport : Prop :=
  ∀ (p : Port) (n : Byte) (s : State), Ready s p →
    (∃ t, exec (.readLine p n) s = .next t ∧
      if h : n.toNat < 16 then
        let x := s.line ⟨n.toNat, h⟩
        Reported p 1
          (optNat 1 (x.owner.map Fin.val) ++ [flagByte x.pinned, byteOf (pinCode x.idleLevel)] ++ bytesBE 2 x.width ++
            bytesBE 2 x.holdLimit ++
            [byteOf x.drive.code,
              byteOf (pinCode (if x.drive = .idle then x.idleLevel else if x.idleLevel = .low then .high else .low))] ++
            (match x.drive with
              | .pulsing k => 1 :: bytesBE 2 (max 1 k)
              | .idle => [0, 0, 0]
              | .held _ => [0, 0, 0]) ++
            (match x.drive with
              | .held (some k) => 1 :: bytesBE 4 (max 1 k)
              | .held none => [0, 0, 0, 0, 0]
              | .idle => [0, 0, 0, 0, 0]
              | .pulsing _ => [0, 0, 0, 0, 0]) ++
            [byteOf (((List.finRange 64).filter fun i => (s.entry i).body.any fun b =>
              b.line.any fun y => y.1.val == n.toNat).length)] ++
            (match x.last with
              | none => List.replicate 15 0
              | some a => 1 :: (match a.source with
                  | .drive q => [0, 0, byteOf q.val]
                  | .firing i inst => [1, byteOf i.val, inst]) ++ [byteOf a.action.code] ++ a.stamp.bytes) ++
            s.stamp.bytes) s t
      else Refused p 1 .badArg s t) ∧
    (∃ t, exec (.readChannel p n) s = .next t ∧
      if h : n.toNat < 8 then
        let x := s.channel ⟨n.toNat, h⟩
        Reported p 1
          (optNat 1 (x.owner.map Fin.val) ++
            [flagByte x.shareable, byteOf x.mode.code, byteOf x.edge.code, byteOf x.source.code, byteOf x.level] ++
            bytesBE 2 x.reload ++ bytesBE 2 x.counter ++ [flagByte x.running] ++
            (if x.mode = .period ∨ x.mode = .width then [1, flagByte x.measuring.isSome] else [0, 0]) ++
            (match x.measuring with
              | none => [0, 0, 0, 0, 0]
              | some e => 1 :: bytesBE 4 (min e 4294967295)) ++
            [byteOf (pinCode x.filtered), byteOf (((List.finRange 64).filter fun i => (s.entry i).body.any fun b =>
              match b.defn with
              | .after c _ _ _ => c.val == n.toNat
              | .atTime _ => false
              | .every _ _ => false
              | .calendar _ _ => false).length)] ++
            s.stamp.bytes) s t
      else Refused p 1 .badArg s t)

/-- READ_ENTRY reports every field of the entry that its handle names; LIST_ENTRIES reports up to sixteen summaries in
ascending order, the index to continue from, the counts and the generations. Neither changes more than its port's slot
(R64, R84, R85). -/
def Obligations.ReadAndListEntriesReport : Prop :=
  ∀ (p : Port) (a b : Byte) (s : State), Ready s p →
    (∃ t, exec (.readEntry p a b) s = .next t ∧
      if h : a.toNat < 64 then
        match (s.entry ⟨a.toNat, h⟩).body with
        | none => Refused p 2 .notFound s t
        | some e =>
          if (s.entry ⟨a.toNat, h⟩).inst ≠ b then Refused p 2 .notFound s t
          else Reported p 2
            ([a, b, byteOf e.owner.val, byteOf e.defn.code, byteOf e.run.code, byteOf e.run.heldFrom] ++
              (match e.run.due with
                | none => List.replicate 8 0
                | some d => 1 :: bytesBE 4 (d / 1000000) ++ bytesBE 3 (d % 1000000)) ++
              padTo 11 e.defn.block ++
              (match e.remaining with
                | none => [0, 0, 0]
                | some r => 1 :: bytesBE 2 r) ++
              (match e.line with
                | none => [0, 0, 0]
                | some x => [1, byteOf x.1.val, byteOf x.2.code]) ++
              (match e.record with
                | none => [0, 0]
                | some l => [1, byteOf l]) ++
              [flagByte e.shareable] ++ bytesBE 4 e.tag.toNat ++ [flagByte e.keep] ++
              (match e.last with
                | none => List.replicate 14 0
                | some l => 1 :: l.stamp.bytes ++ [flagByte l.late] ++ bytesBE 2 l.missed) ++
              bytesBE 2 e.fireCount ++ bytesBE 4 s.schedule.defGen.toNat ++ bytesBE 4 s.schedule.fullGen.toNat) s t
      else Refused p 2 .badArg s t) ∧
    (∃ t, exec (.listEntries p a b) s = .next t ∧
      if a.toNat ≤ 1 ∧ b.toNat < 64 then
        let found := (List.finRange 64).filter fun i => decide (b.toNat ≤ i.val) &&
          (s.entry i).body.any fun e => decide (a = 1) || decide (e.owner = p)
        let shown := found.take 16
        Reported p 2
          ([byteOf shown.length] ++
            shown.flatMap (fun i => match (s.entry i).body with
              | none => []
              | some e => [byteOf i.val, (s.entry i).inst, byteOf e.owner.val, byteOf e.defn.code, byteOf e.run.code,
                  flagByte e.shareable]) ++
            (if 16 < found.length then [1, byteOf (((found[15]?).map Fin.val).getD 0 + 1)] else [0, 0]) ++
            [byteOf (((List.finRange 64).filter fun i => (s.entry i).body.isNone).length),
              byteOf (((List.finRange 64).filter fun i => (s.entry i).body.any fun e => decide (e.owner = p)).length),
              byteOf (s.schedule.quotas.get p)] ++
            bytesBE 4 s.schedule.defGen.toNat ++ bytesBE 4 s.schedule.fullGen.toNat) s t
      else Refused p 2 .badArg s t)

/-- IDENTIFY reports the codes and the capacities of R184 and changes nothing else than its port's slot. -/
def Obligations.IdentifyReportsPart : Prop :=
  ∀ (p : Port) (s : State), Ready s p → ∃ t, exec (.identify p) s = .next t ∧
    Reported p 0 ([0x2E, 0x47] ++ bytesBE 2 412 ++ [1, 4, 64, 16, 8, 24, 32]) s t

/-- READ_RESET_CAUSE returns the port's reset-cause set and empties it (R183). -/
def Obligations.ResetCausesReadAndEmptied : Prop :=
  ∀ (p : Port) (s : State), Ready s p → ∃ t, exec (.readResetCause p) s = .next t ∧ OnlyChanges [.ports] s t ∧
    PortBecomes p { (s.port p).replied 0 { status := .ok, fields := [(s.port p).causes.setWidth 8] } with causes := 0 } s t

/-! ## Queues, conditions and notices -/

/-- READ_CONDITIONS reports the port's own delivery state; ACK_CONDITIONS removes the kinds named, bit 7 being refused;
SET_MASK replaces the mask, above 6 being refused; and the notice is asserted, with NTC low, exactly while a condition or
a copy has a level above the mask (R165 to R168). -/
def Obligations.ConditionsAckedAndMasked : Prop :=
  (∀ u : PortUnit, (u.notice = true ↔ (∃ k, u.holds k = true ∧ u.mask < k.level) ∨ ∃ c ∈ u.queue, u.mask < c.level) ∧
    (u.ntc = .low ↔ u.notice = true)) ∧
  ∀ (p : Port) (v : Byte) (s : State), Ready s p →
    (∃ t, exec (.readConditions p) s = .next t ∧
      Reported p 0
        [(s.port p).conditions.setWidth 8, byteOf (s.port p).queue.length,
          byteOf ((((s.port p).queue.head?).map Copy.level).getD 0), flagByte (s.port p).gapPending,
          byteOf (s.port p).mask, flagByte (s.port p).notice] s t) ∧
    (∃ t, exec (.ackConditions p v) s = .next t ∧
      if v.getLsbD 7 = true then Refused p 1 .badArg s t
      else
        let left := (s.port p).conditions &&& ~~~(v.setWidth 7)
        OnlyChanges [.ports] s t ∧
          PortBecomes p
            { (s.port p).replied 1 { status := .ok, fields := [left.setWidth 8] } with conditions := left } s t) ∧
    (∃ t, exec (.setMask p v) s = .next t ∧
      if 6 < v.toNat then Refused p 1 .badArg s t
      else
        OnlyChanges [.ports] s t ∧
          PortBecomes p
            { (s.port p).replied 1
                { status := .ok, fields := [v, flagByte ({ s.port p with mask := v.toNat } : PortUnit).notice] } with
              mask := v.toNat } s t)

/-- TAKE_RECORD answers EMPTY on an empty queue, and otherwise removes and returns the first copy, which is one of highest
level in a queue ordered by level, with the number of copies left and the highest level among them; the gap-pending mark
stays (R162). -/
def Obligations.TakeRecordTakesFirstCopy : Prop :=
  ∀ (p : Port) (s : State), Ready s p → ∃ t, exec (.takeRecord p) s = .next t ∧
    match (s.port p).queue with
    | [] => Refused p 0 .empty s t
    | c :: left => OnlyChanges [.ports] s t ∧
        ((c :: left).Pairwise (fun a b => b.level ≤ a.level) → ∀ x ∈ left, x.level ≤ c.level) ∧
        PortBecomes p { (s.port p).replied 0 { status := .ok, fields :=
          c.bytes ++ [byteOf left.length, byteOf (((left.head?).map Copy.level).getD 0)] } with queue := left } s t

/-- A copy handed to a queue with room is stored behind the copies of its level and above, with GAP if the mark was set. In
a full queue ordered by level it displaces the newest copy of the lowest level, with GAP, or is lost itself and sets the
mark, and QUEUE_OVERRUN is raised. Nothing else of the port changes (R160, R161). -/
def Obligations.CopiesStoredByLevel : Prop :=
  ∀ (c : Copy) (u : PortUnit), u.queue.Pairwise (fun a b => b.level ≤ a.level) → u.queue.length ≤ 32 →
    let before := fun q : List Copy => q.filter fun x => decide (c.level ≤ x.level)
    let behind := fun q : List Copy => q.filter fun x => decide (x.level < c.level)
    (u.queue.length < 32 → u.storeCopy c =
      { u with queue := before u.queue ++ [{ c with gap := u.gapPending }] ++ behind u.queue, gapPending := false }) ∧
    (∀ front z, u.queue = front ++ [z] → u.queue.length = 32 →
      (z.level < c.level → u.storeCopy c =
        { u with queue := before front ++ [{ c with gap := true }] ++ behind front, gapPending := false,
                 conditions := u.conditions ||| 0x10#7 }) ∧
      (c.level ≤ z.level → u.storeCopy c = { u with gapPending := true, conditions := u.conditions ||| 0x10#7 }))

/-! ## Authority and adjustments -/

/-- CLAIM_AUTHORITY by the table of R41, with the effects of a change of holder by R42: the queue discarded, its records to
the old holder, AUTHORITY_CHANGED at every attached port, and REF_READY at the new holder where R34 calls for it. -/
def Obligations.ClaimAuthorityDecides : Prop :=
  ∀ (p : Port) (k : OptField 64) (s : State), Ready s p → k.wellFormed = true →
    ∃ t, exec (.claimAuthority p k) s = .next t ∧
      let presented := if k.presence = 1 then some k.value else none
      let taken := OnlyChanges [.slew, .authority, .ports] s t ∧ t.slew = s.discardSlew ∧
        t.authority = { s.authority with holder := some p, active := none, waiting := none, report := s.discardReport } ∧
        ∀ q, t.port q =
          let u := if q = p then (s.port p).replied 9
            { status := .ok, fields := [1, byteOf p.val, 1, 1] ++ s.stamp.bytes } else s.port q
          let v := u.storesIf (decide (s.authority.holder = some q) && s.attached q) s.discardRecords
          let w := v.raisedIf (s.attached q) .authorityChanged
          w.raisedIf (decide (q = p) && decide (s.backup.quality = .holdover) && decide (s.monitor.state = .refGood))
            .refReady
      match s.authority.holder with
      | none => taken
      | some q =>
        if q = p then Reported p 9 ([1, byteOf p.val, 0] ++ List.replicate 11 0) s t
        else match s.backup.key with
          | none => Refused p 9 .authorityHeld s t
          | some key => if presented = some key then taken else Refused p 9 .keyMismatch s t

/-- RELEASE_AUTHORITY leaves no holder and discards the queue, its records to the releasing port, which also receives
AUTHORITY_CHANGED as every attached port does; SET_KEY replaces or removes the stored key. Both are NOT_AUTHORITY for
another port (R42 to R44). -/
def Obligations.ReleaseAuthorityAndSetKey : Prop :=
  ∀ (p : Port) (k : OptField 64) (s : State), Ready s p → k.wellFormed = true →
    (∃ t, exec (.releaseAuthority p) s = .next t ∧
      if s.authority.holder ≠ some p then Refused p 0 .notAuthority s t
      else OnlyChanges [.slew, .authority, .ports] s t ∧ t.slew = s.discardSlew ∧
        t.authority = { s.authority with holder := none, active := none, waiting := none, report := s.discardReport } ∧
        ∀ q, t.port q =
          (if q = p then ((s.port p).replied 0 { status := .ok, fields := [] }).stores s.discardRecords
            else s.port q).raisedIf (s.attached q) .authorityChanged) ∧
    (∃ t, exec (.setKey p k) s = .next t ∧
      if s.authority.holder ≠ some p then Refused p 9 .notAuthority s t
      else OnlyChanges [.backup, .ports] s t ∧
        t.backup = { s.backup with key := if k.presence = 1 then some k.value else none } ∧
        Replied p 9 { status := .ok, fields := [] } s t)

/-- SET_TIME in the order of R48: applied at once, queued, or refused. What an applied one does to the schedule table is
StepResolvesOrRecomputes. -/
def Obligations.SetTimeDecides : Prop :=
  ∀ (p : Port) (seconds : BitVec 32) (micros : BitVec 24) (s : State), Ready s p →
    ∃ t, exec (.setTime p seconds micros) s = .next t ∧
      let value := seconds.toNat * 1000000 + micros.toNat
      if s.authority.holder ≠ some p then Refused p 7 .notAuthority s t
      else if 999999 < micros.toNat then Refused p 7 .badArg s t
      else if s.authority.active.isSome = true ∧ s.authority.waiting.isSome = true then Refused p 7 .busy s t
      else if s.authority.active.isSome = true then Queued p 7 (.set value) s t
      else if 3155759999999999 < value then Refused p 7 .range s t
      else Applied p 7 value s t

/-- STEP in the order of R49: applied at once, queued, or refused. What an applied one does to the schedule table is
StepResolvesOrRecomputes. -/
def Obligations.StepDecides : Prop :=
  ∀ (p : Port) (amount : BitVec 32) (s : State), Ready s p →
    ∃ t, exec (.step p amount) s = .next t ∧
      let result := (s.backup.count : Int) + amount.toInt
      if s.authority.holder ≠ some p then Refused p 4 .notAuthority s t
      else if amount = 0 then Refused p 4 .badArg s t
      else if s.backup.quality = .unset then Refused p 4 .noTime s t
      else if s.authority.active.isSome = true ∧ s.authority.waiting.isSome = true then Refused p 4 .busy s t
      else if s.authority.active.isSome = true then Queued p 4 (.step amount.toInt) s t
      else if result < 0 ∨ 3155759999999999 < result then Refused p 4 .range s t
      else Applied p 4 result.toNat s t

/-- SLEW in the order of R52: ACTIVE at once with the timebase's direction and amount (R14), WAITING, or refused; while
the range is held it ends at once, COMPLETED with its full amount unapplied (R16, R53, R58; that RANGE_END is not raised
again is the model's choice, log 19). -/
def Obligations.SlewDecides : Prop :=
  ∀ (p : Port) (amount : BitVec 32) (s : State), Ready s p →
    ∃ t, exec (.slew p amount) s = .next t ∧
      let size := amount.toInt.natAbs
      let number := s.authority.nextNumber
      if s.authority.holder ≠ some p then Refused p 4 .notAuthority s t
      else if size = 0 ∨ 1000000 < size then Refused p 4 .badArg s t
      else if s.backup.quality = .unset then Refused p 4 .noTime s t
      else if s.authority.active.isSome = true ∧ s.authority.waiting.isSome = true then Refused p 4 .busy s t
      else if s.authority.active.isSome = true then Queued p 4 (.slew amount.toInt) s t
      else OnlyChanges [.slew, .authority, .ports] s t ∧
        if s.backup.rangeHeld = true then
          t.slew = { direction := .none, remaining := 0, blockElapsed := 0 } ∧
          t.authority = { s.authority with
            active := none, nextNumber := number + 1,
            report := some { number := number, outcome := .completed, unapplied := size } } ∧
          PortBecomes p (((s.port p).replied 4 { status := .queued, fields := [number] }).stores
            [(3, adjustDoneRecord number .completed none s.stamp)]) s t
        else
          t.slew = { direction := if 0 ≤ amount.toInt then .positive else .negative, remaining := size,
                     blockElapsed := 0 } ∧
          t.authority = { s.authority with
            active := some { number := number, amount := amount.toInt }, nextNumber := number + 1 } ∧
          Replied p 4 { status := .queued, fields := [number] } s t

/-- CANCEL_ADJUST: the holder discards the queue by R55, with a CANCELLED record for each adjustment removed, the slew
report written for the slew, and the number removed and the slew remaining in the response (R56, R58). -/
def Obligations.CancelAdjustDiscardsQueue : Prop :=
  ∀ (p : Port) (s : State), Ready s p → ∃ t, exec (.cancelAdjust p) s = .next t ∧
    if s.authority.holder ≠ some p then Refused p 0 .notAuthority s t
    else OnlyChanges [.slew, .authority, .ports] s t ∧ t.slew = s.discardSlew ∧
      t.authority = { s.authority with active := none, waiting := none, report := s.discardReport } ∧
      PortBecomes p
        (((s.port p).replied 0 { status := .ok, fields := (
          byteOf (s.authority.active.toList.length + s.authority.waiting.toList.length) ::
            (if s.authority.active.isSome then 1 :: bytesBE 3 s.slew.remaining else [0, 0, 0, 0])) }).stores
          s.discardRecords) s t

/-! ## The clock supervisor -/

/-- SELECT_SOURCE in the order of R24, and RESUME_REFERENCE in the order of R36. -/
def Obligations.SourceRequestsDecide : Prop :=
  ∀ (p : Port) (v : Byte) (s : State), Ready s p →
    (∃ t, exec (.selectSource p v) s = .next t ∧
      if s.authority.holder ≠ some p then Refused p 1 .notAuthority s t
      else if v ≠ 1 ∧ v ≠ 2 then Refused p 1 .badArg s t
      else if s.backup.source ≠ .notChosen then Refused p 1 .locked s t
      else OnlyChanges [.backup, .monitor, .ports] s t ∧
        t.backup = { s.backup with source := if v = 1 then .internalOnly else .reference } ∧
        (v = 1 → t.monitor = s.monitor) ∧
        (v = 2 → t.monitor = { s.monitor with state := .refAbsent, windowCount := 0, elapsed := 0, edgeSeen := false,
                                              cycles := 0, measured := 0, sinceEdge := 0 }) ∧
        Replied p 1 { status := .ok, fields := [v] } s t) ∧
    (∃ t, exec (.resumeReference p) s = .next t ∧
      if s.authority.holder ≠ some p then Refused p 0 .notAuthority s t
      else if s.backup.quality ≠ .holdover then Refused p 0 .badArg s t
      else if s.monitor.state ≠ .refGood then Refused p 0 .notReady s t
      else OnlyChanges [.backup, .ports] s t ∧ t.backup = { s.backup with quality := .tracking } ∧
        ∀ q, t.port q = (if q = p then (s.port p).replied 0 { status := .ok, fields := (
            bytesBE 2 s.backup.epoch.toNat ++ bytesBE 4 (s.backup.count / 1000000) ++
              bytesBE 3 (s.backup.count % 1000000) ++ [2]) } else s.port q).raisedIf (s.attached q) .trackingBegun)

/-- An edge of the reference in REF_ABSENT begins qualification and its first window, in REF_OFF does nothing, and in the
other states is counted in the window where its interval is at most 1 microsecond (R26, R27); after a longer interval the
reference has been lost, and the edge begins a fresh qualification (R27, R30). A loss takes the monitor to REF_ABSENT,
discards the window and, from REF_GOOD, makes TRACKING into HOLDOVER with the condition (R30, R33, R35); it is taken
before a third device microsecond ends with no edge. The unit of the gap, and a device microsecond standing for one of the
internal oscillator in this interval, are the model's choices (log 10), as is the advance that counts alone (log 30). -/
def Obligations.ReferenceEdgesAndLoss : Prop :=
  ∀ (gap : Nat) (s : State), s.running = true →
    let watching := s.monitor.state = .refQualifying ∨ s.monitor.state = .refGood
    let interval := max gap (1000 * (s.monitor.sinceEdge - 1))
    let fresh := fun (state : MonitorState) (seen : Bool) =>
      ({ state := state, windowCount := 0, lastError := s.monitor.lastError, elapsed := 0, edgeSeen := seen, cycles := 0,
         measured := 0, sinceEdge := 0 } : Monitor)
    let lost := fun (m : Monitor) (t : State) => OnlyChanges [.backup, .monitor, .ports] s t ∧ t.monitor = m ∧
      if s.monitor.state = .refGood ∧ s.backup.quality = .tracking then
        t.backup = { s.backup with quality := .holdover } ∧
          ∀ q, t.port q = (s.port q).raisedIf (s.attached q) .holdover
      else t.backup = s.backup ∧ t.ports = s.ports
    (∃ t, exec (.referenceEdge gap) s = .next t ∧
      (s.monitor.state = .refOff → t = s) ∧
      (s.monitor.state = .refAbsent → t = { s with monitor := fresh .refQualifying true }) ∧
      (watching → interval ≤ 1000 → t = { s with monitor :=
        { s.monitor with
          edgeSeen := true,
          cycles := if s.monitor.edgeSeen then s.monitor.cycles + 1 else s.monitor.cycles,
          measured := if s.monitor.edgeSeen then s.monitor.measured + interval else s.monitor.measured,
          sinceEdge := 0 } }) ∧
      (watching → 1000 < interval → lost (fresh .refQualifying true) t)) ∧
    (∃ t, exec .referenceLoss s = .next t ∧
      (s.monitor.state = .refOff ∨ s.monitor.state = .refAbsent → t = s) ∧
      (watching → s.monitor.sinceEdge = 0 → s.backup.quality ≠ .tracking → t = s) ∧
      (watching → 1 ≤ s.monitor.sinceEdge ∨ s.backup.quality = .tracking → lost (fresh .refAbsent false) t)) ∧
    (watching → 2 ≤ s.monitor.sinceEdge → ∀ first, ∀ part ∈ [Advance.whole first, .count first],
      ∃ t, exec (.timebaseAdvance part) s = .next t ∧
      t.monitor.state = .refAbsent ∧ t.monitor.windowCount = 0 ∧
      (s.monitor.state = .refGood → t.backup.quality ≠ .tracking))

/-- The end of a window: its error in ppm, found and rounded as R26 says where an interval was measured, is judged against
100 ppm in REF_QUALIFYING (R28) and 500 ppm in REF_GOOD (R29), with the quality transitions of R32 and R33. These are the
model's choices: the error of a window in which no interval was measured is a free value in the range of R26, and is judged
likewise (logs 3, 11); and the window that follows begins with no edge seen, so that an edge at the instant between two
windows belongs to one of them alone (log 29). -/
def Obligations.WindowEndJudges : Prop :=
  ∀ s : State, s.running = true → s.monitor.elapsed = 1000 →
    s.monitor.state = .refQualifying ∨ s.monitor.state = .refGood →
    ∃ (t : State) (e : Int), exec .windowEnd s = .next t ∧
      OnlyChanges [.backup, .monitor, .ports, .freeCount] s t ∧
      let x : ℚ := ((s.monitor.cycles : ℚ) / (10 * ((s.monitor.measured : ℚ) / 1000)) - 1) * 1000000
      (0 < s.monitor.measured → t.freeCount = s.freeCount ∧
        e = max (-32768) (min 32767 (if 0 ≤ x then ⌊x + 1 / 2⌋ else -⌊-x + 1 / 2⌋))) ∧
      (s.monitor.measured = 0 → t.freeCount = s.freeCount + 1 ∧ -32768 ≤ e ∧ e ≤ 32767) ∧
      let judged := fun (state : MonitorState) (count : Nat) => t.monitor =
        { state := state, windowCount := count, lastError := some e, elapsed := 0, edgeSeen := false, cycles := 0,
          measured := 0, sinceEdge := s.monitor.sinceEdge }
      let same := t.backup = s.backup ∧ t.ports = s.ports
      if s.monitor.state = .refQualifying then
        if e.natAbs ≤ 100 then
          if s.monitor.windowCount + 1 < 16 then judged .refQualifying (s.monitor.windowCount + 1) ∧ same
          else judged .refGood 16 ∧
            (s.backup.quality = .freeRun → t.backup = { s.backup with quality := .tracking } ∧
              ∀ q, t.port q = (s.port q).raisedIf (s.attached q) .trackingBegun) ∧
            (s.backup.quality = .holdover → t.backup = s.backup ∧
              ∀ q, t.port q = (s.port q).raisedIf (decide (s.authority.holder = some q) && s.attached q) .refReady) ∧
            (s.backup.quality = .unset → same)
        else judged .refQualifying 0 ∧ same
      else
        if e.natAbs ≤ 500 then judged .refGood s.monitor.windowCount ∧ same
        else judged .refQualifying 0 ∧
          (if s.backup.quality = .tracking then t.backup = { s.backup with quality := .holdover } ∧
              ∀ q, t.port q = (s.port q).raisedIf (s.attached q) .holdover
            else same)

/-! ## The timebase -/

/-- CLEAR_BACKUP in the order of R22: the backup domain takes the values of R20, the monitor is REF_OFF, TIME_STEPPED and
the reset cause BACKUP_LOST go to every attached port, and the holder stays. -/
def Obligations.ClearBackupResetsDomain : Prop :=
  ∀ (p : Port) (s : State), Ready s p → ∃ t, exec (.clearBackup p) s = .next t ∧
    if s.authority.holder ≠ some p then Refused p 0 .notAuthority s t
    else if ∃ i, (s.entry i).body ≠ none then Refused p 0 .inUse s t
    else if s.authority.active.isSome = true ∨ s.authority.waiting.isSome = true then Refused p 0 .busy s t
    else OnlyChanges [.backup, .monitor, .ports] s t ∧
      t.backup = { count := 0, epoch := 0, quality := .unset, rangeHeld := false, source := .notChosen, key := none,
                   retention := true } ∧
      t.monitor = { state := .refOff, windowCount := 0, lastError := none, elapsed := 0, edgeSeen := false, cycles := 0,
                    measured := 0, sinceEdge := 0 } ∧
      ∀ q, t.port q =
        let u := if q = p then (s.port p).replied 0 { status := .ok, fields := [] } else s.port q
        if s.attached q = true then (u.raise .timeStepped).addCause .backupLost else u

/-- One microsecond of the rate source that reaches no entry advances the count by 1, with no slew in progress or in the
first 999 device microseconds of a slew block, of which it counts one (R14), and everything that counts device
microseconds counts one; while the quality is UNSET or the range is held the count stays (R2, R3). That the command stands
for one device microsecond in these two cases too is the model's choice (log 7), as is its second form, which leaves the
firings of the advance for a later command, these being none here (log 30). -/
def Obligations.AdvanceCountsOneMicrosecond : Prop :=
  ∀ (first : List DueEvent) (s : State), Quiet first s → s.slew.direction = .none ∨ s.slew.blockElapsed < 999 →
    (s.backup.quality ≠ .unset → s.backup.rangeHeld = false →
      s.backup.count < Config.endOfRange ∧ ∀ i d, (s.entry i).armedDue = some d → s.backup.count + 1 < d) →
    ∀ part ∈ [Advance.whole first, .count first], ∃ t, exec (.timebaseAdvance part) s = .next t ∧
      OnlyChanges [.backup, .slew, .unfired, .monitor, .lines, .channels, .digest] s t ∧ CountedOne s t ∧
      (t.unfired = true ↔ part = .count first ∧ s.backup.quality ≠ .unset ∧ s.backup.rangeHeld = false) ∧
      t.slew = (if s.slew.direction = .none then s.slew
        else { s.slew with blockElapsed := s.slew.blockElapsed + 1 }) ∧
      if s.backup.quality ≠ .unset ∧ s.backup.rangeHeld = false then
        t.backup = { s.backup with count := s.backup.count + 1 }
      else t.backup = s.backup

/-- An advance that reaches the due time of one ARMED entry fires it on time: its line is driven, its record goes to its
owner and its subscribers, the fire count, the last firing and the remaining count are updated, the next state is found
by kind, and the generations rise (R98 to R103). Where several entries fall due at one advance, they fire one after the
other in ascending order of index, each whole, the end of the subscriptions to an entry it frees included (R98; that R159
does not order these across the firings is the model's choice, log 27). So it does with no slew in progress, and in the
first 999 device microseconds of a slew block, of which it counts one (R14). An event of another block may come first at
the count reached (R67, R97, R104): for that the command may count alone, and the firings are then left; a later command
makes them, after the events it names: those of the value passed over, and then those of now, each in ascending order of
index (R98). The first of them is made alone where it is named among these events, so that others of the part's own clocks
may follow it (R99, R173). These parts of the command are the model's choice (log 30). -/
def Obligations.AdvanceFiresDueEntry : Prop :=
  (∀ (first : List DueEvent) (s : State), Quiet first s → s.slew.direction = .none ∨ s.slew.blockElapsed < 999 →
    s.backup.count < Config.endOfRange → s.backup.quality ≠ .unset → s.backup.rangeHeld = false →
    let slewed : SlewState := if s.slew.direction = .none then s.slew
      else { s.slew with blockElapsed := s.slew.blockElapsed + 1 }
    (∀ (i : EntryIx) (b : Body), (s.entry i).body = some b → b.run = .armed (s.backup.count + 1) →
      (∀ j d, j ≠ i → (s.entry j).armedDue = some d → s.backup.count + 1 < d) →
      ∃ t, exec (.timebaseAdvance (.whole first)) s = .next t ∧
        OnlyChanges [.backup, .slew, .monitor, .schedule, .lines, .channels, .subs, .digest, .ports] s t ∧
        t.backup = { s.backup with count := s.backup.count + 1 } ∧ t.slew = slewed ∧
        t.monitor = s.monitor.tick ∧ (∀ c, t.channel c = (s.channel c).tick) ∧
        Fires true i b (s.backup.count + 1) false 0 (fun l => { s.line l with drive := (s.line l).drive.counted })
          (s.digest.map fun w => { w with elapsed := w.elapsed + 1 }) s.port s t) ∧
    (DueAhead s → ∃ u t, exec (.timebaseAdvance (.whole first)) s = .next t ∧
      OnlyChanges [.backup, .slew, .monitor, .lines, .channels, .digest] s u ∧ CountedOne s u ∧
      u.backup = { s.backup with count := s.backup.count + 1 } ∧ u.slew = slewed ∧
      FiresInOrder false (s.dueAt (s.backup.count + 1)) u t) ∧
    ∃ t, exec (.timebaseAdvance (.count first)) s = .next t ∧
      OnlyChanges [.backup, .slew, .unfired, .monitor, .lines, .channels, .digest] s t ∧ CountedOne s t ∧
      t.backup = { s.backup with count := s.backup.count + 1 } ∧ t.slew = slewed ∧ t.unfired = true) ∧
  ∀ (first : List DueEvent) (s : State), s.running = true →
    let e := first.foldl State.takeDue s
    let left := e.passed ++ e.dueAt e.backup.count
    (e.unfired = false → e.takeDue .firing = e) ∧
    (e.unfired = true → e.backup.rangeHeld = false → TableConsistent e → DueAhead e →
      ∃ u, OnlyChanges [.unfired] e u ∧ u.unfired = decide (1 < left.length) ∧
        FiresInOrder false (left.take 1) u (e.takeDue .firing)) ∧
    ∀ c ∈ [Instr.timebaseAdvance (.firings first), .slewBlockEnd (.firings first), .slewEnd (.firings first)],
      (e.unfired = false → exec c s = .next e) ∧
      (e.unfired = true → e.backup.rangeHeld = false → TableConsistent e → DueAhead e →
        ∃ u t, exec c s = .next t ∧ OnlyChanges [.unfired] e u ∧ u.unfired = false ∧ FiresInOrder false left u t)

/-- The thousandth microsecond of a slew block that is not the last advances the count by 2 under a POSITIVE slew and by 0
under a NEGATIVE one, and takes 1 from the slew remaining; a new block begins (R14). The entries due at the value a
POSITIVE slew passes over fire on time in that advance, and those due at the value it reaches after them, each in
ascending order of index, each whole (R8, R98; log 27). The command that counts alone leaves the firings of a POSITIVE
block's advance (the model's choice, log 30). -/
def Obligations.SlewBlockAddsOrDrops : Prop :=
  ∀ (first : List DueEvent) (s : State), Quiet first s → s.slew.direction ≠ .none → s.slew.blockElapsed = 999 →
    1 < s.slew.remaining → (s.slew.direction = .positive → s.backup.count + 2 ≤ Config.endOfRange) →
    let counted := fun t : State =>
      CountedOne s t ∧ t.slew = { s.slew with remaining := s.slew.remaining - 1, blockElapsed := 0 } ∧
        t.backup = { s.backup with
          count := if s.slew.direction = .positive then s.backup.count + 2 else s.backup.count }
    ((s.slew.direction = .positive → ∀ i d, (s.entry i).armedDue = some d → s.backup.count + 2 < d) →
      ∃ t, exec (.slewBlockEnd (.whole first)) s = .next t ∧
        OnlyChanges [.backup, .slew, .monitor, .lines, .channels, .digest] s t ∧ counted t) ∧
    (TableConsistent s → DueAhead s → s.backup.rangeHeld = false →
      ∃ u t, exec (.slewBlockEnd (.whole first)) s = .next t ∧ exec (.timebaseAdvance (.whole first)) s = .next t ∧
        OnlyChanges [.backup, .slew, .monitor, .lines, .channels, .digest] s u ∧ counted u ∧
        FiresInOrder false (if s.slew.direction = .positive
          then s.dueAt (s.backup.count + 1) ++ s.dueAt (s.backup.count + 2) else []) u t) ∧
    ∃ t, exec (.slewBlockEnd (.count first)) s = .next t ∧ exec (.timebaseAdvance (.count first)) s = .next t ∧
      OnlyChanges [.backup, .slew, .unfired, .monitor, .lines, .channels, .digest] s t ∧ counted t ∧
      t.unfired = decide (s.slew.direction = .positive)

/-- The microsecond that takes the slew remaining to 0 ends the slew: the direction is NONE, the ACTIVE slew leaves as
COMPLETED with 0 unapplied, and its ADJUST_DONE goes to the holder. A slew that waits becomes ACTIVE and begins; a SET or
STEP that waits is applied, with TIME_STEPPED, what it does to the table and its own COMPLETED ADJUST_DONE, or leaves with
RANGE where its value is out of range (R14, R50, R53, R54, R58). The entries that the advance reaches and the end of the
slew may come in either order (R104): with the whole command they fire first, on time; with the command that counts alone
the end of the slew comes first, and a forward SET or STEP that waits then resolves them late (R107). These are the model's
choices: the parts of the command, and that no other event of the instant comes between the firings, or the count, and the
end of the slew (log 30), the due time of a CALENDAR entry with no match left (log 22), or left ARMED
for the new now by a value passed over (log 31), and the order of the SUB_ENDED records of the application (log 27). -/
def Obligations.SlewEndReports : Prop :=
  ∀ (first : List DueEvent) (s : State) (a : ActiveSlew), Quiet first s → s.slew.direction ≠ .none →
    s.slew.blockElapsed = 999 → s.slew.remaining = 1 →
    (s.slew.direction = .positive → s.backup.count + 2 ≤ Config.endOfRange) →
    s.backup.quality ≠ .unset → s.backup.rangeHeld = false → TableConsistent s → DueAhead s →
    s.authority.active = some a →
    let counted := fun (extra : List Part) (u : State) =>
      OnlyChanges ([.backup, .slew, .monitor, .lines, .channels, .digest] ++ extra) s u ∧ CountedOne s u ∧
        u.slew = { s.slew with remaining := 0, blockElapsed := 0 } ∧
        u.backup = { s.backup with
          count := if s.slew.direction = .positive then s.backup.count + 2 else s.backup.count }
    (∃ u v t, exec (.slewEnd (.whole first)) s = .next t ∧ counted [] u ∧
      FiresInOrder false (if s.slew.direction = .positive
        then s.dueAt (s.backup.count + 1) ++ s.dueAt (s.backup.count + 2) else []) u v ∧
      SlewEnds a 0 v t) ∧
    ∃ u t, exec (.slewEnd (.count first)) s = .next t ∧ counted [.unfired] u ∧
      u.unfired = decide (s.slew.direction = .positive) ∧ SlewEnds a 0 u t

/-- An advance that would pass the end of range, by 1 from the last value or by the 2 of a POSITIVE slew from the one
before it, holds the count there: the entries due at the held value fire, RANGE_END is raised at every attached port, and
a slew in progress ends, COMPLETED with what remains of it unapplied; a WAITING adjustment then follows it (R16, R53, R58,
R112). That the microsecond of a block's end which reaches the end of range lowers nothing first is the model's choice
(log 12), as logs 22 and 27 are for the table; the command that counts alone leaves nothing of this event (log 30). -/
def Obligations.EndOfRangeHoldsCount : Prop :=
  ∀ (first : List DueEvent) (s : State), Quiet first s → s.backup.quality ≠ .unset → s.backup.rangeHeld = false →
    DueAhead s → (s.slew.direction = .none ↔ s.authority.active = none) →
    (s.backup.count = 3155759999999999 ∧ (s.slew.direction = .negative → s.slew.blockElapsed < 999)) ∨
      (s.backup.count = 3155759999999998 ∧ s.slew.direction = .positive ∧ s.slew.blockElapsed = 999) →
    ∃ u v w t,
      (∀ part ∈ [Advance.whole first, .count first], exec (.timebaseAdvance part) s = .next t ∧
        (s.slew.direction ≠ .none → s.slew.blockElapsed = 999 → exec (.slewBlockEnd part) s = .next t)) ∧
      OnlyChanges [.backup, .slew, .monitor, .lines, .channels, .digest] s u ∧ CountedOne s u ∧
      (s.authority.active = none → u.slew = s.slew) ∧
      u.backup = { s.backup with count := 3155759999999999, rangeHeld := true } ∧
      FiresInOrder false (s.dueAt 3155759999999999) u v ∧
      OnlyChanges [.ports] v w ∧ (∀ q, w.port q = (v.port q).raisedIf (s.attached q) .rangeEnd) ∧
      (s.authority.active = none → t = w) ∧
      ∀ a, s.authority.active = some a → SlewEnds a s.slew.remaining w t

/-! ## The schedule table -/

/-- The next match of a CALENDAR pattern is the earliest matching instant after an instant and within the range (R93), and
a missed count is the number of matching instants passed over, up to 65,535 (R106). -/
def Obligations.CalendarMatchesFound : Prop :=
  ∀ (pat : Pattern) (offset now : Nat), offset ≤ 999999 →
    (∀ m, nextMatch pat offset now = some m ↔
      now < m ∧ m ≤ 3155759999999999 ∧ calendarMatches pat offset m = true ∧
        ∀ k, now < k → k < m → calendarMatches pat offset k = false) ∧
    (nextMatch pat offset now = none ↔
      ∀ k, now < k → k ≤ 3155759999999999 → calendarMatches pat offset k = false) ∧
    ∀ last, last ≤ 3155759999999999 → countMatches pat offset last 65535 now =
      min 65535 (((Finset.Ioc now last).filter fun k => calendarMatches pat offset k = true).card)

/-- ARM_ENTRY is refused in the order of R74: a field out of its rule, the time unset, a line or a source channel that is
not the requester's, the quota, no FREE entry, and then an AT target at or before now without late-ok, or a CALENDAR
definition with no match left. That a presence or flag byte that is neither 0 nor 1 is a field out of its rule, and that
the value bytes of an absent field are not looked at, is the model's choice (log 8). -/
def Obligations.ArmEntryRefusesInOrder : Prop :=
  ∀ (p : Port) (f : ArmFields) (s : State), Ready s p → ∃ t, exec (.armEntry p f) s = .next t ∧
    let n := f.defn.length + 16
    if armAcceptable f = false then Refused p n .badArg s t
    else if s.backup.quality = .unset then Refused p n .noTime s t
    else if (∃ l : LineNo, f.linePresence = 1 ∧ l.val = f.line.toNat ∧ (s.line l).owner ≠ some p) ∨
        (∃ c : ChanNo, f.defn.kind = 3 ∧ f.defn.bytes.head? = some (byteOf c.val) ∧
          (s.channel c).owner ≠ some p) then Refused p n .notOwner s t
    else if s.schedule.quotas.get p ≤
        ((List.finRange 64).filter fun i => (s.entry i).body.any fun b => decide (b.owner = p)).length then
      Refused p n .quota s t
    else if ∀ i, (s.entry i).body ≠ none then Refused p n .noRoom s t
    else
      (∀ target, definitionOf f.defn = some (.atTime target) → target ≤ s.backup.count → f.lateOk = 0 →
        Refused p n .tooLate s t) ∧
      ∀ pat offset, definitionOf f.defn = some (.calendar pat offset) → nextMatch pat offset s.backup.count = none →
        Refused p n .badArg s t

/-- An ARM_ENTRY that no step of R74 refuses takes the FREE entry of the lowest index, whose handle number rises by one,
with the definition sent: WAITING for AFTER, ARMED otherwise with its first due time; an AT target at or before now with
late-ok fires at once (R63, R75, R76, R89, R90, R93). What the bytes of an absent field hold is not looked at (the model's
choice, log 8). -/
def Obligations.ArmEntryAllocates : Prop :=
  ∀ (p : Port) (f : ArmFields) (s : State) (i : EntryIx) (d : Definition), Ready s p → armAcceptable f = true →
    definitionOf f.defn = some d → s.backup.quality ≠ .unset →
    (∀ l : LineNo, f.linePresence = 1 → l.val = f.line.toNat → (s.line l).owner = some p) →
    (∀ c kinds delay policy, d = .after c kinds delay policy → (s.channel c).owner = some p) →
    ((List.finRange 64).filter fun i => (s.entry i).body.any fun b => decide (b.owner = p)).length <
      s.schedule.quotas.get p →
    (s.entry i).body = none → (∀ j, j < i → (s.entry j).body ≠ none) →
    byteOf d.code = f.defn.kind ∧ d.block = f.defn.bytes ∧
    ∃ t, exec (.armEntry p f) s = .next t ∧
      let n := f.defn.length + 16
      let inst := (s.entry i).inst + 1
      let body := fun r : RunState => ({
        owner := p, defn := d, run := r,
        remaining := if f.remaining.presence = 1 then some f.remaining.value.toNat else none,
        line := if h : f.linePresence = 1 ∧ f.line.toNat < 16 then
            (actionOf f.action).map fun a => (⟨f.line.toNat, h.2⟩, a) else none,
        record := if f.record.presence = 1 then some f.record.value.toNat else none,
        shareable := decide (f.shareable = 1), tag := f.tag, keep := decide (f.keep = 1), last := none,
        fireCount := 0 } : Body)
      let taken := fun r : RunState => EntryAnswered p n i { inst := inst, body := some (body r) } 1 1
        ([byteOf i.val, inst] ++ t.shownEntry i false ++ [0, 0] ++ t.bothGenerations) s t
      match d with
      | .atTime target =>
        (s.backup.count < target → taken (.armed target)) ∧
        (target ≤ s.backup.count → f.lateOk = 1 →
          FiresAtOnce p n i inst (body (.armed target)) 1 1 target 0
            ([byteOf i.val, inst] ++ t.shownEntry i false ++ [0, 1] ++ t.bothGenerations) s t)
      | .every a per => taken (.armed
          (if s.backup.count < a then a else a + ((s.backup.count - a) / per + 1) * per))
      | .calendar pat off => ∀ m, nextMatch pat off s.backup.count = some m → taken (.armed m)
      | .after _ _ _ _ => taken .waiting

/-- RETIME_ENTRY: a kind byte that names no kind is BAD_ARG (R180 step 4); the handle and the owner, then the fields, the
kind, late-ok and the state (R77; a late-ok byte above 1 is BAD_ARG, log 8); an ARMED entry takes the new definition and
its due time, or fires at once (R78); a HELD one stays HELD with it (R79). -/
def Obligations.RetimeEntryReplaces : Prop :=
  ∀ (p : Port) (a b late : Byte) (block : DefBlock) (s : State), Ready s p →
    (∀ k, ∃ t, exec (.retimeEntry p a b (.unknown k) late) s = .next t ∧ Refused p 4 .badArg s t) ∧
    ((∀ k, block ≠ .unknown k) →
    ∃ t, exec (.retimeEntry p a b block late) s = .next t ∧ OwnedHandle p (block.length + 4) a b s t fun i e =>
      let n := block.length + 4
      let refused := fun x : Status => Refused p n x s t
      (blockInRange block = false ∨ 1 < late.toNat → refused .badArg) ∧
      (blockInRange block = true → late.toNat ≤ 1 → ∀ d, definitionOf block = some d →
        d.block = block.bytes ∧
        let same : Prop := match d, e.defn with
          | .after c k _ pol, .after c' k' _ pol' => c = c' ∧ k = k' ∧ pol = pol'
          | x, y => x.code = y.code
        let becomes := fun r : RunState =>
          EntryAnswered p n i { inst := b, body := some { e with defn := d, run := r } } 1 1
            (t.shownEntry i true ++ t.bothGenerations) s t
        let moved := fun (due : Nat) (fires : Bool) (stays : Nat → RunState) =>
          match d with
          | .atTime target =>
            if s.backup.count < target then becomes (stays target)
            else if late = 0 then refused .tooLate
            else if fires = false then becomes (stays target)
            else FiresAtOnce p n i b { e with defn := d, run := .armed target } 1 1 target 0
              (t.shownEntry i true ++ t.bothGenerations) s t
          | .every anchor per => becomes (stays
              (if s.backup.count < anchor then anchor
              else anchor + ((s.backup.count - anchor) / per + 1) * per))
          | .calendar pat off =>
            match nextMatch pat off s.backup.count with
            | some m => becomes (stays m)
            | none => refused .badArg
          | .after _ _ _ _ => becomes (stays due)
        (¬ same ∨ late = 1 ∧ block.kind ≠ 0 → refused .badArg) ∧
        (same → (late = 1 → block.kind = 0) →
          match e.run with
          | .waiting => refused .badArg
          | .spent => refused .badArg
          | .heldWaiting => becomes .heldWaiting
          | .armed due => moved due true .armed
          | .heldArmed due => moved due false .heldArmed)))

/-- HOLD_ENTRY takes an ARMED or WAITING entry to HELD, keeping a due time; UNHOLD_ENTRY takes it back, and fires it late
in the same event where its kept due time is at or before now. An entry already so is left as it is; a SPENT one is
refused (R80, R81, R108). -/
def Obligations.HoldAndUnholdEntry : Prop :=
  ∀ (p : Port) (a b : Byte) (s : State), Ready s p →
    (∃ t, exec (.holdEntry p a b) s = .next t ∧ OwnedHandle p 2 a b s t fun i e =>
      let becomes := fun r : RunState => EntryAnswered p 2 i { inst := b, body := some { e with run := r } } 0 1
        ([3, byteOf r.heldFrom] ++ t.bothGenerations) s t
      match e.run with
      | .armed d => becomes (.heldArmed d)
      | .waiting => becomes .heldWaiting
      | .heldArmed _ => Reported p 2 ([3, 2] ++ s.bothGenerations) s t
      | .heldWaiting => Reported p 2 ([3, 1] ++ s.bothGenerations) s t
      | .spent => Refused p 2 .badArg s t) ∧
    (∃ t, exec (.unholdEntry p a b) s = .next t ∧ OwnedHandle p 2 a b s t fun i e =>
      let shown := t.shownEntry i false ++ t.bothGenerations
      let becomes := fun r : RunState => EntryAnswered p 2 i { inst := b, body := some { e with run := r } } 0 1 shown s t
      match e.run with
      | .heldWaiting => becomes .waiting
      | .heldArmed d =>
        if s.backup.count < d then becomes (.armed d)
        else FiresAtOnce p 2 i b { e with run := .armed d } 0 1 d (e.missedAt d s.backup.count) shown s t
      | .armed _ => Reported p 2 shown s t
      | .waiting => Reported p 2 shown s t
      | .spent => Refused p 2 .badArg s t)

/-- CANCEL_ENTRY frees the entry of its owner: both generations rise, and its subscriptions end with their records (R82,
R83, R159). SET_QUOTA gives a port its quota, from the holder alone (R69). -/
def Obligations.CancelEntryAndSetQuota : Prop :=
  ∀ (p : Port) (a b : Byte) (s : State), Ready s p →
    (∃ t, exec (.cancelEntry p a b) s = .next t ∧ OwnedHandle p 2 a b s t fun i _ =>
      let ends := fun u : Subscription => decide (u.source = .entry i b)
      OnlyChanges [.schedule, .subs, .digest, .ports] s t ∧ EntrySet i { inst := b, body := none } 1 1 s t ∧
        SubsEnd ends s t ∧
        ∀ q, t.port q =
          (if q = p then (s.port p).replied 2 { status := .ok, fields := t.bothGenerations } else s.port q).storesIf
            (s.attached q) (s.endedRecords ends s.stamp q)) ∧
    (∃ t, exec (.setQuota p a b) s = .next t ∧
      if s.authority.holder ≠ some p then Refused p 2 .notAuthority s t
      else if h : a.toNat < 4 ∧ b.toNat ≤ 64 then
        OnlyChanges [.schedule, .ports] s t ∧
          t.schedule = { s.schedule with quotas := s.schedule.quotas.set a.toNat b.toNat h.1 } ∧
          Replied p 2 { status := .ok, fields := [a, b, byteOf
            ((List.finRange 64).filter fun i => (s.entry i).body.any fun e =>
              decide (e.owner.val = a.toNat)).length] } s t
      else Refused p 2 .badArg s t)

/-- A SET_TIME or STEP applied at or after the old time resolves every overdue entry in ascending order of index: each
fires once, late, with its missed count and its next due time found from the new now (R105 to R107). One applied before it
fires nothing and finds the due time of every CALENDAR entry that is ARMED or held from ARMED again (R110; one that has no
match left keeps the due time it had, the model's choice, log 22, and one left ARMED for the new now by a value passed over
is found again too, log 31). The subscriptions to the entries that this event frees end in one ascending order of index,
after its firings (R159; log 27). TIME_STEPPED follows at every attached port (R50). -/
def Obligations.StepResolvesOrRecomputes : Prop :=
  ∀ (p : Port) (n value : Nat) (c : Instr) (s : State), Ready s p → s.authority.holder = some p →
    s.authority.active = none → s.backup.quality ≠ .unset → value ≤ 3155759999999999 →
    (∃ (seconds : BitVec 32) (micros : BitVec 24), c = .setTime p seconds micros ∧ n = 7 ∧ micros.toNat ≤ 999999 ∧
        value = seconds.toNat * 1000000 + micros.toNat) ∨
      (∃ amount : BitVec 32, c = .step p amount ∧ n = 4 ∧ amount ≠ 0 ∧
        (value : Int) = (s.backup.count : Int) + amount.toInt) →
    ∃ u t, exec c s = .next t ∧
      OnlyChanges [.backup, .ports] s u ∧
      u.backup = { s.backup with count := value, rangeHeld := false, epoch := s.backup.epoch + 1 } ∧
      PortBecomes p ((s.port p).replied n
        { status := .ok, fields := bytesBE 2 u.backup.epoch.toNat ++ u.stamp.bytes }) s u ∧
      Stepped s.backup.count [] u t

/-! ## Trigger lines -/

/-- CLAIM_LINE gives a line without owner to the requester, RELEASE_LINE takes an unpinned line that no entry names back
to IDLE and no owner, PIN_LINE pins it for good (R116 to R118). -/
def Obligations.LinesClaimedReleasedPinned : Prop :=
  ∀ (p : Port) (n : Byte) (s : State), Ready s p →
    (∃ t, exec (.claimLine p n) s = .next t ∧
      if h : n.toNat < 16 then
        let x := s.line ⟨n.toNat, h⟩
        let fields := [1, byteOf p.val, flagByte x.pinned, byteOf (pinCode x.idleLevel)] ++ bytesBE 2 x.width ++
          bytesBE 2 x.holdLimit ++ [byteOf x.drive.code]
        if x.owner = none then
          OnlyChanges [.lines, .ports] s t ∧ LineBecomes ⟨n.toNat, h⟩ { x with owner := some p } s t ∧
            Replied p 1 { status := .ok, fields := fields } s t
        else if x.owner = some p then Reported p 1 fields s t
        else Refused p 1 .owned s t
      else Refused p 1 .badArg s t) ∧
    (∃ t, exec (.releaseLine p n) s = .next t ∧
      if h : n.toNat < 16 then
        let x := s.line ⟨n.toNat, h⟩
        if x.owner ≠ some p then Refused p 1 .notOwner s t
        else if x.pinned = true then Refused p 1 .pinned s t
        else if ∃ i, (s.entry i).body.any (Body.namesLine ⟨n.toNat, h⟩) = true then Refused p 1 .inUse s t
        else OnlyChanges [.lines, .ports] s t ∧
          LineBecomes ⟨n.toNat, h⟩ { x with owner := none, drive := .idle, last := none } s t ∧
          Replied p 1 { status := .ok, fields := [] } s t
      else Refused p 1 .badArg s t) ∧
    (∃ t, exec (.pinLine p n) s = .next t ∧
      if h : n.toNat < 16 then
        let x := s.line ⟨n.toNat, h⟩
        if x.owner ≠ some p then Refused p 1 .notOwner s t
        else OnlyChanges [.lines, .ports] s t ∧ LineBecomes ⟨n.toNat, h⟩ { x with pinned := true } s t ∧
          Replied p 1 { status := .ok, fields := [1] } s t
      else Refused p 1 .badArg s t)

/-- CONFIGURE_LINE in the order of R119; DRIVE_LINE applies an action by the table of R120, writes it as the line's last
action and answers with the drive state and the output level (R124). -/
def Obligations.LinesConfiguredAndDriven : Prop :=
  ∀ (p : Port) (n v : Byte) (width limit : BitVec 16) (s : State), Ready s p →
    (∃ t, exec (.configureLine p n v width limit) s = .next t ∧
      if h : n.toNat < 16 then
        let x := s.line ⟨n.toNat, h⟩
        if 1 < v.toNat ∨ width = 0 then Refused p 6 .badArg s t
        else if x.owner ≠ some p then Refused p 6 .notOwner s t
        else if x.drive ≠ .idle then Refused p 6 .notStopped s t
        else OnlyChanges [.lines, .ports] s t ∧
          LineBecomes ⟨n.toNat, h⟩ { x with
            idleLevel := if v = 1 then .high else .low, width := width.toNat, holdLimit := limit.toNat } s t ∧
          Replied p 6 { status := .ok, fields := [v] ++ bytesBE 2 width.toNat ++ bytesBE 2 limit.toNat ++ [v] } s t
      else Refused p 6 .badArg s t) ∧
    (∃ t, exec (.driveLine p n v) s = .next t ∧
      if h : n.toNat < 16 then
        let x := s.line ⟨n.toNat, h⟩
        let start : Drive := .held (if x.holdLimit = 0 then none else some (x.holdLimit * 1000))
        let driven := fun (a : LineAction) (d : Drive) => OnlyChanges [.lines, .ports] s t ∧
          LineBecomes ⟨n.toNat, h⟩
            { x with drive := d, last := some { source := .drive p, action := a, stamp := s.stamp } } s t ∧
          Replied p 2 { status := .ok, fields := [byteOf d.code, byteOf (pinCode
            (if d = .idle then x.idleLevel else if x.idleLevel = .low then .high else .low))] ++ s.stamp.bytes } s t
        if 3 < v.toNat then Refused p 2 .badArg s t
        else if x.owner ≠ some p then Refused p 2 .notOwner s t
        else if v = 0 then driven .pulse (.pulsing x.width)
        else if v = 1 then driven .assert start
        else if v = 2 then driven .deassert .idle
        else driven .toggle (if x.drive = .idle then start else .idle)
      else Refused p 2 .badArg s t)

/-- A pulse whose time has passed ends without a record (R121); a hold whose time has passed ends with LINE_TIMEOUT to
the owner at level 5, the hold limit its value (R122). Before that neither does anything (the model's choice, log 4). A
timer's end that an advance names is taken once its device microsecond is counted and before the entries which that advance
reaches fire (R123; that the list in the command says so is the model's choice, log 6). -/
def Obligations.LineTimersEnd : Prop :=
  ∀ (l : LineNo) (s : State), s.running = true →
    (∃ t, exec (.pulseEnd l) s = .next t ∧
      ((s.line l).drive = .pulsing 0 →
        OnlyChanges [.lines] s t ∧ LineBecomes l { s.line l with drive := .idle } s t) ∧
      ((s.line l).drive ≠ .pulsing 0 → t = s)) ∧
    (∃ t, exec (.holdExpiry l) s = .next t ∧
      ((s.line l).drive = .held (some 0) →
        OnlyChanges [.lines, .ports] s t ∧ LineBecomes l { s.line l with drive := .idle } s t ∧
        ∀ q, t.port q = (s.port q).storesIf (decide ((s.line l).owner = some q) && s.attached q)
          [(5, { kind := .lineTimeout, late := false, source := .number l.val, stamp := s.stamp,
                 value := (s.line l).holdLimit, due := none, missed := none, remaining := none })]) ∧
      ((s.line l).drive ≠ .held (some 0) → t = s)) ∧
    (Quiet [] s → (s.line l).drive = .pulsing 1 → s.backup.quality = .unset → s.slew.direction = .none →
      ∃ t, exec (.timebaseAdvance (.whole [.pulseEnd l])) s = .next t ∧
        OnlyChanges [.monitor, .lines, .channels, .digest] s t ∧ t.line l = { s.line l with drive := .idle } ∧
        ∀ k, k ≠ l → t.line k = { s.line k with drive := (s.line k).drive.counted }) ∧
    ∀ (d : DueEvent) (c : Instr), d = .pulseEnd l ∧ c = .pulseEnd l ∨ d = .holdExpiry l ∧ c = .holdExpiry l →
      Quiet [] s → DueAhead s → s.slew.direction = .none ∨ s.slew.blockElapsed < 999 →
      s.backup.count < Config.endOfRange → s.backup.quality ≠ .unset → s.backup.rangeHeld = false →
      ∃ u e v t, exec (.timebaseAdvance (.whole [d])) s = .next t ∧
        OnlyChanges [.monitor, .lines, .channels, .digest] s u ∧ CountedOne s u ∧ exec c u = .next e ∧
        OnlyChanges [.backup, .slew] e v ∧ v.backup = { s.backup with count := s.backup.count + 1 } ∧
        v.slew = (if s.slew.direction = .none then s.slew
          else { s.slew with blockElapsed := s.slew.blockElapsed + 1 }) ∧
        FiresInOrder false (s.dueAt (s.backup.count + 1)) v t

/-! ## Capture channels -/

/-- CLAIM_CHANNEL gives a channel without owner to the requester; RELEASE_CHANNEL stops and gives up one that no AFTER
entry names, its subscriptions ending with their records (R135, R136, R159). -/
def Obligations.ChannelsClaimedAndReleased : Prop :=
  ∀ (p : Port) (n : Byte) (s : State), Ready s p →
    (∃ t, exec (.claimChannel p n) s = .next t ∧
      if h : n.toNat < 8 then
        let x := s.channel ⟨n.toNat, h⟩
        let fields := [1, byteOf p.val, flagByte x.shareable, byteOf x.mode.code, byteOf x.edge.code,
          byteOf x.source.code, byteOf x.level] ++ bytesBE 2 x.reload ++ bytesBE 2 x.counter ++ [flagByte x.running]
        if x.owner = none then
          OnlyChanges [.channels, .ports] s t ∧ ChannelBecomes ⟨n.toNat, h⟩ { x with owner := some p } s t ∧
            Replied p 1 { status := .ok, fields := fields } s t
        else if x.owner = some p then Reported p 1 fields s t
        else Refused p 1 .owned s t
      else Refused p 1 .badArg s t) ∧
    (∃ t, exec (.releaseChannel p n) s = .next t ∧
      if h : n.toNat < 8 then
        let x := s.channel ⟨n.toNat, h⟩
        let ends := fun u : Subscription => decide (u.source = .channel ⟨n.toNat, h⟩)
        if x.owner ≠ some p then Refused p 1 .notOwner s t
        else if ∃ i, (s.entry i).body.any (Body.namesChannel ⟨n.toNat, h⟩) = true then Refused p 1 .inUse s t
        else OnlyChanges [.channels, .subs, .ports] s t ∧
          ChannelBecomes ⟨n.toNat, h⟩ { x with
            owner := none, shareable := false, running := false, measuring := none, counter := x.reload } s t ∧
          SubsEnd ends s t ∧
          ∀ q, t.port q = (if q = p then (s.port p).replied 1 { status := .ok, fields := [] } else s.port q).storesIf
            (s.attached q) (s.endedRecords ends s.stamp q)
      else Refused p 1 .badArg s t)

/-- SHARE_CHANNEL sets or clears the flag, clearing it ending the other ports' subscriptions; CONFIGURE_CHANNEL,
START_CHANNEL, STOP_CHANNEL and SET_RELOAD change what their rules give, for the owner alone (R137 to R141). -/
def Obligations.ChannelsSharedConfiguredStarted : Prop :=
  ∀ (p : Port) (n v : Byte) (reload : BitVec 16) (s : State), Ready s p →
    (∃ t, exec (.shareChannel p n v) s = .next t ∧
      if h : n.toNat < 8 ∧ v.toNat ≤ 1 then
        let c : ChanNo := ⟨n.toNat, h.1⟩
        let ends := fun u : Subscription =>
          decide (v = 0 ∧ (s.channel c).shareable = true ∧ u.source = .channel c ∧ u.subscriber ≠ p)
        if (s.channel c).owner ≠ some p then Refused p 2 .notOwner s t
        else OnlyChanges [.channels, .subs, .ports] s t ∧
          ChannelBecomes c { s.channel c with shareable := decide (v = 1) } s t ∧ SubsEnd ends s t ∧
          ∀ q, t.port q = (if q = p then (s.port p).replied 2 { status := .ok, fields := [v] } else s.port q).storesIf
            (s.attached q) (s.endedRecords ends s.stamp q)
      else Refused p 2 .badArg s t) ∧
    (∀ m e src l : Byte, ∃ t, exec (.configureChannel p n m e src l) s = .next t ∧
      if h : n.toNat < 8 ∧ m.toNat ≤ 3 ∧ e.toNat ≤ 2 ∧ (src = 0x0F ∨ src.toNat < n.toNat) ∧
          1 ≤ l.toNat ∧ l.toNat ≤ 7 then
        let c : ChanNo := ⟨n.toNat, h.1⟩
        if (s.channel c).owner ≠ some p then Refused p 5 .notOwner s t
        else if (s.channel c).running = true then Refused p 5 .notStopped s t
        else if ∃ d : ChanNo, d.val = src.toNat ∧ (s.channel d).owner ≠ some p ∧ (s.channel d).shareable = false then
          Refused p 5 .notOwner s t
        else OnlyChanges [.channels, .ports] s t ∧
          (let x := t.channel c
          ChannelBecomes c { s.channel c with
              mode := x.mode, edge := x.edge, source := x.source, level := l.toNat } s t ∧
            byteOf x.mode.code = m ∧ byteOf x.edge.code = e ∧ byteOf x.source.code = src) ∧
          Replied p 5 { status := .ok, fields := [m, e, src, l] } s t
      else Refused p 5 .badArg s t) ∧
    (∃ t, exec (.startChannel p n) s = .next t ∧
      if h : n.toNat < 8 then
        let x := s.channel ⟨n.toNat, h⟩
        let y : Channel := { x with running := true, measuring := if x.running = true then x.measuring else none }
        if x.owner ≠ some p then Refused p 1 .notOwner s t
        else OnlyChanges [.channels, .ports] s t ∧ ChannelBecomes ⟨n.toNat, h⟩ y s t ∧
          Replied p 1 { status := .ok, fields := ([1] ++
            (if x.mode = .period ∨ x.mode = .width then [1, flagByte y.measuring.isSome] else [0, 0]) ++
            bytesBE 2 x.counter ++ s.stamp.bytes) } s t
      else Refused p 1 .badArg s t) ∧
    (∃ t, exec (.stopChannel p n) s = .next t ∧
      if h : n.toNat < 8 then
        let x := s.channel ⟨n.toNat, h⟩
        if x.owner ≠ some p then Refused p 1 .notOwner s t
        else OnlyChanges [.channels, .ports] s t ∧
          ChannelBecomes ⟨n.toNat, h⟩ { x with running := false, measuring := none } s t ∧
          Replied p 1 { status := .ok, fields := [0] ++ bytesBE 2 x.counter ++ s.stamp.bytes } s t
      else Refused p 1 .badArg s t) ∧
    (∃ t, exec (.setReload p n reload) s = .next t ∧
      if h : n.toNat < 8 ∧ reload ≠ 0 then
        let x := s.channel ⟨n.toNat, h.1⟩
        let y : Channel := { x with
          reload := reload.toNat, counter := if x.running = true then x.counter else reload.toNat }
        if x.owner ≠ some p then Refused p 3 .notOwner s t
        else OnlyChanges [.channels, .ports] s t ∧ ChannelBecomes ⟨n.toNat, h.1⟩ y s t ∧
          Replied p 3 { status := .ok, fields := bytesBE 2 y.reload ++ bytesBE 2 y.counter } s t
      else Refused p 3 .badArg s t)

/-- A new raw level starts, keeps or abandons a qualification (R133); a completed one gives the channel its new filtered
level, and a RUNNING channel acts on the edge by its mode: a stamp, the end of a measurement and the beginning of the
next, a count event (R143 to R145, R147); one that no command has taken yet is taken before the raw level changes again
(the model's choice, log 23). A measurement that has gone on for 4,294,967,296 microseconds overflows (R146), and a count
event that takes a counter to 0 reloads it with an EXPIRY (R147), where the channel's count source can give one: its own
pin, or a RUNNING channel of the same owner or shareable (R148). That COUNTER_EXPIRY stands for the count event itself,
taken at a counter of 1, is the model's choice (log 14). -/
def Obligations.EdgesActByMode : Prop :=
  ∀ (c : ChanNo) (level : PinLevel) (s : State), s.running = true →
    let old := s.channel c
    (∃ t, exec (.capturePinChange c level) s = .next t ∧
      t.pins = { s.pins with cap := s.pins.cap.set c.val level c.isLt } ∧
      (old.qualification ≠ .complete ∨ s.pins.cap.get c = level →
        OnlyChanges [.pins, .channels] s t ∧ ChannelBecomes c { old with
          qualification := if level = old.filtered then .none
            else if old.qualification = .none then .running else old.qualification } s t) ∧
      (old.qualification = .complete → s.pins.cap.get c ≠ level →
        ∃ u, exec (.edgeTaken c) s = .next u ∧ exec (.capturePinChange c level) u = .next t)) ∧
    (old.qualification = .complete → s.pins.cap.get c = level → Unheard c s → ∃ t, exec (.edgeTaken c) s = .next t ∧
      let x : Channel := { old with filtered := level, qualification := .none }
      let selected : Prop := old.edge = .both ∨ (old.edge = .rise ∧ level = .high) ∨ (old.edge = .fall ∧ level = .low)
      let measured := fun k : RecordKind => match old.measuring with
        | none => ChannelOnly c { x with measuring := some 0 } s t
        | some e => ChannelRecords c { x with measuring := some 0 } k (min e 4294967295) s t
      (old.running = false → ChannelOnly c x s t) ∧
      (old.running = true →
        (old.mode ≠ .width → ¬ selected → ChannelOnly c x s t) ∧
        (old.mode = .stamp → selected →
          ChannelRecords c x (if level = .high then .edgeRise else .edgeFall) 0 s t) ∧
        (old.mode = .period → selected → measured .period) ∧
        (old.mode = .width → measured (if level = .high then .widthLow else .widthHigh)) ∧
        (old.mode = .count → old.source ≠ .ownPin → ChannelOnly c x s t) ∧
        (old.mode = .count → old.source = .ownPin → selected →
          (1 < old.counter → ChannelOnly c { x with counter := old.counter - 1 } s t) ∧
          (old.counter = 1 → ChannelRecords c { x with counter := old.reload } .expiry old.reload s t)))) ∧
    (Unheard c s → old.measuring = some 4294967296 → ∃ t, exec (.measurementOverflow c) s = .next t ∧
      ChannelRecords c { old with measuring := none } .overflow 4294967295 s t) ∧
    (let counts : Prop := old.running = true ∧ old.mode = .count ∧ old.counter = 1 ∧
      (old.source = .ownPin ∨ ∃ d, old.source = .channel d ∧ (s.channel d).running = true ∧
        (old.owner = (s.channel d).owner ∨ (s.channel d).shareable = true))
    ∃ t, exec (.counterExpiry c) s = .next t ∧ (¬ counts → t = s) ∧
      (counts → Unheard c s → ChannelRecords c { old with counter := old.reload } .expiry old.reload s t))

/-- A capture record acts on the AFTER entries of its channel whose trigger kinds hold it: a WAITING one is ARMED for the
record's instant plus its delay, an ARMED one likewise under RESTART, and a delay of 0 fires it in the same event, unless
the range is held (R94 to R96, R113). A counting channel counts it where it may, and hands on its own EXPIRY, through chains
of any length (R147, R148). So do the records of every mode, OVERFLOW, which no channel counts, and EXPIRY (R142 to R147).
That the subscriptions to the entries which one such event frees end together at its end is the model's choice (log 27), as
it is that COUNTER_EXPIRY stands for the count event at a counter of 1 (log 14). -/
def Obligations.CaptureRecordsActOnEntriesAndCounters : Prop :=
  (∀ (c : ChanNo) (s : State), s.running = true → (s.channel c).qualification = .complete →
    (s.channel c).running = true → (s.channel c).mode = .stamp → (s.channel c).edge = .both →
    let k : RecordKind := if s.pins.cap.get c = .high then .edgeRise else .edgeFall
    let x : Channel := { s.channel c with filtered := s.pins.cap.get c, qualification := .none }
    let acts : Body → Bool := fun b => match b.defn with
      | .after ch kinds _ pol => decide (ch = c) && kinds.getLsbD k.bit &&
          (decide (b.run = .waiting) || b.run.due.isSome && decide (b.run.code = 2 ∧ pol = .restart))
      | .atTime _ => false
      | .every _ _ => false
      | .calendar _ _ => false
    let delayOf : Body → Nat := fun b => match b.defn with
      | .after _ _ d _ => d
      | .atTime _ => 0
      | .every _ _ => 0
      | .calendar _ _ => 0
    let heard := fun q => (s.port q).storesIf (s.attached q) (s.captureCopies c k 0 q)
    ((∀ d, (s.channel d).source ≠ .channel c) → ∃ t, exec (.edgeTaken c) s = .next t ∧ ChannelBecomes c x s t ∧
      ((∀ i b, (s.entry i).body = some b → acts b = true → 0 < delayOf b) →
        OnlyChanges [.channels, .schedule, .digest, .ports] s t ∧
        (∀ i, t.entry i = { inst := (s.entry i).inst, body := (s.entry i).body.map (fun b =>
          if acts b = true then { b with run := .armed (s.backup.count + delayOf b) } else b) }) ∧
        GenerationsRise 0 ((List.finRange 64).filter fun i => (s.entry i).body.any acts).length s t ∧
        ∀ q, t.port q = heard q) ∧
      ∀ i b, (s.entry i).body = some b → acts b = true → delayOf b = 0 → s.backup.rangeHeld = false →
        (∀ j e, j ≠ i → (s.entry j).body = some e → acts e = false) →
        OnlyChanges [.channels, .schedule, .lines, .subs, .digest, .ports] s t ∧
        ∃ u, EntrySet i { inst := (s.entry i).inst, body := some { b with run := .armed s.backup.count } } 0 1 s u ∧
          OnlyChanges [.schedule, .digest] s u ∧
          Fires true i { b with run := .armed s.backup.count } s.backup.count false 0 u.line u.digest heard u t) ∧
    ∀ d : ChanNo, d ≠ c → (∀ e, (s.channel e).source = .channel c ↔ e = d) →
      (∀ e, (s.channel e).source ≠ .channel d) →
      (∀ i b, (s.entry i).body = some b → b.namesChannel c = false ∧ b.namesChannel d = false) →
      (s.channel d).running = true → (s.channel d).mode = .count →
      ((s.channel d).owner = (s.channel c).owner ∨ (s.channel c).shareable = true) →
      ∃ t, exec (.edgeTaken c) s = .next t ∧ OnlyChanges [.channels, .ports] s t ∧ t.channel c = x ∧
        (∀ e, e ≠ c → e ≠ d → t.channel e = s.channel e) ∧
        let y := s.channel d
        (1 < y.counter → t.channel d = { y with counter := y.counter - 1 } ∧ ∀ q, t.port q = heard q) ∧
        (y.counter = 1 → t.channel d = { y with counter := y.reload } ∧
          ∀ q, t.port q = (heard q).storesIf (s.attached q) (s.captureCopies d .expiry y.reload q))) ∧
  ∀ (c : ChanNo) (s : State), s.running = true →
    let old := s.channel c
    let level := s.pins.cap.get c
    let selected : Prop := old.edge = .both ∨ (old.edge = .rise ∧ level = .high) ∨ (old.edge = .fall ∧ level = .low)
    (old.qualification = .complete → old.running = true → ∃ t, exec (.edgeTaken c) s = .next t ∧
      let x : Channel := { old with filtered := level, qualification := .none }
      (old.mode = .stamp → selected → Produces c x (if level = .high then .edgeRise else .edgeFall) 0 s t) ∧
      (∀ e, old.measuring = some e →
        (old.mode = .period → selected → Produces c { x with measuring := some 0 } .period (min e 4294967295) s t) ∧
        (old.mode = .width → Produces c { x with measuring := some 0 } (if level = .high then .widthLow else .widthHigh)
          (min e 4294967295) s t)) ∧
      (old.mode = .count → old.source = .ownPin → selected → old.counter = 1 →
        Produces c { x with counter := old.reload } .expiry old.reload s t)) ∧
    (old.measuring = some 4294967296 → ∃ t, exec (.measurementOverflow c) s = .next t ∧
      Produces c { old with measuring := none } .overflow 4294967295 s t) ∧
    (old.running = true → old.mode = .count → old.counter = 1 →
      (old.source = .ownPin ∨ ∃ d, old.source = .channel d ∧ (s.channel d).running = true ∧
        (old.owner = (s.channel d).owner ∨ (s.channel d).shareable = true)) →
      ∃ t, exec (.counterExpiry c) s = .next t ∧ Produces c { old with counter := old.reload } .expiry old.reload s t)

/-! ## Subscriptions -/

/-- SUBSCRIBE in the order of R157, into the lowest free entry of the subscription table; UNSUBSCRIBE in the order of
R158. The second source byte of a channel is not looked at (the model's choice, log 17). -/
def Obligations.SubscribeAndUnsubscribe : Prop :=
  ∀ (p : Port) (kind a b kinds level : Byte) (s : State), Ready s p →
    (∃ t, exec (.subscribe p kind a b kinds level) s = .next t ∧
      let placed := fun src : SubSource =>
        if ∀ j, s.sub j ≠ none then Refused p 5 .noRoom s t
        else ∃ j, s.sub j = none ∧ (∀ k, k < j → s.sub k ≠ none) ∧ OnlyChanges [.subs, .ports] s t ∧
          SubBecomes j (some { subscriber := p, source := src, kinds := kinds, level := level.toNat }) s t ∧
          Replied p 5 { status := .ok, fields := [byteOf j.val] } s t
      if level = 0 ∨ 7 < level.toNat then Refused p 5 .badArg s t
      else if h : kind = 0 ∧ a.toNat < 8 ∧ kinds ≠ 0 ∧ kinds.getLsbD 7 = false then
        let x := s.channel ⟨a.toNat, h.2.1⟩
        if x.owner ≠ some p ∧ x.shareable = false then Refused p 5 .notOwner s t
        else placed (.channel ⟨a.toNat, h.2.1⟩)
      else if h : kind = 1 ∧ a.toNat < 64 ∧ kinds = 0x80 then
        let e := s.entry ⟨a.toNat, h.2.1⟩
        if e.body = none ∨ e.inst ≠ b then Refused p 5 .notFound s t
        else if e.body.any (fun x => decide (x.owner = p) || x.shareable) = false then Refused p 5 .notOwner s t
        else placed (.entry ⟨a.toNat, h.2.1⟩ b)
      else Refused p 5 .badArg s t) ∧
    (∃ t, exec (.unsubscribe p a) s = .next t ∧
      if h : a.toNat < 24 then
        match s.sub ⟨a.toNat, h⟩ with
        | none => Refused p 1 .notFound s t
        | some u =>
          if u.subscriber ≠ p then Refused p 1 .notOwner s t
          else OnlyChanges [.subs, .ports] s t ∧ SubBecomes ⟨a.toNat, h⟩ none s t ∧
            Replied p 1 { status := .ok, fields := [] } s t
      else Refused p 1 .badArg s t)

/-! ## The digest -/

/-- DIGEST begins a walk, with its port EXECUTING and its slot PENDING (R172). Each index is examined once its 20
microseconds have passed, the canonical form of an entry in scope being fed to the CRC (R173, R174), and index 63 ends the
walk with its response, STALE where the watched generation changed (R175). That nothing happens before then is the
model's choice (log 4). -/
def Obligations.DigestBeginsAndExamines : Prop :=
  (∀ (p : Port) (a b : Byte) (s : State), Ready s p → ∃ t, exec (.digest p a b) s = .next t ∧
    if 1 < a.toNat ∨ 1 < b.toNat then Refused p 2 .badArg s t
    else if s.digest.isSome = true then Refused p 2 .busy s t
    else OnlyChanges [.digest, .ports] s t ∧
      t.digest = some { requester := p, scope := if a = 1 then .all else .own,
                        content := if b = 1 then .full else .definition,
                        startGen := if b = 1 then s.schedule.fullGen else s.schedule.defGen, changed := false,
                        nextIndex := 0, crc := 0xFFFFFFFF#32, fed := 0, elapsed := 0 } ∧
      PortBecomes p { s.port p with
        state := .executing, slot := .pending, miso := (s.port p).shownStatus :: List.replicate 4 0xFF,
        transfer := .idle } s t) ∧
  ∀ (s : State) (w : Walk), s.running = true → s.digest = some w →
    ∃ t, exec .digestExamineIndex s = .next t ∧
      (w.elapsed < 20 * (w.nextIndex + 1) → t = s) ∧
      ∀ h : w.nextIndex < 64, 20 * (w.nextIndex + 1) ≤ w.elapsed →
        let form := fun b : Body => [byteOf b.owner.val, byteOf b.defn.code] ++ padTo 11 b.defn.block ++
          (match b.line with
            | none => [0, 0, 0]
            | some x => [1, byteOf x.1.val, byteOf x.2.code]) ++
          (match b.record with
            | none => [0, 0]
            | some l => [1, byteOf l]) ++ [flagByte b.shareable] ++ bytesBE 4 b.tag.toNat ++
          (if w.content = .definition then []
          else [byteOf b.run.code, byteOf b.run.heldFrom] ++
            (match b.run.due with
              | none => List.replicate 8 0
              | some d => 1 :: bytesBE 4 (d / 1000000) ++ bytesBE 3 (d % 1000000)) ++
            (match b.remaining with
              | none => [0, 0, 0]
              | some r => 1 :: bytesBE 2 r) ++ bytesBE 2 b.fireCount)
        let fed := ((s.entry ⟨w.nextIndex, h⟩).body.filter fun b =>
          decide (w.scope = .all ∨ b.owner = w.requester)).map form
        let next : Walk := { w with
          nextIndex := w.nextIndex + 1, crc := crc32Feed w.crc (fed.getD []), fed := w.fed + fed.toList.length }
        (w.nextIndex < 63 → OnlyChanges [.digest] s t ∧ t.digest = some next) ∧
        (w.nextIndex = 63 → OnlyChanges [.digest, .ports] s t ∧ t.digest = none ∧
          PortBecomes w.requester { s.port w.requester with
            state := .ready,
            slot := .ready { status := if w.changed = true then .stale else .ok,
                             fields := [byteOf w.scope.code, byteOf w.content.code] ++
                               bytesBE 4 (next.crc ^^^ 0xFFFFFFFF#32).toNat ++ [byteOf next.fed] ++
                               bytesBE 4 w.startGen.toNat ++
                               bytesBE 4 (if w.content = .full then s.schedule.fullGen
                                 else s.schedule.defGen).toNat } } s t)

/-! ## Resets and supplies -/

/-- A port whose PRST goes low, and one that DETACHes, give up everything they hold, and are in RESET_HOLD or READY with
DETACH among their causes (R169, R182, R183); the subscriptions to what they held end in one ascending order of index
(R159; log 27). A transaction at a port whose PRST goes low is abandoned (R178); a port whose PRST goes high is READY
with PORT_RESET among its causes (R178, R183). That an edge of PRST which changes nothing else moves the pin alone is the
model's choice (log 4). -/
def Obligations.PortsResetDetachAndReturn : Prop :=
  ∀ (p : Port) (s : State), s.running = true →
    let gone : PortUnit := { s.port p with queue := [], gapPending := false, conditions := 0, mask := 0, slot := .empty }
    let broken : Transfer := if (s.port p).transfer = .idle then .idle else .abandoned
    let parts : List Part := [.slew, .authority, .schedule, .lines, .channels, .subs, .digest, .ports]
    (∃ t, exec (.portReset p) s = .next t ∧ t.pins = { s.pins with prst := s.pins.prst.set p.val .low p.isLt } ∧
      (s.attached p = false → OnlyChanges [.pins] s t) ∧
      (s.attached p = true → OnlyChanges (.pins :: parts) s t ∧
        GivesUp p { gone with state := .resetHold, transfer := broken } s t)) ∧
    (Ready s p → (∀ w, s.digest = some w → w.requester ≠ p) → ∃ t, exec (.detach p) s = .next t ∧
      OnlyChanges parts s t ∧
      GivesUp p { gone with
        causes := (s.port p).causes ||| 0x10#5, miso := (s.port p).shownStatus :: List.replicate 2 0xFF,
        transfer := .idle } s t) ∧
    (∃ t, exec (.portLeavesResetHold p) s = .next t ∧
      t.pins = { s.pins with prst := s.pins.prst.set p.val .high p.isLt } ∧
      (s.attached p = true → OnlyChanges [.pins] s t) ∧
      (s.attached p = false → OnlyChanges [.pins, .ports] s t ∧
        PortBecomes p { s.port p with state := .ready, causes := (s.port p).causes ||| 0x08#5 } s t))

/-- A device reset holds the main domain at its reset values and examines the quality (R6, R21); the part then leaves
reset with its ports, holder, monitor and causes as R185, R39, R38 and R183 give them. The loss of the main supply leaves
the backup domain alone (R18), a power-on with the retention mark keeps it (R19), one without it resets it (R20), and the
backup supply decides the mark (R18). A part that does not run goes on counting in its backup domain alone (R18, R21).
These are the model's choices: the hold from the moment RESET goes low (log 15); every port in RESET_HOLD meanwhile, a
transaction at it abandoned (log 9), and MISO empty (log 21); a power-on with RESET held stays in reset, and the causes
then added (log 16); a backup domain that comes back after both supplies were absent (log 13); a command that finds nothing
to do, as DEVICE_RESET with RESET already held and a supply that is already so, moves its pin alone (log 4); the parts of
the command that advances the timebase (log 30). -/
def Obligations.ResetsAndSupplies : Prop :=
  ∀ (straps : BitVec 3) (s : State),
    let main : List Part := [.backup, .slew, .monitor, .authority, .schedule, .unfired, .lines, .channels, .subs, .digest,
      .ports, .pins, .leaveCauses]
    let examined : Quality := if s.backup.quality = .unset then .unset else .freeRun
    let broken := fun t : State => ∀ p, (t.port p).transfer = if (s.port p).transfer = .idle then .idle else .abandoned
    (s.running = true → ∃ t, exec .deviceReset s = .next t ∧ OnlyChanges main s t ∧ HeldInReset t ∧ broken t ∧
      t.backup = { s.backup with quality := examined } ∧ t.pins = { s.pins with resetHeld := true } ∧
      t.leaveCauses = 4) ∧
    (s.running = false → ∃ t, exec .deviceReset s = .next t ∧ OnlyChanges [.pins] s t ∧
      t.pins = { s.pins with resetHeld := true }) ∧
    (HeldInReset s → s.pins.resetHeld = true → s.pins.mainSupply = true →
      ∃ t, exec (.partLeavesReset straps) s = .next t ∧ OnlyChanges main s t ∧ LeftReset straps s.leaveCauses t ∧
        broken t ∧ t.backup = s.backup ∧ t.pins = { s.pins with resetHeld := false }) ∧
    (s.pins.mainSupply = true → ∃ t, exec .mainSupplyLoss s = .next t ∧ HeldInReset t ∧ broken t ∧
      OnlyChanges [.backup, .slew, .monitor, .authority, .schedule, .unfired, .lines, .channels, .subs, .digest, .ports,
        .pins] s t ∧
      t.backup = { s.backup with
        quality := if s.backup.quality = .tracking then .holdover else s.backup.quality,
        retention := s.backup.retention && s.pins.backupSupply } ∧
      t.pins = { s.pins with mainSupply := false }) ∧
    (s.pins.mainSupply = false → s.backup.retention = true →
      ∃ t, exec (.powerOnRetained straps) s = .next t ∧ OnlyChanges main s t ∧ broken t ∧
        t.backup = { s.backup with quality := examined } ∧ t.pins = { s.pins with mainSupply := true } ∧
        (s.pins.resetHeld = false → LeftReset straps 1 t) ∧
        (s.pins.resetHeld = true → HeldInReset t ∧ t.leaveCauses = 1)) ∧
    (s.pins.mainSupply = false → s.backup.retention = false →
      ∃ t, exec (.powerOnBackupLost straps) s = .next t ∧ OnlyChanges main s t ∧ broken t ∧
        t.backup = { count := 0, epoch := 0, quality := .unset, rangeHeld := false, source := .notChosen, key := none,
                     retention := true } ∧
        t.pins = { s.pins with mainSupply := true } ∧
        (s.pins.resetHeld = false → LeftReset straps 3 t) ∧
        (s.pins.resetHeld = true → HeldInReset t ∧ t.leaveCauses = 3)) ∧
    (s.running = false → ∀ first, exec (.timebaseAdvance (.firings first)) s = .next s ∧
      ∀ part ∈ [Advance.whole first, .count first], ∃ t, exec (.timebaseAdvance part) s = .next t ∧
      OnlyChanges [.backup] s t ∧
      t.backup =
        if (s.pins.mainSupply = true ∨ s.pins.backupSupply = true) ∧ s.backup.quality ≠ .unset ∧
            s.backup.rangeHeld = false then
          if s.backup.count < 3155759999999999 then { s.backup with count := s.backup.count + 1 }
          else { s.backup with count := 3155759999999999, rangeHeld := true }
        else s.backup) ∧
    (∃ t, exec .backupSupplyLoss s = .next t ∧ OnlyChanges [.backup, .pins] s t ∧
      t.pins = { s.pins with backupSupply := false } ∧
      t.backup = { s.backup with retention := s.backup.retention && s.pins.mainSupply }) ∧
    (∃ t, exec .backupSupplyReturn s = .next t ∧ t.pins = { s.pins with backupSupply := true } ∧
      (s.pins.mainSupply = true ∨ s.backup.retention = true → OnlyChanges [.pins] s t) ∧
      (s.pins.mainSupply = false → s.backup.retention = false → OnlyChanges [.backup, .pins, .freeCount] s t ∧
        t.backup.retention = true ∧ TimeInRange t.backup ∧ t.backup.quality ≠ .tracking))

/-! ## Properties that every step keeps -/

/-- The state after reset has every property that the statements below keep; the levels of its pins are the model's choice
(log 1). -/
def Obligations.InvariantsHoldAtReset : Prop :=
  QueuesOrdered State.reset ∧ PortsConsistent State.reset ∧ TimeConsistent State.reset ∧
    SupervisorConsistent State.reset ∧ TableConsistent State.reset ∧ DueAhead State.reset ∧
    LinesConsistent State.reset ∧ ChannelsConsistent State.reset ∧ SubsConsistent State.reset

/-- Every step keeps every event queue ordered by level and within its 32 copies (R160, R161). -/
def Obligations.StepsKeepQueuesOrdered : Prop :=
  ∀ s t : State, QueuesOrdered s → step s = .next t → QueuesOrdered t

/-- Every step keeps what a port in RESET_HOLD holds to nothing, and EXECUTING, PENDING and the walk together, and of
what a port sampled as CS went low it keeps the status byte saying EXECUTING exactly where the slot was PENDING (R179,
R188). That every port is in RESET_HOLD while the part does not run, that an abandoned transaction is ignored to its
end, and that a port holds what it sampled as CS went low, are the model's choices (log 9). -/
def Obligations.StepsKeepPortsConsistent : Prop :=
  ∀ s t : State, PortsConsistent s → step s = .next t → PortsConsistent t

/-- Every step keeps the count in its range, and the slew and its slot in the queue together. -/
def Obligations.StepsKeepTimeConsistent : Prop :=
  ∀ s t : State, PortsConsistent s → TimeConsistent s → step s = .next t → TimeConsistent t

/-- Every step keeps the monitor's state, count and selection together with the quality (R25, R30, R33, R36). The model's
choices in it are the two microseconds without an edge (log 10), that none is counted in REF_OFF and REF_ABSENT (log 26),
and REF_OFF while the part does not run (log 15). -/
def Obligations.StepsKeepSupervisorConsistent : Prop :=
  ∀ s t : State, PortsConsistent s → SupervisorConsistent s → step s = .next t → SupervisorConsistent t

/-- Every step keeps the entries consistent and the due time of every ARMED one ahead of the count, but for those whose
firings a part of an advance has left (the model's choice, log 30) (R22, R60 to R62, R65, R74, R87, R88, R113). -/
def Obligations.StepsKeepTableConsistent : Prop :=
  ∀ s t : State, PortsConsistent s → TimeConsistent s → TableConsistent s → DueAhead s → step s = .next t →
    TableConsistent t ∧ DueAhead t

/-- Every step keeps the lines consistent with their owners and with the entries that name them (R61, R114, R115). -/
def Obligations.StepsKeepLinesConsistent : Prop :=
  ∀ s t : State, LinesConsistent s → step s = .next t → LinesConsistent t

/-- Every step keeps the channels consistent with their owners and with the entries that name them (R61, R132, R134). -/
def Obligations.StepsKeepChannelsConsistent : Prop :=
  ∀ s t : State, ChannelsConsistent s → step s = .next t → ChannelsConsistent t

/-- Every step keeps the subscriptions to sources that stand and that their subscribers may hear (R156, R159, R169). -/
def Obligations.StepsKeepSubsConsistent : Prop :=
  ∀ s t : State, PortsConsistent s → SubsConsistent s → step s = .next t → SubsConsistent t
end

