-- ==== Sys2Proof/Laws/State.lean ====
section
/-! SUPPORT. What each update of the state leaves in each part of it, one lemma a part and an update, and what the views of
the state show after the updates that do not reach them: all of them by definition. -/

namespace Sys2Proof.Machine

variable (s : State)

/-! ### setPort -/

@[simp] theorem State.setPort_backup (p : Port) (u : PortUnit) : (s.setPort p u).backup = s.backup := rfl
@[simp] theorem State.setPort_slew (p : Port) (u : PortUnit) : (s.setPort p u).slew = s.slew := rfl
@[simp] theorem State.setPort_monitor (p : Port) (u : PortUnit) : (s.setPort p u).monitor = s.monitor := rfl
@[simp] theorem State.setPort_authority (p : Port) (u : PortUnit) : (s.setPort p u).authority = s.authority := rfl
@[simp] theorem State.setPort_schedule (p : Port) (u : PortUnit) : (s.setPort p u).schedule = s.schedule := rfl
@[simp] theorem State.setPort_unfired (p : Port) (u : PortUnit) : (s.setPort p u).unfired = s.unfired := rfl
@[simp] theorem State.setPort_lines (p : Port) (u : PortUnit) : (s.setPort p u).lines = s.lines := rfl
@[simp] theorem State.setPort_channels (p : Port) (u : PortUnit) : (s.setPort p u).channels = s.channels := rfl
@[simp] theorem State.setPort_subs (p : Port) (u : PortUnit) : (s.setPort p u).subs = s.subs := rfl
@[simp] theorem State.setPort_digest (p : Port) (u : PortUnit) : (s.setPort p u).digest = s.digest := rfl
@[simp] theorem State.setPort_ports (p : Port) (u : PortUnit) : (s.setPort p u).ports = s.ports.set p.val u p.isLt := rfl
@[simp] theorem State.setPort_pins (p : Port) (u : PortUnit) : (s.setPort p u).pins = s.pins := rfl
@[simp] theorem State.setPort_leaveCauses (p : Port) (u : PortUnit) : (s.setPort p u).leaveCauses = s.leaveCauses := rfl
@[simp] theorem State.setPort_freeCount (p : Port) (u : PortUnit) : (s.setPort p u).freeCount = s.freeCount := rfl
@[simp] theorem State.setPort_pending (p : Port) (u : PortUnit) : (s.setPort p u).pending = s.pending := rfl

/-! ### setEntry -/

@[simp] theorem State.setEntry_backup (i : EntryIx) (e : Entry) : (s.setEntry i e).backup = s.backup := rfl
@[simp] theorem State.setEntry_slew (i : EntryIx) (e : Entry) : (s.setEntry i e).slew = s.slew := rfl
@[simp] theorem State.setEntry_monitor (i : EntryIx) (e : Entry) : (s.setEntry i e).monitor = s.monitor := rfl
@[simp] theorem State.setEntry_authority (i : EntryIx) (e : Entry) : (s.setEntry i e).authority = s.authority := rfl
@[simp] theorem State.setEntry_schedule (i : EntryIx) (e : Entry) : (s.setEntry i e).schedule = { s.schedule with entries := s.schedule.entries.set i.val e i.isLt } := rfl
@[simp] theorem State.setEntry_unfired (i : EntryIx) (e : Entry) : (s.setEntry i e).unfired = s.unfired := rfl
@[simp] theorem State.setEntry_lines (i : EntryIx) (e : Entry) : (s.setEntry i e).lines = s.lines := rfl
@[simp] theorem State.setEntry_channels (i : EntryIx) (e : Entry) : (s.setEntry i e).channels = s.channels := rfl
@[simp] theorem State.setEntry_subs (i : EntryIx) (e : Entry) : (s.setEntry i e).subs = s.subs := rfl
@[simp] theorem State.setEntry_digest (i : EntryIx) (e : Entry) : (s.setEntry i e).digest = s.digest := rfl
@[simp] theorem State.setEntry_ports (i : EntryIx) (e : Entry) : (s.setEntry i e).ports = s.ports := rfl
@[simp] theorem State.setEntry_pins (i : EntryIx) (e : Entry) : (s.setEntry i e).pins = s.pins := rfl
@[simp] theorem State.setEntry_leaveCauses (i : EntryIx) (e : Entry) : (s.setEntry i e).leaveCauses = s.leaveCauses := rfl
@[simp] theorem State.setEntry_freeCount (i : EntryIx) (e : Entry) : (s.setEntry i e).freeCount = s.freeCount := rfl
@[simp] theorem State.setEntry_pending (i : EntryIx) (e : Entry) : (s.setEntry i e).pending = s.pending := rfl

/-! ### setBody -/

@[simp] theorem State.setBody_backup (i : EntryIx) (b : Option Body) : (s.setBody i b).backup = s.backup := rfl
@[simp] theorem State.setBody_slew (i : EntryIx) (b : Option Body) : (s.setBody i b).slew = s.slew := rfl
@[simp] theorem State.setBody_monitor (i : EntryIx) (b : Option Body) : (s.setBody i b).monitor = s.monitor := rfl
@[simp] theorem State.setBody_authority (i : EntryIx) (b : Option Body) : (s.setBody i b).authority = s.authority := rfl
@[simp] theorem State.setBody_schedule (i : EntryIx) (b : Option Body) : (s.setBody i b).schedule = { s.schedule with entries := s.schedule.entries.set i.val { inst := (s.entry i).inst, body := b } i.isLt } := rfl
@[simp] theorem State.setBody_unfired (i : EntryIx) (b : Option Body) : (s.setBody i b).unfired = s.unfired := rfl
@[simp] theorem State.setBody_lines (i : EntryIx) (b : Option Body) : (s.setBody i b).lines = s.lines := rfl
@[simp] theorem State.setBody_channels (i : EntryIx) (b : Option Body) : (s.setBody i b).channels = s.channels := rfl
@[simp] theorem State.setBody_subs (i : EntryIx) (b : Option Body) : (s.setBody i b).subs = s.subs := rfl
@[simp] theorem State.setBody_digest (i : EntryIx) (b : Option Body) : (s.setBody i b).digest = s.digest := rfl
@[simp] theorem State.setBody_ports (i : EntryIx) (b : Option Body) : (s.setBody i b).ports = s.ports := rfl
@[simp] theorem State.setBody_pins (i : EntryIx) (b : Option Body) : (s.setBody i b).pins = s.pins := rfl
@[simp] theorem State.setBody_leaveCauses (i : EntryIx) (b : Option Body) : (s.setBody i b).leaveCauses = s.leaveCauses := rfl
@[simp] theorem State.setBody_freeCount (i : EntryIx) (b : Option Body) : (s.setBody i b).freeCount = s.freeCount := rfl
@[simp] theorem State.setBody_pending (i : EntryIx) (b : Option Body) : (s.setBody i b).pending = s.pending := rfl

/-! ### setLine -/

@[simp] theorem State.setLine_backup (l : LineNo) (x : Line) : (s.setLine l x).backup = s.backup := rfl
@[simp] theorem State.setLine_slew (l : LineNo) (x : Line) : (s.setLine l x).slew = s.slew := rfl
@[simp] theorem State.setLine_monitor (l : LineNo) (x : Line) : (s.setLine l x).monitor = s.monitor := rfl
@[simp] theorem State.setLine_authority (l : LineNo) (x : Line) : (s.setLine l x).authority = s.authority := rfl
@[simp] theorem State.setLine_schedule (l : LineNo) (x : Line) : (s.setLine l x).schedule = s.schedule := rfl
@[simp] theorem State.setLine_unfired (l : LineNo) (x : Line) : (s.setLine l x).unfired = s.unfired := rfl
@[simp] theorem State.setLine_lines (l : LineNo) (x : Line) : (s.setLine l x).lines = s.lines.set l.val x l.isLt := rfl
@[simp] theorem State.setLine_channels (l : LineNo) (x : Line) : (s.setLine l x).channels = s.channels := rfl
@[simp] theorem State.setLine_subs (l : LineNo) (x : Line) : (s.setLine l x).subs = s.subs := rfl
@[simp] theorem State.setLine_digest (l : LineNo) (x : Line) : (s.setLine l x).digest = s.digest := rfl
@[simp] theorem State.setLine_ports (l : LineNo) (x : Line) : (s.setLine l x).ports = s.ports := rfl
@[simp] theorem State.setLine_pins (l : LineNo) (x : Line) : (s.setLine l x).pins = s.pins := rfl
@[simp] theorem State.setLine_leaveCauses (l : LineNo) (x : Line) : (s.setLine l x).leaveCauses = s.leaveCauses := rfl
@[simp] theorem State.setLine_freeCount (l : LineNo) (x : Line) : (s.setLine l x).freeCount = s.freeCount := rfl
@[simp] theorem State.setLine_pending (l : LineNo) (x : Line) : (s.setLine l x).pending = s.pending := rfl

/-! ### setChannel -/

@[simp] theorem State.setChannel_backup (c : ChanNo) (x : Channel) : (s.setChannel c x).backup = s.backup := rfl
@[simp] theorem State.setChannel_slew (c : ChanNo) (x : Channel) : (s.setChannel c x).slew = s.slew := rfl
@[simp] theorem State.setChannel_monitor (c : ChanNo) (x : Channel) : (s.setChannel c x).monitor = s.monitor := rfl
@[simp] theorem State.setChannel_authority (c : ChanNo) (x : Channel) : (s.setChannel c x).authority = s.authority := rfl
@[simp] theorem State.setChannel_schedule (c : ChanNo) (x : Channel) : (s.setChannel c x).schedule = s.schedule := rfl
@[simp] theorem State.setChannel_unfired (c : ChanNo) (x : Channel) : (s.setChannel c x).unfired = s.unfired := rfl
@[simp] theorem State.setChannel_lines (c : ChanNo) (x : Channel) : (s.setChannel c x).lines = s.lines := rfl
@[simp] theorem State.setChannel_channels (c : ChanNo) (x : Channel) : (s.setChannel c x).channels = s.channels.set c.val x c.isLt := rfl
@[simp] theorem State.setChannel_subs (c : ChanNo) (x : Channel) : (s.setChannel c x).subs = s.subs := rfl
@[simp] theorem State.setChannel_digest (c : ChanNo) (x : Channel) : (s.setChannel c x).digest = s.digest := rfl
@[simp] theorem State.setChannel_ports (c : ChanNo) (x : Channel) : (s.setChannel c x).ports = s.ports := rfl
@[simp] theorem State.setChannel_pins (c : ChanNo) (x : Channel) : (s.setChannel c x).pins = s.pins := rfl
@[simp] theorem State.setChannel_leaveCauses (c : ChanNo) (x : Channel) : (s.setChannel c x).leaveCauses = s.leaveCauses := rfl
@[simp] theorem State.setChannel_freeCount (c : ChanNo) (x : Channel) : (s.setChannel c x).freeCount = s.freeCount := rfl
@[simp] theorem State.setChannel_pending (c : ChanNo) (x : Channel) : (s.setChannel c x).pending = s.pending := rfl

/-! ### setSub -/

@[simp] theorem State.setSub_backup (i : SubIx) (x : Option Subscription) : (s.setSub i x).backup = s.backup := rfl
@[simp] theorem State.setSub_slew (i : SubIx) (x : Option Subscription) : (s.setSub i x).slew = s.slew := rfl
@[simp] theorem State.setSub_monitor (i : SubIx) (x : Option Subscription) : (s.setSub i x).monitor = s.monitor := rfl
@[simp] theorem State.setSub_authority (i : SubIx) (x : Option Subscription) : (s.setSub i x).authority = s.authority := rfl
@[simp] theorem State.setSub_schedule (i : SubIx) (x : Option Subscription) : (s.setSub i x).schedule = s.schedule := rfl
@[simp] theorem State.setSub_unfired (i : SubIx) (x : Option Subscription) : (s.setSub i x).unfired = s.unfired := rfl
@[simp] theorem State.setSub_lines (i : SubIx) (x : Option Subscription) : (s.setSub i x).lines = s.lines := rfl
@[simp] theorem State.setSub_channels (i : SubIx) (x : Option Subscription) : (s.setSub i x).channels = s.channels := rfl
@[simp] theorem State.setSub_subs (i : SubIx) (x : Option Subscription) : (s.setSub i x).subs = s.subs.set i.val x i.isLt := rfl
@[simp] theorem State.setSub_digest (i : SubIx) (x : Option Subscription) : (s.setSub i x).digest = s.digest := rfl
@[simp] theorem State.setSub_ports (i : SubIx) (x : Option Subscription) : (s.setSub i x).ports = s.ports := rfl
@[simp] theorem State.setSub_pins (i : SubIx) (x : Option Subscription) : (s.setSub i x).pins = s.pins := rfl
@[simp] theorem State.setSub_leaveCauses (i : SubIx) (x : Option Subscription) : (s.setSub i x).leaveCauses = s.leaveCauses := rfl
@[simp] theorem State.setSub_freeCount (i : SubIx) (x : Option Subscription) : (s.setSub i x).freeCount = s.freeCount := rfl
@[simp] theorem State.setSub_pending (i : SubIx) (x : Option Subscription) : (s.setSub i x).pending = s.pending := rfl

/-! ### setSlot -/

@[simp] theorem State.setSlot_backup (p : Port) (x : Slot) : (s.setSlot p x).backup = s.backup := rfl
@[simp] theorem State.setSlot_slew (p : Port) (x : Slot) : (s.setSlot p x).slew = s.slew := rfl
@[simp] theorem State.setSlot_monitor (p : Port) (x : Slot) : (s.setSlot p x).monitor = s.monitor := rfl
@[simp] theorem State.setSlot_authority (p : Port) (x : Slot) : (s.setSlot p x).authority = s.authority := rfl
@[simp] theorem State.setSlot_schedule (p : Port) (x : Slot) : (s.setSlot p x).schedule = s.schedule := rfl
@[simp] theorem State.setSlot_unfired (p : Port) (x : Slot) : (s.setSlot p x).unfired = s.unfired := rfl
@[simp] theorem State.setSlot_lines (p : Port) (x : Slot) : (s.setSlot p x).lines = s.lines := rfl
@[simp] theorem State.setSlot_channels (p : Port) (x : Slot) : (s.setSlot p x).channels = s.channels := rfl
@[simp] theorem State.setSlot_subs (p : Port) (x : Slot) : (s.setSlot p x).subs = s.subs := rfl
@[simp] theorem State.setSlot_digest (p : Port) (x : Slot) : (s.setSlot p x).digest = s.digest := rfl
@[simp] theorem State.setSlot_ports (p : Port) (x : Slot) : (s.setSlot p x).ports = s.ports.set p.val { s.port p with slot := x } p.isLt := rfl
@[simp] theorem State.setSlot_pins (p : Port) (x : Slot) : (s.setSlot p x).pins = s.pins := rfl
@[simp] theorem State.setSlot_leaveCauses (p : Port) (x : Slot) : (s.setSlot p x).leaveCauses = s.leaveCauses := rfl
@[simp] theorem State.setSlot_freeCount (p : Port) (x : Slot) : (s.setSlot p x).freeCount = s.freeCount := rfl
@[simp] theorem State.setSlot_pending (p : Port) (x : Slot) : (s.setSlot p x).pending = s.pending := rfl

/-! ### shiftOut -/

@[simp] theorem State.shiftOut_backup (p : Port) (bs : List Byte) : (s.shiftOut p bs).backup = s.backup := rfl
@[simp] theorem State.shiftOut_slew (p : Port) (bs : List Byte) : (s.shiftOut p bs).slew = s.slew := rfl
@[simp] theorem State.shiftOut_monitor (p : Port) (bs : List Byte) : (s.shiftOut p bs).monitor = s.monitor := rfl
@[simp] theorem State.shiftOut_authority (p : Port) (bs : List Byte) : (s.shiftOut p bs).authority = s.authority := rfl
@[simp] theorem State.shiftOut_schedule (p : Port) (bs : List Byte) : (s.shiftOut p bs).schedule = s.schedule := rfl
@[simp] theorem State.shiftOut_unfired (p : Port) (bs : List Byte) : (s.shiftOut p bs).unfired = s.unfired := rfl
@[simp] theorem State.shiftOut_lines (p : Port) (bs : List Byte) : (s.shiftOut p bs).lines = s.lines := rfl
@[simp] theorem State.shiftOut_channels (p : Port) (bs : List Byte) : (s.shiftOut p bs).channels = s.channels := rfl
@[simp] theorem State.shiftOut_subs (p : Port) (bs : List Byte) : (s.shiftOut p bs).subs = s.subs := rfl
@[simp] theorem State.shiftOut_digest (p : Port) (bs : List Byte) : (s.shiftOut p bs).digest = s.digest := rfl
@[simp] theorem State.shiftOut_ports (p : Port) (bs : List Byte) : (s.shiftOut p bs).ports = s.ports.set p.val { s.port p with miso := bs, transfer := .idle } p.isLt := rfl
@[simp] theorem State.shiftOut_pins (p : Port) (bs : List Byte) : (s.shiftOut p bs).pins = s.pins := rfl
@[simp] theorem State.shiftOut_leaveCauses (p : Port) (bs : List Byte) : (s.shiftOut p bs).leaveCauses = s.leaveCauses := rfl
@[simp] theorem State.shiftOut_freeCount (p : Port) (bs : List Byte) : (s.shiftOut p bs).freeCount = s.freeCount := rfl
@[simp] theorem State.shiftOut_pending (p : Port) (bs : List Byte) : (s.shiftOut p bs).pending = s.pending := rfl

/-! ### closeTransfer -/

@[simp] theorem State.closeTransfer_backup (p : Port) : (s.closeTransfer p).backup = s.backup := rfl
@[simp] theorem State.closeTransfer_slew (p : Port) : (s.closeTransfer p).slew = s.slew := rfl
@[simp] theorem State.closeTransfer_monitor (p : Port) : (s.closeTransfer p).monitor = s.monitor := rfl
@[simp] theorem State.closeTransfer_authority (p : Port) : (s.closeTransfer p).authority = s.authority := rfl
@[simp] theorem State.closeTransfer_schedule (p : Port) : (s.closeTransfer p).schedule = s.schedule := rfl
@[simp] theorem State.closeTransfer_unfired (p : Port) : (s.closeTransfer p).unfired = s.unfired := rfl
@[simp] theorem State.closeTransfer_lines (p : Port) : (s.closeTransfer p).lines = s.lines := rfl
@[simp] theorem State.closeTransfer_channels (p : Port) : (s.closeTransfer p).channels = s.channels := rfl
@[simp] theorem State.closeTransfer_subs (p : Port) : (s.closeTransfer p).subs = s.subs := rfl
@[simp] theorem State.closeTransfer_digest (p : Port) : (s.closeTransfer p).digest = s.digest := rfl
@[simp] theorem State.closeTransfer_ports (p : Port) : (s.closeTransfer p).ports = s.ports.set p.val { s.port p with transfer := .idle } p.isLt := rfl
@[simp] theorem State.closeTransfer_pins (p : Port) : (s.closeTransfer p).pins = s.pins := rfl
@[simp] theorem State.closeTransfer_leaveCauses (p : Port) : (s.closeTransfer p).leaveCauses = s.leaveCauses := rfl
@[simp] theorem State.closeTransfer_freeCount (p : Port) : (s.closeTransfer p).freeCount = s.freeCount := rfl
@[simp] theorem State.closeTransfer_pending (p : Port) : (s.closeTransfer p).pending = s.pending := rfl

/-! ### setPortState -/

@[simp] theorem State.setPortState_backup (p : Port) (x : PortState) : (s.setPortState p x).backup = s.backup := rfl
@[simp] theorem State.setPortState_slew (p : Port) (x : PortState) : (s.setPortState p x).slew = s.slew := rfl
@[simp] theorem State.setPortState_monitor (p : Port) (x : PortState) : (s.setPortState p x).monitor = s.monitor := rfl
@[simp] theorem State.setPortState_authority (p : Port) (x : PortState) : (s.setPortState p x).authority = s.authority := rfl
@[simp] theorem State.setPortState_schedule (p : Port) (x : PortState) : (s.setPortState p x).schedule = s.schedule := rfl
@[simp] theorem State.setPortState_unfired (p : Port) (x : PortState) : (s.setPortState p x).unfired = s.unfired := rfl
@[simp] theorem State.setPortState_lines (p : Port) (x : PortState) : (s.setPortState p x).lines = s.lines := rfl
@[simp] theorem State.setPortState_channels (p : Port) (x : PortState) : (s.setPortState p x).channels = s.channels := rfl
@[simp] theorem State.setPortState_subs (p : Port) (x : PortState) : (s.setPortState p x).subs = s.subs := rfl
@[simp] theorem State.setPortState_digest (p : Port) (x : PortState) : (s.setPortState p x).digest = s.digest := rfl
@[simp] theorem State.setPortState_ports (p : Port) (x : PortState) : (s.setPortState p x).ports = s.ports.set p.val { s.port p with state := x } p.isLt := rfl
@[simp] theorem State.setPortState_pins (p : Port) (x : PortState) : (s.setPortState p x).pins = s.pins := rfl
@[simp] theorem State.setPortState_leaveCauses (p : Port) (x : PortState) : (s.setPortState p x).leaveCauses = s.leaveCauses := rfl
@[simp] theorem State.setPortState_freeCount (p : Port) (x : PortState) : (s.setPortState p x).freeCount = s.freeCount := rfl
@[simp] theorem State.setPortState_pending (p : Port) (x : PortState) : (s.setPortState p x).pending = s.pending := rfl

/-! ### setQueue -/

@[simp] theorem State.setQueue_backup (p : Port) (q : List Copy) : (s.setQueue p q).backup = s.backup := rfl
@[simp] theorem State.setQueue_slew (p : Port) (q : List Copy) : (s.setQueue p q).slew = s.slew := rfl
@[simp] theorem State.setQueue_monitor (p : Port) (q : List Copy) : (s.setQueue p q).monitor = s.monitor := rfl
@[simp] theorem State.setQueue_authority (p : Port) (q : List Copy) : (s.setQueue p q).authority = s.authority := rfl
@[simp] theorem State.setQueue_schedule (p : Port) (q : List Copy) : (s.setQueue p q).schedule = s.schedule := rfl
@[simp] theorem State.setQueue_unfired (p : Port) (q : List Copy) : (s.setQueue p q).unfired = s.unfired := rfl
@[simp] theorem State.setQueue_lines (p : Port) (q : List Copy) : (s.setQueue p q).lines = s.lines := rfl
@[simp] theorem State.setQueue_channels (p : Port) (q : List Copy) : (s.setQueue p q).channels = s.channels := rfl
@[simp] theorem State.setQueue_subs (p : Port) (q : List Copy) : (s.setQueue p q).subs = s.subs := rfl
@[simp] theorem State.setQueue_digest (p : Port) (q : List Copy) : (s.setQueue p q).digest = s.digest := rfl
@[simp] theorem State.setQueue_ports (p : Port) (q : List Copy) : (s.setQueue p q).ports = s.ports.set p.val { s.port p with queue := q } p.isLt := rfl
@[simp] theorem State.setQueue_pins (p : Port) (q : List Copy) : (s.setQueue p q).pins = s.pins := rfl
@[simp] theorem State.setQueue_leaveCauses (p : Port) (q : List Copy) : (s.setQueue p q).leaveCauses = s.leaveCauses := rfl
@[simp] theorem State.setQueue_freeCount (p : Port) (q : List Copy) : (s.setQueue p q).freeCount = s.freeCount := rfl
@[simp] theorem State.setQueue_pending (p : Port) (q : List Copy) : (s.setQueue p q).pending = s.pending := rfl

/-! ### clearCauses -/

@[simp] theorem State.clearCauses_backup (p : Port) : (s.clearCauses p).backup = s.backup := rfl
@[simp] theorem State.clearCauses_slew (p : Port) : (s.clearCauses p).slew = s.slew := rfl
@[simp] theorem State.clearCauses_monitor (p : Port) : (s.clearCauses p).monitor = s.monitor := rfl
@[simp] theorem State.clearCauses_authority (p : Port) : (s.clearCauses p).authority = s.authority := rfl
@[simp] theorem State.clearCauses_schedule (p : Port) : (s.clearCauses p).schedule = s.schedule := rfl
@[simp] theorem State.clearCauses_unfired (p : Port) : (s.clearCauses p).unfired = s.unfired := rfl
@[simp] theorem State.clearCauses_lines (p : Port) : (s.clearCauses p).lines = s.lines := rfl
@[simp] theorem State.clearCauses_channels (p : Port) : (s.clearCauses p).channels = s.channels := rfl
@[simp] theorem State.clearCauses_subs (p : Port) : (s.clearCauses p).subs = s.subs := rfl
@[simp] theorem State.clearCauses_digest (p : Port) : (s.clearCauses p).digest = s.digest := rfl
@[simp] theorem State.clearCauses_ports (p : Port) : (s.clearCauses p).ports = s.ports.set p.val { s.port p with causes := 0 } p.isLt := rfl
@[simp] theorem State.clearCauses_pins (p : Port) : (s.clearCauses p).pins = s.pins := rfl
@[simp] theorem State.clearCauses_leaveCauses (p : Port) : (s.clearCauses p).leaveCauses = s.leaveCauses := rfl
@[simp] theorem State.clearCauses_freeCount (p : Port) : (s.clearCauses p).freeCount = s.freeCount := rfl
@[simp] theorem State.clearCauses_pending (p : Port) : (s.clearCauses p).pending = s.pending := rfl

/-! ### addCauseAt -/

@[simp] theorem State.addCauseAt_backup (p : Port) (c : ResetCause) : (s.addCauseAt p c).backup = s.backup := rfl
@[simp] theorem State.addCauseAt_slew (p : Port) (c : ResetCause) : (s.addCauseAt p c).slew = s.slew := rfl
@[simp] theorem State.addCauseAt_monitor (p : Port) (c : ResetCause) : (s.addCauseAt p c).monitor = s.monitor := rfl
@[simp] theorem State.addCauseAt_authority (p : Port) (c : ResetCause) : (s.addCauseAt p c).authority = s.authority := rfl
@[simp] theorem State.addCauseAt_schedule (p : Port) (c : ResetCause) : (s.addCauseAt p c).schedule = s.schedule := rfl
@[simp] theorem State.addCauseAt_unfired (p : Port) (c : ResetCause) : (s.addCauseAt p c).unfired = s.unfired := rfl
@[simp] theorem State.addCauseAt_lines (p : Port) (c : ResetCause) : (s.addCauseAt p c).lines = s.lines := rfl
@[simp] theorem State.addCauseAt_channels (p : Port) (c : ResetCause) : (s.addCauseAt p c).channels = s.channels := rfl
@[simp] theorem State.addCauseAt_subs (p : Port) (c : ResetCause) : (s.addCauseAt p c).subs = s.subs := rfl
@[simp] theorem State.addCauseAt_digest (p : Port) (c : ResetCause) : (s.addCauseAt p c).digest = s.digest := rfl
@[simp] theorem State.addCauseAt_ports (p : Port) (c : ResetCause) : (s.addCauseAt p c).ports = s.ports.set p.val ((s.port p).addCause c) p.isLt := rfl
@[simp] theorem State.addCauseAt_pins (p : Port) (c : ResetCause) : (s.addCauseAt p c).pins = s.pins := rfl
@[simp] theorem State.addCauseAt_leaveCauses (p : Port) (c : ResetCause) : (s.addCauseAt p c).leaveCauses = s.leaveCauses := rfl
@[simp] theorem State.addCauseAt_freeCount (p : Port) (c : ResetCause) : (s.addCauseAt p c).freeCount = s.freeCount := rfl
@[simp] theorem State.addCauseAt_pending (p : Port) (c : ResetCause) : (s.addCauseAt p c).pending = s.pending := rfl

/-! ### clearPort -/

@[simp] theorem State.clearPort_backup (p : Port) : (s.clearPort p).backup = s.backup := rfl
@[simp] theorem State.clearPort_slew (p : Port) : (s.clearPort p).slew = s.slew := rfl
@[simp] theorem State.clearPort_monitor (p : Port) : (s.clearPort p).monitor = s.monitor := rfl
@[simp] theorem State.clearPort_authority (p : Port) : (s.clearPort p).authority = s.authority := rfl
@[simp] theorem State.clearPort_schedule (p : Port) : (s.clearPort p).schedule = s.schedule := rfl
@[simp] theorem State.clearPort_unfired (p : Port) : (s.clearPort p).unfired = s.unfired := rfl
@[simp] theorem State.clearPort_lines (p : Port) : (s.clearPort p).lines = s.lines := rfl
@[simp] theorem State.clearPort_channels (p : Port) : (s.clearPort p).channels = s.channels := rfl
@[simp] theorem State.clearPort_subs (p : Port) : (s.clearPort p).subs = s.subs := rfl
@[simp] theorem State.clearPort_digest (p : Port) : (s.clearPort p).digest = s.digest := rfl
@[simp] theorem State.clearPort_ports (p : Port) : (s.clearPort p).ports = s.ports.set p.val (s.port p).cleared p.isLt := rfl
@[simp] theorem State.clearPort_pins (p : Port) : (s.clearPort p).pins = s.pins := rfl
@[simp] theorem State.clearPort_leaveCauses (p : Port) : (s.clearPort p).leaveCauses = s.leaveCauses := rfl
@[simp] theorem State.clearPort_freeCount (p : Port) : (s.clearPort p).freeCount = s.freeCount := rfl
@[simp] theorem State.clearPort_pending (p : Port) : (s.clearPort p).pending = s.pending := rfl

/-! ### setQuality -/

@[simp] theorem State.setQuality_backup (q : Quality) : (s.setQuality q).backup = { s.backup with quality := q } := rfl
@[simp] theorem State.setQuality_slew (q : Quality) : (s.setQuality q).slew = s.slew := rfl
@[simp] theorem State.setQuality_monitor (q : Quality) : (s.setQuality q).monitor = s.monitor := rfl
@[simp] theorem State.setQuality_authority (q : Quality) : (s.setQuality q).authority = s.authority := rfl
@[simp] theorem State.setQuality_schedule (q : Quality) : (s.setQuality q).schedule = s.schedule := rfl
@[simp] theorem State.setQuality_unfired (q : Quality) : (s.setQuality q).unfired = s.unfired := rfl
@[simp] theorem State.setQuality_lines (q : Quality) : (s.setQuality q).lines = s.lines := rfl
@[simp] theorem State.setQuality_channels (q : Quality) : (s.setQuality q).channels = s.channels := rfl
@[simp] theorem State.setQuality_subs (q : Quality) : (s.setQuality q).subs = s.subs := rfl
@[simp] theorem State.setQuality_digest (q : Quality) : (s.setQuality q).digest = s.digest := rfl
@[simp] theorem State.setQuality_ports (q : Quality) : (s.setQuality q).ports = s.ports := rfl
@[simp] theorem State.setQuality_pins (q : Quality) : (s.setQuality q).pins = s.pins := rfl
@[simp] theorem State.setQuality_leaveCauses (q : Quality) : (s.setQuality q).leaveCauses = s.leaveCauses := rfl
@[simp] theorem State.setQuality_freeCount (q : Quality) : (s.setQuality q).freeCount = s.freeCount := rfl
@[simp] theorem State.setQuality_pending (q : Quality) : (s.setQuality q).pending = s.pending := rfl

/-! ### setKey -/

@[simp] theorem State.setKey_backup (k : Option (BitVec 64)) : (s.setKey k).backup = { s.backup with key := k } := rfl
@[simp] theorem State.setKey_slew (k : Option (BitVec 64)) : (s.setKey k).slew = s.slew := rfl
@[simp] theorem State.setKey_monitor (k : Option (BitVec 64)) : (s.setKey k).monitor = s.monitor := rfl
@[simp] theorem State.setKey_authority (k : Option (BitVec 64)) : (s.setKey k).authority = s.authority := rfl
@[simp] theorem State.setKey_schedule (k : Option (BitVec 64)) : (s.setKey k).schedule = s.schedule := rfl
@[simp] theorem State.setKey_unfired (k : Option (BitVec 64)) : (s.setKey k).unfired = s.unfired := rfl
@[simp] theorem State.setKey_lines (k : Option (BitVec 64)) : (s.setKey k).lines = s.lines := rfl
@[simp] theorem State.setKey_channels (k : Option (BitVec 64)) : (s.setKey k).channels = s.channels := rfl
@[simp] theorem State.setKey_subs (k : Option (BitVec 64)) : (s.setKey k).subs = s.subs := rfl
@[simp] theorem State.setKey_digest (k : Option (BitVec 64)) : (s.setKey k).digest = s.digest := rfl
@[simp] theorem State.setKey_ports (k : Option (BitVec 64)) : (s.setKey k).ports = s.ports := rfl
@[simp] theorem State.setKey_pins (k : Option (BitVec 64)) : (s.setKey k).pins = s.pins := rfl
@[simp] theorem State.setKey_leaveCauses (k : Option (BitVec 64)) : (s.setKey k).leaveCauses = s.leaveCauses := rfl
@[simp] theorem State.setKey_freeCount (k : Option (BitVec 64)) : (s.setKey k).freeCount = s.freeCount := rfl
@[simp] theorem State.setKey_pending (k : Option (BitVec 64)) : (s.setKey k).pending = s.pending := rfl

/-! ### setRetention -/

@[simp] theorem State.setRetention_backup (x : Bool) : (s.setRetention x).backup = { s.backup with retention := x } := rfl
@[simp] theorem State.setRetention_slew (x : Bool) : (s.setRetention x).slew = s.slew := rfl
@[simp] theorem State.setRetention_monitor (x : Bool) : (s.setRetention x).monitor = s.monitor := rfl
@[simp] theorem State.setRetention_authority (x : Bool) : (s.setRetention x).authority = s.authority := rfl
@[simp] theorem State.setRetention_schedule (x : Bool) : (s.setRetention x).schedule = s.schedule := rfl
@[simp] theorem State.setRetention_unfired (x : Bool) : (s.setRetention x).unfired = s.unfired := rfl
@[simp] theorem State.setRetention_lines (x : Bool) : (s.setRetention x).lines = s.lines := rfl
@[simp] theorem State.setRetention_channels (x : Bool) : (s.setRetention x).channels = s.channels := rfl
@[simp] theorem State.setRetention_subs (x : Bool) : (s.setRetention x).subs = s.subs := rfl
@[simp] theorem State.setRetention_digest (x : Bool) : (s.setRetention x).digest = s.digest := rfl
@[simp] theorem State.setRetention_ports (x : Bool) : (s.setRetention x).ports = s.ports := rfl
@[simp] theorem State.setRetention_pins (x : Bool) : (s.setRetention x).pins = s.pins := rfl
@[simp] theorem State.setRetention_leaveCauses (x : Bool) : (s.setRetention x).leaveCauses = s.leaveCauses := rfl
@[simp] theorem State.setRetention_freeCount (x : Bool) : (s.setRetention x).freeCount = s.freeCount := rfl
@[simp] theorem State.setRetention_pending (x : Bool) : (s.setRetention x).pending = s.pending := rfl

/-! ### resetBackup -/

@[simp] theorem State.resetBackup_backup : (s.resetBackup).backup = Backup.reset := rfl
@[simp] theorem State.resetBackup_slew : (s.resetBackup).slew = s.slew := rfl
@[simp] theorem State.resetBackup_monitor : (s.resetBackup).monitor = s.monitor := rfl
@[simp] theorem State.resetBackup_authority : (s.resetBackup).authority = s.authority := rfl
@[simp] theorem State.resetBackup_schedule : (s.resetBackup).schedule = s.schedule := rfl
@[simp] theorem State.resetBackup_unfired : (s.resetBackup).unfired = s.unfired := rfl
@[simp] theorem State.resetBackup_lines : (s.resetBackup).lines = s.lines := rfl
@[simp] theorem State.resetBackup_channels : (s.resetBackup).channels = s.channels := rfl
@[simp] theorem State.resetBackup_subs : (s.resetBackup).subs = s.subs := rfl
@[simp] theorem State.resetBackup_digest : (s.resetBackup).digest = s.digest := rfl
@[simp] theorem State.resetBackup_ports : (s.resetBackup).ports = s.ports := rfl
@[simp] theorem State.resetBackup_pins : (s.resetBackup).pins = s.pins := rfl
@[simp] theorem State.resetBackup_leaveCauses : (s.resetBackup).leaveCauses = s.leaveCauses := rfl
@[simp] theorem State.resetBackup_freeCount : (s.resetBackup).freeCount = s.freeCount := rfl
@[simp] theorem State.resetBackup_pending : (s.resetBackup).pending = s.pending := rfl

/-! ### renewBackup -/

@[simp] theorem State.renewBackup_backup : (s.renewBackup).backup = freeBackup s.freeCount := rfl
@[simp] theorem State.renewBackup_slew : (s.renewBackup).slew = s.slew := rfl
@[simp] theorem State.renewBackup_monitor : (s.renewBackup).monitor = s.monitor := rfl
@[simp] theorem State.renewBackup_authority : (s.renewBackup).authority = s.authority := rfl
@[simp] theorem State.renewBackup_schedule : (s.renewBackup).schedule = s.schedule := rfl
@[simp] theorem State.renewBackup_unfired : (s.renewBackup).unfired = s.unfired := rfl
@[simp] theorem State.renewBackup_lines : (s.renewBackup).lines = s.lines := rfl
@[simp] theorem State.renewBackup_channels : (s.renewBackup).channels = s.channels := rfl
@[simp] theorem State.renewBackup_subs : (s.renewBackup).subs = s.subs := rfl
@[simp] theorem State.renewBackup_digest : (s.renewBackup).digest = s.digest := rfl
@[simp] theorem State.renewBackup_ports : (s.renewBackup).ports = s.ports := rfl
@[simp] theorem State.renewBackup_pins : (s.renewBackup).pins = s.pins := rfl
@[simp] theorem State.renewBackup_leaveCauses : (s.renewBackup).leaveCauses = s.leaveCauses := rfl
@[simp] theorem State.renewBackup_freeCount : (s.renewBackup).freeCount = s.freeCount + freeBackupDraws := rfl
@[simp] theorem State.renewBackup_pending : (s.renewBackup).pending = s.pending := rfl

/-! ### holdRange -/

@[simp] theorem State.holdRange_backup : (s.holdRange).backup = { s.backup with count := Config.endOfRange, rangeHeld := true } := rfl
@[simp] theorem State.holdRange_slew : (s.holdRange).slew = s.slew := rfl
@[simp] theorem State.holdRange_monitor : (s.holdRange).monitor = s.monitor := rfl
@[simp] theorem State.holdRange_authority : (s.holdRange).authority = s.authority := rfl
@[simp] theorem State.holdRange_schedule : (s.holdRange).schedule = s.schedule := rfl
@[simp] theorem State.holdRange_unfired : (s.holdRange).unfired = s.unfired := rfl
@[simp] theorem State.holdRange_lines : (s.holdRange).lines = s.lines := rfl
@[simp] theorem State.holdRange_channels : (s.holdRange).channels = s.channels := rfl
@[simp] theorem State.holdRange_subs : (s.holdRange).subs = s.subs := rfl
@[simp] theorem State.holdRange_digest : (s.holdRange).digest = s.digest := rfl
@[simp] theorem State.holdRange_ports : (s.holdRange).ports = s.ports := rfl
@[simp] theorem State.holdRange_pins : (s.holdRange).pins = s.pins := rfl
@[simp] theorem State.holdRange_leaveCauses : (s.holdRange).leaveCauses = s.leaveCauses := rfl
@[simp] theorem State.holdRange_freeCount : (s.holdRange).freeCount = s.freeCount := rfl
@[simp] theorem State.holdRange_pending : (s.holdRange).pending = s.pending := rfl

/-! ### countBlock -/

@[simp] theorem State.countBlock_backup : (s.countBlock).backup = s.backup := rfl
@[simp] theorem State.countBlock_slew : (s.countBlock).slew = { s.slew with remaining := s.slew.remaining - 1, blockElapsed := 0 } := rfl
@[simp] theorem State.countBlock_monitor : (s.countBlock).monitor = s.monitor := rfl
@[simp] theorem State.countBlock_authority : (s.countBlock).authority = s.authority := rfl
@[simp] theorem State.countBlock_schedule : (s.countBlock).schedule = s.schedule := rfl
@[simp] theorem State.countBlock_unfired : (s.countBlock).unfired = s.unfired := rfl
@[simp] theorem State.countBlock_lines : (s.countBlock).lines = s.lines := rfl
@[simp] theorem State.countBlock_channels : (s.countBlock).channels = s.channels := rfl
@[simp] theorem State.countBlock_subs : (s.countBlock).subs = s.subs := rfl
@[simp] theorem State.countBlock_digest : (s.countBlock).digest = s.digest := rfl
@[simp] theorem State.countBlock_ports : (s.countBlock).ports = s.ports := rfl
@[simp] theorem State.countBlock_pins : (s.countBlock).pins = s.pins := rfl
@[simp] theorem State.countBlock_leaveCauses : (s.countBlock).leaveCauses = s.leaveCauses := rfl
@[simp] theorem State.countBlock_freeCount : (s.countBlock).freeCount = s.freeCount := rfl
@[simp] theorem State.countBlock_pending : (s.countBlock).pending = s.pending := rfl

/-! ### slewLeaves -/

@[simp] theorem State.slewLeaves_backup (n : BitVec 8) (o : AdjustOutcome) (a : Nat) : (s.slewLeaves n o a).backup = s.backup := rfl
@[simp] theorem State.slewLeaves_slew (n : BitVec 8) (o : AdjustOutcome) (a : Nat) : (s.slewLeaves n o a).slew = SlewState.idle := rfl
@[simp] theorem State.slewLeaves_monitor (n : BitVec 8) (o : AdjustOutcome) (a : Nat) : (s.slewLeaves n o a).monitor = s.monitor := rfl
@[simp] theorem State.slewLeaves_authority (n : BitVec 8) (o : AdjustOutcome) (a : Nat) : (s.slewLeaves n o a).authority = { s.authority with active := none, report := some { number := n, outcome := o, unapplied := a } } := rfl
@[simp] theorem State.slewLeaves_schedule (n : BitVec 8) (o : AdjustOutcome) (a : Nat) : (s.slewLeaves n o a).schedule = s.schedule := rfl
@[simp] theorem State.slewLeaves_unfired (n : BitVec 8) (o : AdjustOutcome) (a : Nat) : (s.slewLeaves n o a).unfired = s.unfired := rfl
@[simp] theorem State.slewLeaves_lines (n : BitVec 8) (o : AdjustOutcome) (a : Nat) : (s.slewLeaves n o a).lines = s.lines := rfl
@[simp] theorem State.slewLeaves_channels (n : BitVec 8) (o : AdjustOutcome) (a : Nat) : (s.slewLeaves n o a).channels = s.channels := rfl
@[simp] theorem State.slewLeaves_subs (n : BitVec 8) (o : AdjustOutcome) (a : Nat) : (s.slewLeaves n o a).subs = s.subs := rfl
@[simp] theorem State.slewLeaves_digest (n : BitVec 8) (o : AdjustOutcome) (a : Nat) : (s.slewLeaves n o a).digest = s.digest := rfl
@[simp] theorem State.slewLeaves_ports (n : BitVec 8) (o : AdjustOutcome) (a : Nat) : (s.slewLeaves n o a).ports = s.ports := rfl
@[simp] theorem State.slewLeaves_pins (n : BitVec 8) (o : AdjustOutcome) (a : Nat) : (s.slewLeaves n o a).pins = s.pins := rfl
@[simp] theorem State.slewLeaves_leaveCauses (n : BitVec 8) (o : AdjustOutcome) (a : Nat) : (s.slewLeaves n o a).leaveCauses = s.leaveCauses := rfl
@[simp] theorem State.slewLeaves_freeCount (n : BitVec 8) (o : AdjustOutcome) (a : Nat) : (s.slewLeaves n o a).freeCount = s.freeCount := rfl
@[simp] theorem State.slewLeaves_pending (n : BitVec 8) (o : AdjustOutcome) (a : Nat) : (s.slewLeaves n o a).pending = s.pending := rfl

/-! ### takeNumber -/

@[simp] theorem State.takeNumber_backup : (s.takeNumber).backup = s.backup := rfl
@[simp] theorem State.takeNumber_slew : (s.takeNumber).slew = s.slew := rfl
@[simp] theorem State.takeNumber_monitor : (s.takeNumber).monitor = s.monitor := rfl
@[simp] theorem State.takeNumber_authority : (s.takeNumber).authority = { s.authority with nextNumber := s.authority.nextNumber + 1 } := rfl
@[simp] theorem State.takeNumber_schedule : (s.takeNumber).schedule = s.schedule := rfl
@[simp] theorem State.takeNumber_unfired : (s.takeNumber).unfired = s.unfired := rfl
@[simp] theorem State.takeNumber_lines : (s.takeNumber).lines = s.lines := rfl
@[simp] theorem State.takeNumber_channels : (s.takeNumber).channels = s.channels := rfl
@[simp] theorem State.takeNumber_subs : (s.takeNumber).subs = s.subs := rfl
@[simp] theorem State.takeNumber_digest : (s.takeNumber).digest = s.digest := rfl
@[simp] theorem State.takeNumber_ports : (s.takeNumber).ports = s.ports := rfl
@[simp] theorem State.takeNumber_pins : (s.takeNumber).pins = s.pins := rfl
@[simp] theorem State.takeNumber_leaveCauses : (s.takeNumber).leaveCauses = s.leaveCauses := rfl
@[simp] theorem State.takeNumber_freeCount : (s.takeNumber).freeCount = s.freeCount := rfl
@[simp] theorem State.takeNumber_pending : (s.takeNumber).pending = s.pending := rfl

/-! ### enqueue -/

@[simp] theorem State.enqueue_backup (k : AdjustKind) : (s.enqueue k).backup = s.backup := rfl
@[simp] theorem State.enqueue_slew (k : AdjustKind) : (s.enqueue k).slew = s.slew := rfl
@[simp] theorem State.enqueue_monitor (k : AdjustKind) : (s.enqueue k).monitor = s.monitor := rfl
@[simp] theorem State.enqueue_authority (k : AdjustKind) : (s.enqueue k).authority = { s.authority with waiting := some { number := s.authority.nextNumber, what := k }, nextNumber := s.authority.nextNumber + 1 } := rfl
@[simp] theorem State.enqueue_schedule (k : AdjustKind) : (s.enqueue k).schedule = s.schedule := rfl
@[simp] theorem State.enqueue_unfired (k : AdjustKind) : (s.enqueue k).unfired = s.unfired := rfl
@[simp] theorem State.enqueue_lines (k : AdjustKind) : (s.enqueue k).lines = s.lines := rfl
@[simp] theorem State.enqueue_channels (k : AdjustKind) : (s.enqueue k).channels = s.channels := rfl
@[simp] theorem State.enqueue_subs (k : AdjustKind) : (s.enqueue k).subs = s.subs := rfl
@[simp] theorem State.enqueue_digest (k : AdjustKind) : (s.enqueue k).digest = s.digest := rfl
@[simp] theorem State.enqueue_ports (k : AdjustKind) : (s.enqueue k).ports = s.ports := rfl
@[simp] theorem State.enqueue_pins (k : AdjustKind) : (s.enqueue k).pins = s.pins := rfl
@[simp] theorem State.enqueue_leaveCauses (k : AdjustKind) : (s.enqueue k).leaveCauses = s.leaveCauses := rfl
@[simp] theorem State.enqueue_freeCount (k : AdjustKind) : (s.enqueue k).freeCount = s.freeCount := rfl
@[simp] theorem State.enqueue_pending (k : AdjustKind) : (s.enqueue k).pending = s.pending := rfl

/-! ### setQuota -/

@[simp] theorem State.setQuota_backup (p : Port) (q : Nat) : (s.setQuota p q).backup = s.backup := rfl
@[simp] theorem State.setQuota_slew (p : Port) (q : Nat) : (s.setQuota p q).slew = s.slew := rfl
@[simp] theorem State.setQuota_monitor (p : Port) (q : Nat) : (s.setQuota p q).monitor = s.monitor := rfl
@[simp] theorem State.setQuota_authority (p : Port) (q : Nat) : (s.setQuota p q).authority = s.authority := rfl
@[simp] theorem State.setQuota_schedule (p : Port) (q : Nat) : (s.setQuota p q).schedule = { s.schedule with quotas := s.schedule.quotas.set p.val q p.isLt } := rfl
@[simp] theorem State.setQuota_unfired (p : Port) (q : Nat) : (s.setQuota p q).unfired = s.unfired := rfl
@[simp] theorem State.setQuota_lines (p : Port) (q : Nat) : (s.setQuota p q).lines = s.lines := rfl
@[simp] theorem State.setQuota_channels (p : Port) (q : Nat) : (s.setQuota p q).channels = s.channels := rfl
@[simp] theorem State.setQuota_subs (p : Port) (q : Nat) : (s.setQuota p q).subs = s.subs := rfl
@[simp] theorem State.setQuota_digest (p : Port) (q : Nat) : (s.setQuota p q).digest = s.digest := rfl
@[simp] theorem State.setQuota_ports (p : Port) (q : Nat) : (s.setQuota p q).ports = s.ports := rfl
@[simp] theorem State.setQuota_pins (p : Port) (q : Nat) : (s.setQuota p q).pins = s.pins := rfl
@[simp] theorem State.setQuota_leaveCauses (p : Port) (q : Nat) : (s.setQuota p q).leaveCauses = s.leaveCauses := rfl
@[simp] theorem State.setQuota_freeCount (p : Port) (q : Nat) : (s.setQuota p q).freeCount = s.freeCount := rfl
@[simp] theorem State.setQuota_pending (p : Port) (q : Nat) : (s.setQuota p q).pending = s.pending := rfl

/-! ### setRaw -/

@[simp] theorem State.setRaw_backup (c : ChanNo) (x : PinLevel) : (s.setRaw c x).backup = s.backup := rfl
@[simp] theorem State.setRaw_slew (c : ChanNo) (x : PinLevel) : (s.setRaw c x).slew = s.slew := rfl
@[simp] theorem State.setRaw_monitor (c : ChanNo) (x : PinLevel) : (s.setRaw c x).monitor = s.monitor := rfl
@[simp] theorem State.setRaw_authority (c : ChanNo) (x : PinLevel) : (s.setRaw c x).authority = s.authority := rfl
@[simp] theorem State.setRaw_schedule (c : ChanNo) (x : PinLevel) : (s.setRaw c x).schedule = s.schedule := rfl
@[simp] theorem State.setRaw_unfired (c : ChanNo) (x : PinLevel) : (s.setRaw c x).unfired = s.unfired := rfl
@[simp] theorem State.setRaw_lines (c : ChanNo) (x : PinLevel) : (s.setRaw c x).lines = s.lines := rfl
@[simp] theorem State.setRaw_channels (c : ChanNo) (x : PinLevel) : (s.setRaw c x).channels = s.channels := rfl
@[simp] theorem State.setRaw_subs (c : ChanNo) (x : PinLevel) : (s.setRaw c x).subs = s.subs := rfl
@[simp] theorem State.setRaw_digest (c : ChanNo) (x : PinLevel) : (s.setRaw c x).digest = s.digest := rfl
@[simp] theorem State.setRaw_ports (c : ChanNo) (x : PinLevel) : (s.setRaw c x).ports = s.ports := rfl
@[simp] theorem State.setRaw_pins (c : ChanNo) (x : PinLevel) : (s.setRaw c x).pins = { s.pins with cap := s.pins.cap.set c.val x c.isLt } := rfl
@[simp] theorem State.setRaw_leaveCauses (c : ChanNo) (x : PinLevel) : (s.setRaw c x).leaveCauses = s.leaveCauses := rfl
@[simp] theorem State.setRaw_freeCount (c : ChanNo) (x : PinLevel) : (s.setRaw c x).freeCount = s.freeCount := rfl
@[simp] theorem State.setRaw_pending (c : ChanNo) (x : PinLevel) : (s.setRaw c x).pending = s.pending := rfl

/-! ### setPrst -/

@[simp] theorem State.setPrst_backup (p : Port) (x : PinLevel) : (s.setPrst p x).backup = s.backup := rfl
@[simp] theorem State.setPrst_slew (p : Port) (x : PinLevel) : (s.setPrst p x).slew = s.slew := rfl
@[simp] theorem State.setPrst_monitor (p : Port) (x : PinLevel) : (s.setPrst p x).monitor = s.monitor := rfl
@[simp] theorem State.setPrst_authority (p : Port) (x : PinLevel) : (s.setPrst p x).authority = s.authority := rfl
@[simp] theorem State.setPrst_schedule (p : Port) (x : PinLevel) : (s.setPrst p x).schedule = s.schedule := rfl
@[simp] theorem State.setPrst_unfired (p : Port) (x : PinLevel) : (s.setPrst p x).unfired = s.unfired := rfl
@[simp] theorem State.setPrst_lines (p : Port) (x : PinLevel) : (s.setPrst p x).lines = s.lines := rfl
@[simp] theorem State.setPrst_channels (p : Port) (x : PinLevel) : (s.setPrst p x).channels = s.channels := rfl
@[simp] theorem State.setPrst_subs (p : Port) (x : PinLevel) : (s.setPrst p x).subs = s.subs := rfl
@[simp] theorem State.setPrst_digest (p : Port) (x : PinLevel) : (s.setPrst p x).digest = s.digest := rfl
@[simp] theorem State.setPrst_ports (p : Port) (x : PinLevel) : (s.setPrst p x).ports = s.ports := rfl
@[simp] theorem State.setPrst_pins (p : Port) (x : PinLevel) : (s.setPrst p x).pins = { s.pins with prst := s.pins.prst.set p.val x p.isLt } := rfl
@[simp] theorem State.setPrst_leaveCauses (p : Port) (x : PinLevel) : (s.setPrst p x).leaveCauses = s.leaveCauses := rfl
@[simp] theorem State.setPrst_freeCount (p : Port) (x : PinLevel) : (s.setPrst p x).freeCount = s.freeCount := rfl
@[simp] theorem State.setPrst_pending (p : Port) (x : PinLevel) : (s.setPrst p x).pending = s.pending := rfl

/-! ### holdReset -/

@[simp] theorem State.holdReset_backup (x : Bool) : (s.holdReset x).backup = s.backup := rfl
@[simp] theorem State.holdReset_slew (x : Bool) : (s.holdReset x).slew = s.slew := rfl
@[simp] theorem State.holdReset_monitor (x : Bool) : (s.holdReset x).monitor = s.monitor := rfl
@[simp] theorem State.holdReset_authority (x : Bool) : (s.holdReset x).authority = s.authority := rfl
@[simp] theorem State.holdReset_schedule (x : Bool) : (s.holdReset x).schedule = s.schedule := rfl
@[simp] theorem State.holdReset_unfired (x : Bool) : (s.holdReset x).unfired = s.unfired := rfl
@[simp] theorem State.holdReset_lines (x : Bool) : (s.holdReset x).lines = s.lines := rfl
@[simp] theorem State.holdReset_channels (x : Bool) : (s.holdReset x).channels = s.channels := rfl
@[simp] theorem State.holdReset_subs (x : Bool) : (s.holdReset x).subs = s.subs := rfl
@[simp] theorem State.holdReset_digest (x : Bool) : (s.holdReset x).digest = s.digest := rfl
@[simp] theorem State.holdReset_ports (x : Bool) : (s.holdReset x).ports = s.ports := rfl
@[simp] theorem State.holdReset_pins (x : Bool) : (s.holdReset x).pins = { s.pins with resetHeld := x } := rfl
@[simp] theorem State.holdReset_leaveCauses (x : Bool) : (s.holdReset x).leaveCauses = s.leaveCauses := rfl
@[simp] theorem State.holdReset_freeCount (x : Bool) : (s.holdReset x).freeCount = s.freeCount := rfl
@[simp] theorem State.holdReset_pending (x : Bool) : (s.holdReset x).pending = s.pending := rfl

/-! ### setMain -/

@[simp] theorem State.setMain_backup (x : Bool) : (s.setMain x).backup = s.backup := rfl
@[simp] theorem State.setMain_slew (x : Bool) : (s.setMain x).slew = s.slew := rfl
@[simp] theorem State.setMain_monitor (x : Bool) : (s.setMain x).monitor = s.monitor := rfl
@[simp] theorem State.setMain_authority (x : Bool) : (s.setMain x).authority = s.authority := rfl
@[simp] theorem State.setMain_schedule (x : Bool) : (s.setMain x).schedule = s.schedule := rfl
@[simp] theorem State.setMain_unfired (x : Bool) : (s.setMain x).unfired = s.unfired := rfl
@[simp] theorem State.setMain_lines (x : Bool) : (s.setMain x).lines = s.lines := rfl
@[simp] theorem State.setMain_channels (x : Bool) : (s.setMain x).channels = s.channels := rfl
@[simp] theorem State.setMain_subs (x : Bool) : (s.setMain x).subs = s.subs := rfl
@[simp] theorem State.setMain_digest (x : Bool) : (s.setMain x).digest = s.digest := rfl
@[simp] theorem State.setMain_ports (x : Bool) : (s.setMain x).ports = s.ports := rfl
@[simp] theorem State.setMain_pins (x : Bool) : (s.setMain x).pins = { s.pins with mainSupply := x } := rfl
@[simp] theorem State.setMain_leaveCauses (x : Bool) : (s.setMain x).leaveCauses = s.leaveCauses := rfl
@[simp] theorem State.setMain_freeCount (x : Bool) : (s.setMain x).freeCount = s.freeCount := rfl
@[simp] theorem State.setMain_pending (x : Bool) : (s.setMain x).pending = s.pending := rfl

/-! ### setBackupSupply -/

@[simp] theorem State.setBackupSupply_backup (x : Bool) : (s.setBackupSupply x).backup = s.backup := rfl
@[simp] theorem State.setBackupSupply_slew (x : Bool) : (s.setBackupSupply x).slew = s.slew := rfl
@[simp] theorem State.setBackupSupply_monitor (x : Bool) : (s.setBackupSupply x).monitor = s.monitor := rfl
@[simp] theorem State.setBackupSupply_authority (x : Bool) : (s.setBackupSupply x).authority = s.authority := rfl
@[simp] theorem State.setBackupSupply_schedule (x : Bool) : (s.setBackupSupply x).schedule = s.schedule := rfl
@[simp] theorem State.setBackupSupply_unfired (x : Bool) : (s.setBackupSupply x).unfired = s.unfired := rfl
@[simp] theorem State.setBackupSupply_lines (x : Bool) : (s.setBackupSupply x).lines = s.lines := rfl
@[simp] theorem State.setBackupSupply_channels (x : Bool) : (s.setBackupSupply x).channels = s.channels := rfl
@[simp] theorem State.setBackupSupply_subs (x : Bool) : (s.setBackupSupply x).subs = s.subs := rfl
@[simp] theorem State.setBackupSupply_digest (x : Bool) : (s.setBackupSupply x).digest = s.digest := rfl
@[simp] theorem State.setBackupSupply_ports (x : Bool) : (s.setBackupSupply x).ports = s.ports := rfl
@[simp] theorem State.setBackupSupply_pins (x : Bool) : (s.setBackupSupply x).pins = { s.pins with backupSupply := x } := rfl
@[simp] theorem State.setBackupSupply_leaveCauses (x : Bool) : (s.setBackupSupply x).leaveCauses = s.leaveCauses := rfl
@[simp] theorem State.setBackupSupply_freeCount (x : Bool) : (s.setBackupSupply x).freeCount = s.freeCount := rfl
@[simp] theorem State.setBackupSupply_pending (x : Bool) : (s.setBackupSupply x).pending = s.pending := rfl

/-! ### withLeaveCauses -/

@[simp] theorem State.withLeaveCauses_backup (c : BitVec 5) : (s.withLeaveCauses c).backup = s.backup := rfl
@[simp] theorem State.withLeaveCauses_slew (c : BitVec 5) : (s.withLeaveCauses c).slew = s.slew := rfl
@[simp] theorem State.withLeaveCauses_monitor (c : BitVec 5) : (s.withLeaveCauses c).monitor = s.monitor := rfl
@[simp] theorem State.withLeaveCauses_authority (c : BitVec 5) : (s.withLeaveCauses c).authority = s.authority := rfl
@[simp] theorem State.withLeaveCauses_schedule (c : BitVec 5) : (s.withLeaveCauses c).schedule = s.schedule := rfl
@[simp] theorem State.withLeaveCauses_unfired (c : BitVec 5) : (s.withLeaveCauses c).unfired = s.unfired := rfl
@[simp] theorem State.withLeaveCauses_lines (c : BitVec 5) : (s.withLeaveCauses c).lines = s.lines := rfl
@[simp] theorem State.withLeaveCauses_channels (c : BitVec 5) : (s.withLeaveCauses c).channels = s.channels := rfl
@[simp] theorem State.withLeaveCauses_subs (c : BitVec 5) : (s.withLeaveCauses c).subs = s.subs := rfl
@[simp] theorem State.withLeaveCauses_digest (c : BitVec 5) : (s.withLeaveCauses c).digest = s.digest := rfl
@[simp] theorem State.withLeaveCauses_ports (c : BitVec 5) : (s.withLeaveCauses c).ports = s.ports := rfl
@[simp] theorem State.withLeaveCauses_pins (c : BitVec 5) : (s.withLeaveCauses c).pins = s.pins := rfl
@[simp] theorem State.withLeaveCauses_leaveCauses (c : BitVec 5) : (s.withLeaveCauses c).leaveCauses = c := rfl
@[simp] theorem State.withLeaveCauses_freeCount (c : BitVec 5) : (s.withLeaveCauses c).freeCount = s.freeCount := rfl
@[simp] theorem State.withLeaveCauses_pending (c : BitVec 5) : (s.withLeaveCauses c).pending = s.pending := rfl

/-! ### ownLine -/

@[simp] theorem State.ownLine_backup (l : LineNo) (p : Port) : (s.ownLine l p).backup = s.backup := rfl
@[simp] theorem State.ownLine_slew (l : LineNo) (p : Port) : (s.ownLine l p).slew = s.slew := rfl
@[simp] theorem State.ownLine_monitor (l : LineNo) (p : Port) : (s.ownLine l p).monitor = s.monitor := rfl
@[simp] theorem State.ownLine_authority (l : LineNo) (p : Port) : (s.ownLine l p).authority = s.authority := rfl
@[simp] theorem State.ownLine_schedule (l : LineNo) (p : Port) : (s.ownLine l p).schedule = s.schedule := rfl
@[simp] theorem State.ownLine_unfired (l : LineNo) (p : Port) : (s.ownLine l p).unfired = s.unfired := rfl
@[simp] theorem State.ownLine_lines (l : LineNo) (p : Port) : (s.ownLine l p).lines = s.lines.set l.val { s.line l with owner := some p } l.isLt := rfl
@[simp] theorem State.ownLine_channels (l : LineNo) (p : Port) : (s.ownLine l p).channels = s.channels := rfl
@[simp] theorem State.ownLine_subs (l : LineNo) (p : Port) : (s.ownLine l p).subs = s.subs := rfl
@[simp] theorem State.ownLine_digest (l : LineNo) (p : Port) : (s.ownLine l p).digest = s.digest := rfl
@[simp] theorem State.ownLine_ports (l : LineNo) (p : Port) : (s.ownLine l p).ports = s.ports := rfl
@[simp] theorem State.ownLine_pins (l : LineNo) (p : Port) : (s.ownLine l p).pins = s.pins := rfl
@[simp] theorem State.ownLine_leaveCauses (l : LineNo) (p : Port) : (s.ownLine l p).leaveCauses = s.leaveCauses := rfl
@[simp] theorem State.ownLine_freeCount (l : LineNo) (p : Port) : (s.ownLine l p).freeCount = s.freeCount := rfl
@[simp] theorem State.ownLine_pending (l : LineNo) (p : Port) : (s.ownLine l p).pending = s.pending := rfl

/-! ### ownChannel -/

@[simp] theorem State.ownChannel_backup (c : ChanNo) (p : Port) : (s.ownChannel c p).backup = s.backup := rfl
@[simp] theorem State.ownChannel_slew (c : ChanNo) (p : Port) : (s.ownChannel c p).slew = s.slew := rfl
@[simp] theorem State.ownChannel_monitor (c : ChanNo) (p : Port) : (s.ownChannel c p).monitor = s.monitor := rfl
@[simp] theorem State.ownChannel_authority (c : ChanNo) (p : Port) : (s.ownChannel c p).authority = s.authority := rfl
@[simp] theorem State.ownChannel_schedule (c : ChanNo) (p : Port) : (s.ownChannel c p).schedule = s.schedule := rfl
@[simp] theorem State.ownChannel_unfired (c : ChanNo) (p : Port) : (s.ownChannel c p).unfired = s.unfired := rfl
@[simp] theorem State.ownChannel_lines (c : ChanNo) (p : Port) : (s.ownChannel c p).lines = s.lines := rfl
@[simp] theorem State.ownChannel_channels (c : ChanNo) (p : Port) : (s.ownChannel c p).channels = s.channels.set c.val { s.channel c with owner := some p } c.isLt := rfl
@[simp] theorem State.ownChannel_subs (c : ChanNo) (p : Port) : (s.ownChannel c p).subs = s.subs := rfl
@[simp] theorem State.ownChannel_digest (c : ChanNo) (p : Port) : (s.ownChannel c p).digest = s.digest := rfl
@[simp] theorem State.ownChannel_ports (c : ChanNo) (p : Port) : (s.ownChannel c p).ports = s.ports := rfl
@[simp] theorem State.ownChannel_pins (c : ChanNo) (p : Port) : (s.ownChannel c p).pins = s.pins := rfl
@[simp] theorem State.ownChannel_leaveCauses (c : ChanNo) (p : Port) : (s.ownChannel c p).leaveCauses = s.leaveCauses := rfl
@[simp] theorem State.ownChannel_freeCount (c : ChanNo) (p : Port) : (s.ownChannel c p).freeCount = s.freeCount := rfl
@[simp] theorem State.ownChannel_pending (c : ChanNo) (p : Port) : (s.ownChannel c p).pending = s.pending := rfl

/-! ### resetMain -/

@[simp] theorem State.resetMain_backup : (s.resetMain).backup = s.backup := rfl
@[simp] theorem State.resetMain_slew : (s.resetMain).slew = SlewState.idle := rfl
@[simp] theorem State.resetMain_monitor : (s.resetMain).monitor = Monitor.off := rfl
@[simp] theorem State.resetMain_authority : (s.resetMain).authority = Authority.reset := rfl
@[simp] theorem State.resetMain_schedule : (s.resetMain).schedule = Schedule.reset := rfl
@[simp] theorem State.resetMain_unfired : (s.resetMain).unfired = false := rfl
@[simp] theorem State.resetMain_lines : (s.resetMain).lines = Vector.replicate 16 Line.reset := rfl
@[simp] theorem State.resetMain_channels : (s.resetMain).channels = Vector.replicate 8 Channel.reset := rfl
@[simp] theorem State.resetMain_subs : (s.resetMain).subs = Vector.replicate 24 none := rfl
@[simp] theorem State.resetMain_digest : (s.resetMain).digest = none := rfl
@[simp] theorem State.resetMain_ports : (s.resetMain).ports = s.ports.map PortUnit.atReset := rfl
@[simp] theorem State.resetMain_pins : (s.resetMain).pins = s.pins := rfl
@[simp] theorem State.resetMain_leaveCauses : (s.resetMain).leaveCauses = s.leaveCauses := rfl
@[simp] theorem State.resetMain_freeCount : (s.resetMain).freeCount = s.freeCount := rfl
@[simp] theorem State.resetMain_pending : (s.resetMain).pending = s.pending := rfl

/-! ### withPending -/

@[simp] theorem State.withPending_backup (q : List Instr) : (s.withPending q).backup = s.backup := rfl
@[simp] theorem State.withPending_slew (q : List Instr) : (s.withPending q).slew = s.slew := rfl
@[simp] theorem State.withPending_monitor (q : List Instr) : (s.withPending q).monitor = s.monitor := rfl
@[simp] theorem State.withPending_authority (q : List Instr) : (s.withPending q).authority = s.authority := rfl
@[simp] theorem State.withPending_schedule (q : List Instr) : (s.withPending q).schedule = s.schedule := rfl
@[simp] theorem State.withPending_unfired (q : List Instr) : (s.withPending q).unfired = s.unfired := rfl
@[simp] theorem State.withPending_lines (q : List Instr) : (s.withPending q).lines = s.lines := rfl
@[simp] theorem State.withPending_channels (q : List Instr) : (s.withPending q).channels = s.channels := rfl
@[simp] theorem State.withPending_subs (q : List Instr) : (s.withPending q).subs = s.subs := rfl
@[simp] theorem State.withPending_digest (q : List Instr) : (s.withPending q).digest = s.digest := rfl
@[simp] theorem State.withPending_ports (q : List Instr) : (s.withPending q).ports = s.ports := rfl
@[simp] theorem State.withPending_pins (q : List Instr) : (s.withPending q).pins = s.pins := rfl
@[simp] theorem State.withPending_leaveCauses (q : List Instr) : (s.withPending q).leaveCauses = s.leaveCauses := rfl
@[simp] theorem State.withPending_freeCount (q : List Instr) : (s.withPending q).freeCount = s.freeCount := rfl
@[simp] theorem State.withPending_pending (q : List Instr) : (s.withPending q).pending = q := rfl

/-! ## Views -/

@[simp] theorem State.setPort_entry (p : Port) (u : PortUnit) (j : EntryIx) : (s.setPort p u).entry j = s.entry j := rfl
@[simp] theorem State.setPort_line (p : Port) (u : PortUnit) (l' : LineNo) : (s.setPort p u).line l' = s.line l' := rfl
@[simp] theorem State.setPort_channel (p : Port) (u : PortUnit) (d : ChanNo) : (s.setPort p u).channel d = s.channel d := rfl
@[simp] theorem State.setPort_sub (p : Port) (u : PortUnit) (i' : SubIx) : (s.setPort p u).sub i' = s.sub i' := rfl
@[simp] theorem State.setPort_now (p : Port) (u : PortUnit) : (s.setPort p u).now = s.now := rfl
@[simp] theorem State.setPort_stamp (p : Port) (u : PortUnit) : (s.setPort p u).stamp = s.stamp := rfl
@[simp] theorem State.setPort_counting (p : Port) (u : PortUnit) : (s.setPort p u).counting = s.counting := rfl
@[simp] theorem State.setPort_running (p : Port) (u : PortUnit) : (s.setPort p u).running = s.running := rfl
@[simp] theorem State.setPort_isHolder (p : Port) (u : PortUnit) (q' : Port) : (s.setPort p u).isHolder q' = s.isHolder q' := rfl
@[simp] theorem State.setPort_rawLevel (p : Port) (u : PortUnit) (d : ChanNo) : (s.setPort p u).rawLevel d = s.rawLevel d := rfl
@[simp] theorem State.setPort_countEntries (p : Port) (u : PortUnit) (f : Body → Bool) : (s.setPort p u).countEntries f = s.countEntries f := rfl
@[simp] theorem State.setPort_portCount (p : Port) (u : PortUnit) (q' : Port) : (s.setPort p u).portCount q' = s.portCount q' := rfl
@[simp] theorem State.setPort_lineNaming (p : Port) (u : PortUnit) (l' : LineNo) : (s.setPort p u).lineNaming l' = s.lineNaming l' := rfl
@[simp] theorem State.setPort_channelNaming (p : Port) (u : PortUnit) (d : ChanNo) : (s.setPort p u).channelNaming d = s.channelNaming d := rfl
@[simp] theorem State.setPort_lowestFree (p : Port) (u : PortUnit) : (s.setPort p u).lowestFree = s.lowestFree := rfl
@[simp] theorem State.setPort_generations (p : Port) (u : PortUnit) : (s.setPort p u).generations = s.generations := rfl

@[simp] theorem State.setEntry_port (i : EntryIx) (e : Entry) (q' : Port) : (s.setEntry i e).port q' = s.port q' := rfl
@[simp] theorem State.setEntry_line (i : EntryIx) (e : Entry) (l' : LineNo) : (s.setEntry i e).line l' = s.line l' := rfl
@[simp] theorem State.setEntry_channel (i : EntryIx) (e : Entry) (d : ChanNo) : (s.setEntry i e).channel d = s.channel d := rfl
@[simp] theorem State.setEntry_sub (i : EntryIx) (e : Entry) (i' : SubIx) : (s.setEntry i e).sub i' = s.sub i' := rfl
@[simp] theorem State.setEntry_now (i : EntryIx) (e : Entry) : (s.setEntry i e).now = s.now := rfl
@[simp] theorem State.setEntry_stamp (i : EntryIx) (e : Entry) : (s.setEntry i e).stamp = s.stamp := rfl
@[simp] theorem State.setEntry_counting (i : EntryIx) (e : Entry) : (s.setEntry i e).counting = s.counting := rfl
@[simp] theorem State.setEntry_running (i : EntryIx) (e : Entry) : (s.setEntry i e).running = s.running := rfl
@[simp] theorem State.setEntry_isHolder (i : EntryIx) (e : Entry) (q' : Port) : (s.setEntry i e).isHolder q' = s.isHolder q' := rfl
@[simp] theorem State.setEntry_attached (i : EntryIx) (e : Entry) (q' : Port) : (s.setEntry i e).attached q' = s.attached q' := rfl
@[simp] theorem State.setEntry_rawLevel (i : EntryIx) (e : Entry) (d : ChanNo) : (s.setEntry i e).rawLevel d = s.rawLevel d := rfl

@[simp] theorem State.setBody_port (i : EntryIx) (b : Option Body) (q' : Port) : (s.setBody i b).port q' = s.port q' := rfl
@[simp] theorem State.setBody_line (i : EntryIx) (b : Option Body) (l' : LineNo) : (s.setBody i b).line l' = s.line l' := rfl
@[simp] theorem State.setBody_channel (i : EntryIx) (b : Option Body) (d : ChanNo) : (s.setBody i b).channel d = s.channel d := rfl
@[simp] theorem State.setBody_sub (i : EntryIx) (b : Option Body) (i' : SubIx) : (s.setBody i b).sub i' = s.sub i' := rfl
@[simp] theorem State.setBody_now (i : EntryIx) (b : Option Body) : (s.setBody i b).now = s.now := rfl
@[simp] theorem State.setBody_stamp (i : EntryIx) (b : Option Body) : (s.setBody i b).stamp = s.stamp := rfl
@[simp] theorem State.setBody_counting (i : EntryIx) (b : Option Body) : (s.setBody i b).counting = s.counting := rfl
@[simp] theorem State.setBody_running (i : EntryIx) (b : Option Body) : (s.setBody i b).running = s.running := rfl
@[simp] theorem State.setBody_isHolder (i : EntryIx) (b : Option Body) (q' : Port) : (s.setBody i b).isHolder q' = s.isHolder q' := rfl
@[simp] theorem State.setBody_attached (i : EntryIx) (b : Option Body) (q' : Port) : (s.setBody i b).attached q' = s.attached q' := rfl
@[simp] theorem State.setBody_rawLevel (i : EntryIx) (b : Option Body) (d : ChanNo) : (s.setBody i b).rawLevel d = s.rawLevel d := rfl

@[simp] theorem State.setLine_port (l : LineNo) (x : Line) (q' : Port) : (s.setLine l x).port q' = s.port q' := rfl
@[simp] theorem State.setLine_entry (l : LineNo) (x : Line) (j : EntryIx) : (s.setLine l x).entry j = s.entry j := rfl
@[simp] theorem State.setLine_channel (l : LineNo) (x : Line) (d : ChanNo) : (s.setLine l x).channel d = s.channel d := rfl
@[simp] theorem State.setLine_sub (l : LineNo) (x : Line) (i' : SubIx) : (s.setLine l x).sub i' = s.sub i' := rfl
@[simp] theorem State.setLine_now (l : LineNo) (x : Line) : (s.setLine l x).now = s.now := rfl
@[simp] theorem State.setLine_stamp (l : LineNo) (x : Line) : (s.setLine l x).stamp = s.stamp := rfl
@[simp] theorem State.setLine_counting (l : LineNo) (x : Line) : (s.setLine l x).counting = s.counting := rfl
@[simp] theorem State.setLine_running (l : LineNo) (x : Line) : (s.setLine l x).running = s.running := rfl
@[simp] theorem State.setLine_isHolder (l : LineNo) (x : Line) (q' : Port) : (s.setLine l x).isHolder q' = s.isHolder q' := rfl
@[simp] theorem State.setLine_attached (l : LineNo) (x : Line) (q' : Port) : (s.setLine l x).attached q' = s.attached q' := rfl
@[simp] theorem State.setLine_rawLevel (l : LineNo) (x : Line) (d : ChanNo) : (s.setLine l x).rawLevel d = s.rawLevel d := rfl
@[simp] theorem State.setLine_countEntries (l : LineNo) (x : Line) (f : Body → Bool) : (s.setLine l x).countEntries f = s.countEntries f := rfl
@[simp] theorem State.setLine_portCount (l : LineNo) (x : Line) (q' : Port) : (s.setLine l x).portCount q' = s.portCount q' := rfl
@[simp] theorem State.setLine_lineNaming (l : LineNo) (x : Line) (l' : LineNo) : (s.setLine l x).lineNaming l' = s.lineNaming l' := rfl
@[simp] theorem State.setLine_channelNaming (l : LineNo) (x : Line) (d : ChanNo) : (s.setLine l x).channelNaming d = s.channelNaming d := rfl
@[simp] theorem State.setLine_lowestFree (l : LineNo) (x : Line) : (s.setLine l x).lowestFree = s.lowestFree := rfl
@[simp] theorem State.setLine_generations (l : LineNo) (x : Line) : (s.setLine l x).generations = s.generations := rfl

@[simp] theorem State.setChannel_port (c : ChanNo) (x : Channel) (q' : Port) : (s.setChannel c x).port q' = s.port q' := rfl
@[simp] theorem State.setChannel_entry (c : ChanNo) (x : Channel) (j : EntryIx) : (s.setChannel c x).entry j = s.entry j := rfl
@[simp] theorem State.setChannel_line (c : ChanNo) (x : Channel) (l' : LineNo) : (s.setChannel c x).line l' = s.line l' := rfl
@[simp] theorem State.setChannel_sub (c : ChanNo) (x : Channel) (i' : SubIx) : (s.setChannel c x).sub i' = s.sub i' := rfl
@[simp] theorem State.setChannel_now (c : ChanNo) (x : Channel) : (s.setChannel c x).now = s.now := rfl
@[simp] theorem State.setChannel_stamp (c : ChanNo) (x : Channel) : (s.setChannel c x).stamp = s.stamp := rfl
@[simp] theorem State.setChannel_counting (c : ChanNo) (x : Channel) : (s.setChannel c x).counting = s.counting := rfl
@[simp] theorem State.setChannel_running (c : ChanNo) (x : Channel) : (s.setChannel c x).running = s.running := rfl
@[simp] theorem State.setChannel_isHolder (c : ChanNo) (x : Channel) (q' : Port) : (s.setChannel c x).isHolder q' = s.isHolder q' := rfl
@[simp] theorem State.setChannel_attached (c : ChanNo) (x : Channel) (q' : Port) : (s.setChannel c x).attached q' = s.attached q' := rfl
@[simp] theorem State.setChannel_rawLevel (c : ChanNo) (x : Channel) (d : ChanNo) : (s.setChannel c x).rawLevel d = s.rawLevel d := rfl
@[simp] theorem State.setChannel_countEntries (c : ChanNo) (x : Channel) (f : Body → Bool) : (s.setChannel c x).countEntries f = s.countEntries f := rfl
@[simp] theorem State.setChannel_portCount (c : ChanNo) (x : Channel) (q' : Port) : (s.setChannel c x).portCount q' = s.portCount q' := rfl
@[simp] theorem State.setChannel_lineNaming (c : ChanNo) (x : Channel) (l' : LineNo) : (s.setChannel c x).lineNaming l' = s.lineNaming l' := rfl
@[simp] theorem State.setChannel_channelNaming (c : ChanNo) (x : Channel) (d : ChanNo) : (s.setChannel c x).channelNaming d = s.channelNaming d := rfl
@[simp] theorem State.setChannel_lowestFree (c : ChanNo) (x : Channel) : (s.setChannel c x).lowestFree = s.lowestFree := rfl
@[simp] theorem State.setChannel_generations (c : ChanNo) (x : Channel) : (s.setChannel c x).generations = s.generations := rfl

@[simp] theorem State.setSub_port (i : SubIx) (x : Option Subscription) (q' : Port) : (s.setSub i x).port q' = s.port q' := rfl
@[simp] theorem State.setSub_entry (i : SubIx) (x : Option Subscription) (j : EntryIx) : (s.setSub i x).entry j = s.entry j := rfl
@[simp] theorem State.setSub_line (i : SubIx) (x : Option Subscription) (l' : LineNo) : (s.setSub i x).line l' = s.line l' := rfl
@[simp] theorem State.setSub_channel (i : SubIx) (x : Option Subscription) (d : ChanNo) : (s.setSub i x).channel d = s.channel d := rfl
@[simp] theorem State.setSub_now (i : SubIx) (x : Option Subscription) : (s.setSub i x).now = s.now := rfl
@[simp] theorem State.setSub_stamp (i : SubIx) (x : Option Subscription) : (s.setSub i x).stamp = s.stamp := rfl
@[simp] theorem State.setSub_counting (i : SubIx) (x : Option Subscription) : (s.setSub i x).counting = s.counting := rfl
@[simp] theorem State.setSub_running (i : SubIx) (x : Option Subscription) : (s.setSub i x).running = s.running := rfl
@[simp] theorem State.setSub_isHolder (i : SubIx) (x : Option Subscription) (q' : Port) : (s.setSub i x).isHolder q' = s.isHolder q' := rfl
@[simp] theorem State.setSub_attached (i : SubIx) (x : Option Subscription) (q' : Port) : (s.setSub i x).attached q' = s.attached q' := rfl
@[simp] theorem State.setSub_rawLevel (i : SubIx) (x : Option Subscription) (d : ChanNo) : (s.setSub i x).rawLevel d = s.rawLevel d := rfl
@[simp] theorem State.setSub_countEntries (i : SubIx) (x : Option Subscription) (f : Body → Bool) : (s.setSub i x).countEntries f = s.countEntries f := rfl
@[simp] theorem State.setSub_portCount (i : SubIx) (x : Option Subscription) (q' : Port) : (s.setSub i x).portCount q' = s.portCount q' := rfl
@[simp] theorem State.setSub_lineNaming (i : SubIx) (x : Option Subscription) (l' : LineNo) : (s.setSub i x).lineNaming l' = s.lineNaming l' := rfl
@[simp] theorem State.setSub_channelNaming (i : SubIx) (x : Option Subscription) (d : ChanNo) : (s.setSub i x).channelNaming d = s.channelNaming d := rfl
@[simp] theorem State.setSub_lowestFree (i : SubIx) (x : Option Subscription) : (s.setSub i x).lowestFree = s.lowestFree := rfl
@[simp] theorem State.setSub_generations (i : SubIx) (x : Option Subscription) : (s.setSub i x).generations = s.generations := rfl

@[simp] theorem State.setSlot_entry (p : Port) (x : Slot) (j : EntryIx) : (s.setSlot p x).entry j = s.entry j := rfl
@[simp] theorem State.setSlot_line (p : Port) (x : Slot) (l' : LineNo) : (s.setSlot p x).line l' = s.line l' := rfl
@[simp] theorem State.setSlot_channel (p : Port) (x : Slot) (d : ChanNo) : (s.setSlot p x).channel d = s.channel d := rfl
@[simp] theorem State.setSlot_sub (p : Port) (x : Slot) (i' : SubIx) : (s.setSlot p x).sub i' = s.sub i' := rfl
@[simp] theorem State.setSlot_now (p : Port) (x : Slot) : (s.setSlot p x).now = s.now := rfl
@[simp] theorem State.setSlot_stamp (p : Port) (x : Slot) : (s.setSlot p x).stamp = s.stamp := rfl
@[simp] theorem State.setSlot_counting (p : Port) (x : Slot) : (s.setSlot p x).counting = s.counting := rfl
@[simp] theorem State.setSlot_running (p : Port) (x : Slot) : (s.setSlot p x).running = s.running := rfl
@[simp] theorem State.setSlot_isHolder (p : Port) (x : Slot) (q' : Port) : (s.setSlot p x).isHolder q' = s.isHolder q' := rfl
@[simp] theorem State.setSlot_rawLevel (p : Port) (x : Slot) (d : ChanNo) : (s.setSlot p x).rawLevel d = s.rawLevel d := rfl
@[simp] theorem State.setSlot_countEntries (p : Port) (x : Slot) (f : Body → Bool) : (s.setSlot p x).countEntries f = s.countEntries f := rfl
@[simp] theorem State.setSlot_portCount (p : Port) (x : Slot) (q' : Port) : (s.setSlot p x).portCount q' = s.portCount q' := rfl
@[simp] theorem State.setSlot_lineNaming (p : Port) (x : Slot) (l' : LineNo) : (s.setSlot p x).lineNaming l' = s.lineNaming l' := rfl
@[simp] theorem State.setSlot_channelNaming (p : Port) (x : Slot) (d : ChanNo) : (s.setSlot p x).channelNaming d = s.channelNaming d := rfl
@[simp] theorem State.setSlot_lowestFree (p : Port) (x : Slot) : (s.setSlot p x).lowestFree = s.lowestFree := rfl
@[simp] theorem State.setSlot_generations (p : Port) (x : Slot) : (s.setSlot p x).generations = s.generations := rfl

@[simp] theorem State.shiftOut_entry (p : Port) (bs : List Byte) (j : EntryIx) : (s.shiftOut p bs).entry j = s.entry j := rfl
@[simp] theorem State.shiftOut_line (p : Port) (bs : List Byte) (l' : LineNo) : (s.shiftOut p bs).line l' = s.line l' := rfl
@[simp] theorem State.shiftOut_channel (p : Port) (bs : List Byte) (d : ChanNo) : (s.shiftOut p bs).channel d = s.channel d := rfl
@[simp] theorem State.shiftOut_sub (p : Port) (bs : List Byte) (i' : SubIx) : (s.shiftOut p bs).sub i' = s.sub i' := rfl
@[simp] theorem State.shiftOut_now (p : Port) (bs : List Byte) : (s.shiftOut p bs).now = s.now := rfl
@[simp] theorem State.shiftOut_stamp (p : Port) (bs : List Byte) : (s.shiftOut p bs).stamp = s.stamp := rfl
@[simp] theorem State.shiftOut_counting (p : Port) (bs : List Byte) : (s.shiftOut p bs).counting = s.counting := rfl
@[simp] theorem State.shiftOut_running (p : Port) (bs : List Byte) : (s.shiftOut p bs).running = s.running := rfl
@[simp] theorem State.shiftOut_isHolder (p : Port) (bs : List Byte) (q' : Port) : (s.shiftOut p bs).isHolder q' = s.isHolder q' := rfl
@[simp] theorem State.shiftOut_rawLevel (p : Port) (bs : List Byte) (d : ChanNo) : (s.shiftOut p bs).rawLevel d = s.rawLevel d := rfl
@[simp] theorem State.shiftOut_countEntries (p : Port) (bs : List Byte) (f : Body → Bool) : (s.shiftOut p bs).countEntries f = s.countEntries f := rfl
@[simp] theorem State.shiftOut_portCount (p : Port) (bs : List Byte) (q' : Port) : (s.shiftOut p bs).portCount q' = s.portCount q' := rfl
@[simp] theorem State.shiftOut_lineNaming (p : Port) (bs : List Byte) (l' : LineNo) : (s.shiftOut p bs).lineNaming l' = s.lineNaming l' := rfl
@[simp] theorem State.shiftOut_channelNaming (p : Port) (bs : List Byte) (d : ChanNo) : (s.shiftOut p bs).channelNaming d = s.channelNaming d := rfl
@[simp] theorem State.shiftOut_lowestFree (p : Port) (bs : List Byte) : (s.shiftOut p bs).lowestFree = s.lowestFree := rfl
@[simp] theorem State.shiftOut_generations (p : Port) (bs : List Byte) : (s.shiftOut p bs).generations = s.generations := rfl

@[simp] theorem State.closeTransfer_entry (p : Port) (j : EntryIx) : (s.closeTransfer p).entry j = s.entry j := rfl
@[simp] theorem State.closeTransfer_line (p : Port) (l' : LineNo) : (s.closeTransfer p).line l' = s.line l' := rfl
@[simp] theorem State.closeTransfer_channel (p : Port) (d : ChanNo) : (s.closeTransfer p).channel d = s.channel d := rfl
@[simp] theorem State.closeTransfer_sub (p : Port) (i' : SubIx) : (s.closeTransfer p).sub i' = s.sub i' := rfl
@[simp] theorem State.closeTransfer_now (p : Port) : (s.closeTransfer p).now = s.now := rfl
@[simp] theorem State.closeTransfer_stamp (p : Port) : (s.closeTransfer p).stamp = s.stamp := rfl
@[simp] theorem State.closeTransfer_counting (p : Port) : (s.closeTransfer p).counting = s.counting := rfl
@[simp] theorem State.closeTransfer_running (p : Port) : (s.closeTransfer p).running = s.running := rfl
@[simp] theorem State.closeTransfer_isHolder (p : Port) (q' : Port) : (s.closeTransfer p).isHolder q' = s.isHolder q' := rfl
@[simp] theorem State.closeTransfer_rawLevel (p : Port) (d : ChanNo) : (s.closeTransfer p).rawLevel d = s.rawLevel d := rfl
@[simp] theorem State.closeTransfer_countEntries (p : Port) (f : Body → Bool) : (s.closeTransfer p).countEntries f = s.countEntries f := rfl
@[simp] theorem State.closeTransfer_portCount (p : Port) (q' : Port) : (s.closeTransfer p).portCount q' = s.portCount q' := rfl
@[simp] theorem State.closeTransfer_lineNaming (p : Port) (l' : LineNo) : (s.closeTransfer p).lineNaming l' = s.lineNaming l' := rfl
@[simp] theorem State.closeTransfer_channelNaming (p : Port) (d : ChanNo) : (s.closeTransfer p).channelNaming d = s.channelNaming d := rfl
@[simp] theorem State.closeTransfer_lowestFree (p : Port) : (s.closeTransfer p).lowestFree = s.lowestFree := rfl
@[simp] theorem State.closeTransfer_generations (p : Port) : (s.closeTransfer p).generations = s.generations := rfl

@[simp] theorem State.setPortState_entry (p : Port) (x : PortState) (j : EntryIx) : (s.setPortState p x).entry j = s.entry j := rfl
@[simp] theorem State.setPortState_line (p : Port) (x : PortState) (l' : LineNo) : (s.setPortState p x).line l' = s.line l' := rfl
@[simp] theorem State.setPortState_channel (p : Port) (x : PortState) (d : ChanNo) : (s.setPortState p x).channel d = s.channel d := rfl
@[simp] theorem State.setPortState_sub (p : Port) (x : PortState) (i' : SubIx) : (s.setPortState p x).sub i' = s.sub i' := rfl
@[simp] theorem State.setPortState_now (p : Port) (x : PortState) : (s.setPortState p x).now = s.now := rfl
@[simp] theorem State.setPortState_stamp (p : Port) (x : PortState) : (s.setPortState p x).stamp = s.stamp := rfl
@[simp] theorem State.setPortState_counting (p : Port) (x : PortState) : (s.setPortState p x).counting = s.counting := rfl
@[simp] theorem State.setPortState_running (p : Port) (x : PortState) : (s.setPortState p x).running = s.running := rfl
@[simp] theorem State.setPortState_isHolder (p : Port) (x : PortState) (q' : Port) : (s.setPortState p x).isHolder q' = s.isHolder q' := rfl
@[simp] theorem State.setPortState_rawLevel (p : Port) (x : PortState) (d : ChanNo) : (s.setPortState p x).rawLevel d = s.rawLevel d := rfl
@[simp] theorem State.setPortState_countEntries (p : Port) (x : PortState) (f : Body → Bool) : (s.setPortState p x).countEntries f = s.countEntries f := rfl
@[simp] theorem State.setPortState_portCount (p : Port) (x : PortState) (q' : Port) : (s.setPortState p x).portCount q' = s.portCount q' := rfl
@[simp] theorem State.setPortState_lineNaming (p : Port) (x : PortState) (l' : LineNo) : (s.setPortState p x).lineNaming l' = s.lineNaming l' := rfl
@[simp] theorem State.setPortState_channelNaming (p : Port) (x : PortState) (d : ChanNo) : (s.setPortState p x).channelNaming d = s.channelNaming d := rfl
@[simp] theorem State.setPortState_lowestFree (p : Port) (x : PortState) : (s.setPortState p x).lowestFree = s.lowestFree := rfl
@[simp] theorem State.setPortState_generations (p : Port) (x : PortState) : (s.setPortState p x).generations = s.generations := rfl

@[simp] theorem State.setQueue_entry (p : Port) (q : List Copy) (j : EntryIx) : (s.setQueue p q).entry j = s.entry j := rfl
@[simp] theorem State.setQueue_line (p : Port) (q : List Copy) (l' : LineNo) : (s.setQueue p q).line l' = s.line l' := rfl
@[simp] theorem State.setQueue_channel (p : Port) (q : List Copy) (d : ChanNo) : (s.setQueue p q).channel d = s.channel d := rfl
@[simp] theorem State.setQueue_sub (p : Port) (q : List Copy) (i' : SubIx) : (s.setQueue p q).sub i' = s.sub i' := rfl
@[simp] theorem State.setQueue_now (p : Port) (q : List Copy) : (s.setQueue p q).now = s.now := rfl
@[simp] theorem State.setQueue_stamp (p : Port) (q : List Copy) : (s.setQueue p q).stamp = s.stamp := rfl
@[simp] theorem State.setQueue_counting (p : Port) (q : List Copy) : (s.setQueue p q).counting = s.counting := rfl
@[simp] theorem State.setQueue_running (p : Port) (q : List Copy) : (s.setQueue p q).running = s.running := rfl
@[simp] theorem State.setQueue_isHolder (p : Port) (q : List Copy) (q' : Port) : (s.setQueue p q).isHolder q' = s.isHolder q' := rfl
@[simp] theorem State.setQueue_rawLevel (p : Port) (q : List Copy) (d : ChanNo) : (s.setQueue p q).rawLevel d = s.rawLevel d := rfl
@[simp] theorem State.setQueue_countEntries (p : Port) (q : List Copy) (f : Body → Bool) : (s.setQueue p q).countEntries f = s.countEntries f := rfl
@[simp] theorem State.setQueue_portCount (p : Port) (q : List Copy) (q' : Port) : (s.setQueue p q).portCount q' = s.portCount q' := rfl
@[simp] theorem State.setQueue_lineNaming (p : Port) (q : List Copy) (l' : LineNo) : (s.setQueue p q).lineNaming l' = s.lineNaming l' := rfl
@[simp] theorem State.setQueue_channelNaming (p : Port) (q : List Copy) (d : ChanNo) : (s.setQueue p q).channelNaming d = s.channelNaming d := rfl
@[simp] theorem State.setQueue_lowestFree (p : Port) (q : List Copy) : (s.setQueue p q).lowestFree = s.lowestFree := rfl
@[simp] theorem State.setQueue_generations (p : Port) (q : List Copy) : (s.setQueue p q).generations = s.generations := rfl

@[simp] theorem State.clearCauses_entry (p : Port) (j : EntryIx) : (s.clearCauses p).entry j = s.entry j := rfl
@[simp] theorem State.clearCauses_line (p : Port) (l' : LineNo) : (s.clearCauses p).line l' = s.line l' := rfl
@[simp] theorem State.clearCauses_channel (p : Port) (d : ChanNo) : (s.clearCauses p).channel d = s.channel d := rfl
@[simp] theorem State.clearCauses_sub (p : Port) (i' : SubIx) : (s.clearCauses p).sub i' = s.sub i' := rfl
@[simp] theorem State.clearCauses_now (p : Port) : (s.clearCauses p).now = s.now := rfl
@[simp] theorem State.clearCauses_stamp (p : Port) : (s.clearCauses p).stamp = s.stamp := rfl
@[simp] theorem State.clearCauses_counting (p : Port) : (s.clearCauses p).counting = s.counting := rfl
@[simp] theorem State.clearCauses_running (p : Port) : (s.clearCauses p).running = s.running := rfl
@[simp] theorem State.clearCauses_isHolder (p : Port) (q' : Port) : (s.clearCauses p).isHolder q' = s.isHolder q' := rfl
@[simp] theorem State.clearCauses_rawLevel (p : Port) (d : ChanNo) : (s.clearCauses p).rawLevel d = s.rawLevel d := rfl
@[simp] theorem State.clearCauses_countEntries (p : Port) (f : Body → Bool) : (s.clearCauses p).countEntries f = s.countEntries f := rfl
@[simp] theorem State.clearCauses_portCount (p : Port) (q' : Port) : (s.clearCauses p).portCount q' = s.portCount q' := rfl
@[simp] theorem State.clearCauses_lineNaming (p : Port) (l' : LineNo) : (s.clearCauses p).lineNaming l' = s.lineNaming l' := rfl
@[simp] theorem State.clearCauses_channelNaming (p : Port) (d : ChanNo) : (s.clearCauses p).channelNaming d = s.channelNaming d := rfl
@[simp] theorem State.clearCauses_lowestFree (p : Port) : (s.clearCauses p).lowestFree = s.lowestFree := rfl
@[simp] theorem State.clearCauses_generations (p : Port) : (s.clearCauses p).generations = s.generations := rfl

@[simp] theorem State.addCauseAt_entry (p : Port) (c : ResetCause) (j : EntryIx) : (s.addCauseAt p c).entry j = s.entry j := rfl
@[simp] theorem State.addCauseAt_line (p : Port) (c : ResetCause) (l' : LineNo) : (s.addCauseAt p c).line l' = s.line l' := rfl
@[simp] theorem State.addCauseAt_channel (p : Port) (c : ResetCause) (d : ChanNo) : (s.addCauseAt p c).channel d = s.channel d := rfl
@[simp] theorem State.addCauseAt_sub (p : Port) (c : ResetCause) (i' : SubIx) : (s.addCauseAt p c).sub i' = s.sub i' := rfl
@[simp] theorem State.addCauseAt_now (p : Port) (c : ResetCause) : (s.addCauseAt p c).now = s.now := rfl
@[simp] theorem State.addCauseAt_stamp (p : Port) (c : ResetCause) : (s.addCauseAt p c).stamp = s.stamp := rfl
@[simp] theorem State.addCauseAt_counting (p : Port) (c : ResetCause) : (s.addCauseAt p c).counting = s.counting := rfl
@[simp] theorem State.addCauseAt_running (p : Port) (c : ResetCause) : (s.addCauseAt p c).running = s.running := rfl
@[simp] theorem State.addCauseAt_isHolder (p : Port) (c : ResetCause) (q' : Port) : (s.addCauseAt p c).isHolder q' = s.isHolder q' := rfl
@[simp] theorem State.addCauseAt_rawLevel (p : Port) (c : ResetCause) (d : ChanNo) : (s.addCauseAt p c).rawLevel d = s.rawLevel d := rfl
@[simp] theorem State.addCauseAt_countEntries (p : Port) (c : ResetCause) (f : Body → Bool) : (s.addCauseAt p c).countEntries f = s.countEntries f := rfl
@[simp] theorem State.addCauseAt_portCount (p : Port) (c : ResetCause) (q' : Port) : (s.addCauseAt p c).portCount q' = s.portCount q' := rfl
@[simp] theorem State.addCauseAt_lineNaming (p : Port) (c : ResetCause) (l' : LineNo) : (s.addCauseAt p c).lineNaming l' = s.lineNaming l' := rfl
@[simp] theorem State.addCauseAt_channelNaming (p : Port) (c : ResetCause) (d : ChanNo) : (s.addCauseAt p c).channelNaming d = s.channelNaming d := rfl
@[simp] theorem State.addCauseAt_lowestFree (p : Port) (c : ResetCause) : (s.addCauseAt p c).lowestFree = s.lowestFree := rfl
@[simp] theorem State.addCauseAt_generations (p : Port) (c : ResetCause) : (s.addCauseAt p c).generations = s.generations := rfl

@[simp] theorem State.clearPort_entry (p : Port) (j : EntryIx) : (s.clearPort p).entry j = s.entry j := rfl
@[simp] theorem State.clearPort_line (p : Port) (l' : LineNo) : (s.clearPort p).line l' = s.line l' := rfl
@[simp] theorem State.clearPort_channel (p : Port) (d : ChanNo) : (s.clearPort p).channel d = s.channel d := rfl
@[simp] theorem State.clearPort_sub (p : Port) (i' : SubIx) : (s.clearPort p).sub i' = s.sub i' := rfl
@[simp] theorem State.clearPort_now (p : Port) : (s.clearPort p).now = s.now := rfl
@[simp] theorem State.clearPort_stamp (p : Port) : (s.clearPort p).stamp = s.stamp := rfl
@[simp] theorem State.clearPort_counting (p : Port) : (s.clearPort p).counting = s.counting := rfl
@[simp] theorem State.clearPort_running (p : Port) : (s.clearPort p).running = s.running := rfl
@[simp] theorem State.clearPort_isHolder (p : Port) (q' : Port) : (s.clearPort p).isHolder q' = s.isHolder q' := rfl
@[simp] theorem State.clearPort_rawLevel (p : Port) (d : ChanNo) : (s.clearPort p).rawLevel d = s.rawLevel d := rfl
@[simp] theorem State.clearPort_countEntries (p : Port) (f : Body → Bool) : (s.clearPort p).countEntries f = s.countEntries f := rfl
@[simp] theorem State.clearPort_portCount (p : Port) (q' : Port) : (s.clearPort p).portCount q' = s.portCount q' := rfl
@[simp] theorem State.clearPort_lineNaming (p : Port) (l' : LineNo) : (s.clearPort p).lineNaming l' = s.lineNaming l' := rfl
@[simp] theorem State.clearPort_channelNaming (p : Port) (d : ChanNo) : (s.clearPort p).channelNaming d = s.channelNaming d := rfl
@[simp] theorem State.clearPort_lowestFree (p : Port) : (s.clearPort p).lowestFree = s.lowestFree := rfl
@[simp] theorem State.clearPort_generations (p : Port) : (s.clearPort p).generations = s.generations := rfl

@[simp] theorem State.setQuality_port (q : Quality) (q' : Port) : (s.setQuality q).port q' = s.port q' := rfl
@[simp] theorem State.setQuality_entry (q : Quality) (j : EntryIx) : (s.setQuality q).entry j = s.entry j := rfl
@[simp] theorem State.setQuality_line (q : Quality) (l' : LineNo) : (s.setQuality q).line l' = s.line l' := rfl
@[simp] theorem State.setQuality_channel (q : Quality) (d : ChanNo) : (s.setQuality q).channel d = s.channel d := rfl
@[simp] theorem State.setQuality_sub (q : Quality) (i' : SubIx) : (s.setQuality q).sub i' = s.sub i' := rfl
@[simp] theorem State.setQuality_running (q : Quality) : (s.setQuality q).running = s.running := rfl
@[simp] theorem State.setQuality_isHolder (q : Quality) (q' : Port) : (s.setQuality q).isHolder q' = s.isHolder q' := rfl
@[simp] theorem State.setQuality_attached (q : Quality) (q' : Port) : (s.setQuality q).attached q' = s.attached q' := rfl
@[simp] theorem State.setQuality_rawLevel (q : Quality) (d : ChanNo) : (s.setQuality q).rawLevel d = s.rawLevel d := rfl
@[simp] theorem State.setQuality_countEntries (q : Quality) (f : Body → Bool) : (s.setQuality q).countEntries f = s.countEntries f := rfl
@[simp] theorem State.setQuality_portCount (q : Quality) (q' : Port) : (s.setQuality q).portCount q' = s.portCount q' := rfl
@[simp] theorem State.setQuality_lineNaming (q : Quality) (l' : LineNo) : (s.setQuality q).lineNaming l' = s.lineNaming l' := rfl
@[simp] theorem State.setQuality_channelNaming (q : Quality) (d : ChanNo) : (s.setQuality q).channelNaming d = s.channelNaming d := rfl
@[simp] theorem State.setQuality_lowestFree (q : Quality) : (s.setQuality q).lowestFree = s.lowestFree := rfl
@[simp] theorem State.setQuality_generations (q : Quality) : (s.setQuality q).generations = s.generations := rfl

@[simp] theorem State.setKey_port (k : Option (BitVec 64)) (q' : Port) : (s.setKey k).port q' = s.port q' := rfl
@[simp] theorem State.setKey_entry (k : Option (BitVec 64)) (j : EntryIx) : (s.setKey k).entry j = s.entry j := rfl
@[simp] theorem State.setKey_line (k : Option (BitVec 64)) (l' : LineNo) : (s.setKey k).line l' = s.line l' := rfl
@[simp] theorem State.setKey_channel (k : Option (BitVec 64)) (d : ChanNo) : (s.setKey k).channel d = s.channel d := rfl
@[simp] theorem State.setKey_sub (k : Option (BitVec 64)) (i' : SubIx) : (s.setKey k).sub i' = s.sub i' := rfl
@[simp] theorem State.setKey_running (k : Option (BitVec 64)) : (s.setKey k).running = s.running := rfl
@[simp] theorem State.setKey_isHolder (k : Option (BitVec 64)) (q' : Port) : (s.setKey k).isHolder q' = s.isHolder q' := rfl
@[simp] theorem State.setKey_attached (k : Option (BitVec 64)) (q' : Port) : (s.setKey k).attached q' = s.attached q' := rfl
@[simp] theorem State.setKey_rawLevel (k : Option (BitVec 64)) (d : ChanNo) : (s.setKey k).rawLevel d = s.rawLevel d := rfl
@[simp] theorem State.setKey_countEntries (k : Option (BitVec 64)) (f : Body → Bool) : (s.setKey k).countEntries f = s.countEntries f := rfl
@[simp] theorem State.setKey_portCount (k : Option (BitVec 64)) (q' : Port) : (s.setKey k).portCount q' = s.portCount q' := rfl
@[simp] theorem State.setKey_lineNaming (k : Option (BitVec 64)) (l' : LineNo) : (s.setKey k).lineNaming l' = s.lineNaming l' := rfl
@[simp] theorem State.setKey_channelNaming (k : Option (BitVec 64)) (d : ChanNo) : (s.setKey k).channelNaming d = s.channelNaming d := rfl
@[simp] theorem State.setKey_lowestFree (k : Option (BitVec 64)) : (s.setKey k).lowestFree = s.lowestFree := rfl
@[simp] theorem State.setKey_generations (k : Option (BitVec 64)) : (s.setKey k).generations = s.generations := rfl

@[simp] theorem State.setRetention_port (x : Bool) (q' : Port) : (s.setRetention x).port q' = s.port q' := rfl
@[simp] theorem State.setRetention_entry (x : Bool) (j : EntryIx) : (s.setRetention x).entry j = s.entry j := rfl
@[simp] theorem State.setRetention_line (x : Bool) (l' : LineNo) : (s.setRetention x).line l' = s.line l' := rfl
@[simp] theorem State.setRetention_channel (x : Bool) (d : ChanNo) : (s.setRetention x).channel d = s.channel d := rfl
@[simp] theorem State.setRetention_sub (x : Bool) (i' : SubIx) : (s.setRetention x).sub i' = s.sub i' := rfl
@[simp] theorem State.setRetention_running (x : Bool) : (s.setRetention x).running = s.running := rfl
@[simp] theorem State.setRetention_isHolder (x : Bool) (q' : Port) : (s.setRetention x).isHolder q' = s.isHolder q' := rfl
@[simp] theorem State.setRetention_attached (x : Bool) (q' : Port) : (s.setRetention x).attached q' = s.attached q' := rfl
@[simp] theorem State.setRetention_rawLevel (x : Bool) (d : ChanNo) : (s.setRetention x).rawLevel d = s.rawLevel d := rfl
@[simp] theorem State.setRetention_countEntries (x : Bool) (f : Body → Bool) : (s.setRetention x).countEntries f = s.countEntries f := rfl
@[simp] theorem State.setRetention_portCount (x : Bool) (q' : Port) : (s.setRetention x).portCount q' = s.portCount q' := rfl
@[simp] theorem State.setRetention_lineNaming (x : Bool) (l' : LineNo) : (s.setRetention x).lineNaming l' = s.lineNaming l' := rfl
@[simp] theorem State.setRetention_channelNaming (x : Bool) (d : ChanNo) : (s.setRetention x).channelNaming d = s.channelNaming d := rfl
@[simp] theorem State.setRetention_lowestFree (x : Bool) : (s.setRetention x).lowestFree = s.lowestFree := rfl
@[simp] theorem State.setRetention_generations (x : Bool) : (s.setRetention x).generations = s.generations := rfl

@[simp] theorem State.resetBackup_port (q' : Port) : (s.resetBackup).port q' = s.port q' := rfl
@[simp] theorem State.resetBackup_entry (j : EntryIx) : (s.resetBackup).entry j = s.entry j := rfl
@[simp] theorem State.resetBackup_line (l' : LineNo) : (s.resetBackup).line l' = s.line l' := rfl
@[simp] theorem State.resetBackup_channel (d : ChanNo) : (s.resetBackup).channel d = s.channel d := rfl
@[simp] theorem State.resetBackup_sub (i' : SubIx) : (s.resetBackup).sub i' = s.sub i' := rfl
@[simp] theorem State.resetBackup_running : (s.resetBackup).running = s.running := rfl
@[simp] theorem State.resetBackup_isHolder (q' : Port) : (s.resetBackup).isHolder q' = s.isHolder q' := rfl
@[simp] theorem State.resetBackup_attached (q' : Port) : (s.resetBackup).attached q' = s.attached q' := rfl
@[simp] theorem State.resetBackup_rawLevel (d : ChanNo) : (s.resetBackup).rawLevel d = s.rawLevel d := rfl
@[simp] theorem State.resetBackup_countEntries (f : Body → Bool) : (s.resetBackup).countEntries f = s.countEntries f := rfl
@[simp] theorem State.resetBackup_portCount (q' : Port) : (s.resetBackup).portCount q' = s.portCount q' := rfl
@[simp] theorem State.resetBackup_lineNaming (l' : LineNo) : (s.resetBackup).lineNaming l' = s.lineNaming l' := rfl
@[simp] theorem State.resetBackup_channelNaming (d : ChanNo) : (s.resetBackup).channelNaming d = s.channelNaming d := rfl
@[simp] theorem State.resetBackup_lowestFree : (s.resetBackup).lowestFree = s.lowestFree := rfl
@[simp] theorem State.resetBackup_generations : (s.resetBackup).generations = s.generations := rfl

@[simp] theorem State.holdRange_port (q' : Port) : (s.holdRange).port q' = s.port q' := rfl
@[simp] theorem State.holdRange_entry (j : EntryIx) : (s.holdRange).entry j = s.entry j := rfl
@[simp] theorem State.holdRange_line (l' : LineNo) : (s.holdRange).line l' = s.line l' := rfl
@[simp] theorem State.holdRange_channel (d : ChanNo) : (s.holdRange).channel d = s.channel d := rfl
@[simp] theorem State.holdRange_sub (i' : SubIx) : (s.holdRange).sub i' = s.sub i' := rfl
@[simp] theorem State.holdRange_running : (s.holdRange).running = s.running := rfl
@[simp] theorem State.holdRange_isHolder (q' : Port) : (s.holdRange).isHolder q' = s.isHolder q' := rfl
@[simp] theorem State.holdRange_attached (q' : Port) : (s.holdRange).attached q' = s.attached q' := rfl
@[simp] theorem State.holdRange_rawLevel (d : ChanNo) : (s.holdRange).rawLevel d = s.rawLevel d := rfl
@[simp] theorem State.holdRange_countEntries (f : Body → Bool) : (s.holdRange).countEntries f = s.countEntries f := rfl
@[simp] theorem State.holdRange_portCount (q' : Port) : (s.holdRange).portCount q' = s.portCount q' := rfl
@[simp] theorem State.holdRange_lineNaming (l' : LineNo) : (s.holdRange).lineNaming l' = s.lineNaming l' := rfl
@[simp] theorem State.holdRange_channelNaming (d : ChanNo) : (s.holdRange).channelNaming d = s.channelNaming d := rfl
@[simp] theorem State.holdRange_lowestFree : (s.holdRange).lowestFree = s.lowestFree := rfl
@[simp] theorem State.holdRange_generations : (s.holdRange).generations = s.generations := rfl

@[simp] theorem State.countBlock_port (q' : Port) : (s.countBlock).port q' = s.port q' := rfl
@[simp] theorem State.countBlock_entry (j : EntryIx) : (s.countBlock).entry j = s.entry j := rfl
@[simp] theorem State.countBlock_line (l' : LineNo) : (s.countBlock).line l' = s.line l' := rfl
@[simp] theorem State.countBlock_channel (d : ChanNo) : (s.countBlock).channel d = s.channel d := rfl
@[simp] theorem State.countBlock_sub (i' : SubIx) : (s.countBlock).sub i' = s.sub i' := rfl
@[simp] theorem State.countBlock_now : (s.countBlock).now = s.now := rfl
@[simp] theorem State.countBlock_stamp : (s.countBlock).stamp = s.stamp := rfl
@[simp] theorem State.countBlock_counting : (s.countBlock).counting = s.counting := rfl
@[simp] theorem State.countBlock_running : (s.countBlock).running = s.running := rfl
@[simp] theorem State.countBlock_isHolder (q' : Port) : (s.countBlock).isHolder q' = s.isHolder q' := rfl
@[simp] theorem State.countBlock_attached (q' : Port) : (s.countBlock).attached q' = s.attached q' := rfl
@[simp] theorem State.countBlock_rawLevel (d : ChanNo) : (s.countBlock).rawLevel d = s.rawLevel d := rfl
@[simp] theorem State.countBlock_countEntries (f : Body → Bool) : (s.countBlock).countEntries f = s.countEntries f := rfl
@[simp] theorem State.countBlock_portCount (q' : Port) : (s.countBlock).portCount q' = s.portCount q' := rfl
@[simp] theorem State.countBlock_lineNaming (l' : LineNo) : (s.countBlock).lineNaming l' = s.lineNaming l' := rfl
@[simp] theorem State.countBlock_channelNaming (d : ChanNo) : (s.countBlock).channelNaming d = s.channelNaming d := rfl
@[simp] theorem State.countBlock_lowestFree : (s.countBlock).lowestFree = s.lowestFree := rfl
@[simp] theorem State.countBlock_generations : (s.countBlock).generations = s.generations := rfl

@[simp] theorem State.slewLeaves_port (n : BitVec 8) (o : AdjustOutcome) (a : Nat) (q' : Port) : (s.slewLeaves n o a).port q' = s.port q' := rfl
@[simp] theorem State.slewLeaves_entry (n : BitVec 8) (o : AdjustOutcome) (a : Nat) (j : EntryIx) : (s.slewLeaves n o a).entry j = s.entry j := rfl
@[simp] theorem State.slewLeaves_line (n : BitVec 8) (o : AdjustOutcome) (a : Nat) (l' : LineNo) : (s.slewLeaves n o a).line l' = s.line l' := rfl
@[simp] theorem State.slewLeaves_channel (n : BitVec 8) (o : AdjustOutcome) (a : Nat) (d : ChanNo) : (s.slewLeaves n o a).channel d = s.channel d := rfl
@[simp] theorem State.slewLeaves_sub (n : BitVec 8) (o : AdjustOutcome) (a : Nat) (i' : SubIx) : (s.slewLeaves n o a).sub i' = s.sub i' := rfl
@[simp] theorem State.slewLeaves_now (n : BitVec 8) (o : AdjustOutcome) (a : Nat) : (s.slewLeaves n o a).now = s.now := rfl
@[simp] theorem State.slewLeaves_stamp (n : BitVec 8) (o : AdjustOutcome) (a : Nat) : (s.slewLeaves n o a).stamp = s.stamp := rfl
@[simp] theorem State.slewLeaves_counting (n : BitVec 8) (o : AdjustOutcome) (a : Nat) : (s.slewLeaves n o a).counting = s.counting := rfl
@[simp] theorem State.slewLeaves_running (n : BitVec 8) (o : AdjustOutcome) (a : Nat) : (s.slewLeaves n o a).running = s.running := rfl
@[simp] theorem State.slewLeaves_attached (n : BitVec 8) (o : AdjustOutcome) (a : Nat) (q' : Port) : (s.slewLeaves n o a).attached q' = s.attached q' := rfl
@[simp] theorem State.slewLeaves_rawLevel (n : BitVec 8) (o : AdjustOutcome) (a : Nat) (d : ChanNo) : (s.slewLeaves n o a).rawLevel d = s.rawLevel d := rfl
@[simp] theorem State.slewLeaves_countEntries (n : BitVec 8) (o : AdjustOutcome) (a : Nat) (f : Body → Bool) : (s.slewLeaves n o a).countEntries f = s.countEntries f := rfl
@[simp] theorem State.slewLeaves_portCount (n : BitVec 8) (o : AdjustOutcome) (a : Nat) (q' : Port) : (s.slewLeaves n o a).portCount q' = s.portCount q' := rfl
@[simp] theorem State.slewLeaves_lineNaming (n : BitVec 8) (o : AdjustOutcome) (a : Nat) (l' : LineNo) : (s.slewLeaves n o a).lineNaming l' = s.lineNaming l' := rfl
@[simp] theorem State.slewLeaves_channelNaming (n : BitVec 8) (o : AdjustOutcome) (a : Nat) (d : ChanNo) : (s.slewLeaves n o a).channelNaming d = s.channelNaming d := rfl
@[simp] theorem State.slewLeaves_lowestFree (n : BitVec 8) (o : AdjustOutcome) (a : Nat) : (s.slewLeaves n o a).lowestFree = s.lowestFree := rfl
@[simp] theorem State.slewLeaves_generations (n : BitVec 8) (o : AdjustOutcome) (a : Nat) : (s.slewLeaves n o a).generations = s.generations := rfl

@[simp] theorem State.takeNumber_port (q' : Port) : (s.takeNumber).port q' = s.port q' := rfl
@[simp] theorem State.takeNumber_entry (j : EntryIx) : (s.takeNumber).entry j = s.entry j := rfl
@[simp] theorem State.takeNumber_line (l' : LineNo) : (s.takeNumber).line l' = s.line l' := rfl
@[simp] theorem State.takeNumber_channel (d : ChanNo) : (s.takeNumber).channel d = s.channel d := rfl
@[simp] theorem State.takeNumber_sub (i' : SubIx) : (s.takeNumber).sub i' = s.sub i' := rfl
@[simp] theorem State.takeNumber_now : (s.takeNumber).now = s.now := rfl
@[simp] theorem State.takeNumber_stamp : (s.takeNumber).stamp = s.stamp := rfl
@[simp] theorem State.takeNumber_counting : (s.takeNumber).counting = s.counting := rfl
@[simp] theorem State.takeNumber_running : (s.takeNumber).running = s.running := rfl
@[simp] theorem State.takeNumber_attached (q' : Port) : (s.takeNumber).attached q' = s.attached q' := rfl
@[simp] theorem State.takeNumber_rawLevel (d : ChanNo) : (s.takeNumber).rawLevel d = s.rawLevel d := rfl
@[simp] theorem State.takeNumber_countEntries (f : Body → Bool) : (s.takeNumber).countEntries f = s.countEntries f := rfl
@[simp] theorem State.takeNumber_portCount (q' : Port) : (s.takeNumber).portCount q' = s.portCount q' := rfl
@[simp] theorem State.takeNumber_lineNaming (l' : LineNo) : (s.takeNumber).lineNaming l' = s.lineNaming l' := rfl
@[simp] theorem State.takeNumber_channelNaming (d : ChanNo) : (s.takeNumber).channelNaming d = s.channelNaming d := rfl
@[simp] theorem State.takeNumber_lowestFree : (s.takeNumber).lowestFree = s.lowestFree := rfl
@[simp] theorem State.takeNumber_generations : (s.takeNumber).generations = s.generations := rfl

@[simp] theorem State.enqueue_port (k : AdjustKind) (q' : Port) : (s.enqueue k).port q' = s.port q' := rfl
@[simp] theorem State.enqueue_entry (k : AdjustKind) (j : EntryIx) : (s.enqueue k).entry j = s.entry j := rfl
@[simp] theorem State.enqueue_line (k : AdjustKind) (l' : LineNo) : (s.enqueue k).line l' = s.line l' := rfl
@[simp] theorem State.enqueue_channel (k : AdjustKind) (d : ChanNo) : (s.enqueue k).channel d = s.channel d := rfl
@[simp] theorem State.enqueue_sub (k : AdjustKind) (i' : SubIx) : (s.enqueue k).sub i' = s.sub i' := rfl
@[simp] theorem State.enqueue_now (k : AdjustKind) : (s.enqueue k).now = s.now := rfl
@[simp] theorem State.enqueue_stamp (k : AdjustKind) : (s.enqueue k).stamp = s.stamp := rfl
@[simp] theorem State.enqueue_counting (k : AdjustKind) : (s.enqueue k).counting = s.counting := rfl
@[simp] theorem State.enqueue_running (k : AdjustKind) : (s.enqueue k).running = s.running := rfl
@[simp] theorem State.enqueue_attached (k : AdjustKind) (q' : Port) : (s.enqueue k).attached q' = s.attached q' := rfl
@[simp] theorem State.enqueue_rawLevel (k : AdjustKind) (d : ChanNo) : (s.enqueue k).rawLevel d = s.rawLevel d := rfl
@[simp] theorem State.enqueue_countEntries (k : AdjustKind) (f : Body → Bool) : (s.enqueue k).countEntries f = s.countEntries f := rfl
@[simp] theorem State.enqueue_portCount (k : AdjustKind) (q' : Port) : (s.enqueue k).portCount q' = s.portCount q' := rfl
@[simp] theorem State.enqueue_lineNaming (k : AdjustKind) (l' : LineNo) : (s.enqueue k).lineNaming l' = s.lineNaming l' := rfl
@[simp] theorem State.enqueue_channelNaming (k : AdjustKind) (d : ChanNo) : (s.enqueue k).channelNaming d = s.channelNaming d := rfl
@[simp] theorem State.enqueue_lowestFree (k : AdjustKind) : (s.enqueue k).lowestFree = s.lowestFree := rfl
@[simp] theorem State.enqueue_generations (k : AdjustKind) : (s.enqueue k).generations = s.generations := rfl

@[simp] theorem State.setQuota_port (p : Port) (q : Nat) (q' : Port) : (s.setQuota p q).port q' = s.port q' := rfl
@[simp] theorem State.setQuota_line (p : Port) (q : Nat) (l' : LineNo) : (s.setQuota p q).line l' = s.line l' := rfl
@[simp] theorem State.setQuota_channel (p : Port) (q : Nat) (d : ChanNo) : (s.setQuota p q).channel d = s.channel d := rfl
@[simp] theorem State.setQuota_sub (p : Port) (q : Nat) (i' : SubIx) : (s.setQuota p q).sub i' = s.sub i' := rfl
@[simp] theorem State.setQuota_now (p : Port) (q : Nat) : (s.setQuota p q).now = s.now := rfl
@[simp] theorem State.setQuota_stamp (p : Port) (q : Nat) : (s.setQuota p q).stamp = s.stamp := rfl
@[simp] theorem State.setQuota_counting (p : Port) (q : Nat) : (s.setQuota p q).counting = s.counting := rfl
@[simp] theorem State.setQuota_running (p : Port) (q : Nat) : (s.setQuota p q).running = s.running := rfl
@[simp] theorem State.setQuota_isHolder (p : Port) (q : Nat) (q' : Port) : (s.setQuota p q).isHolder q' = s.isHolder q' := rfl
@[simp] theorem State.setQuota_attached (p : Port) (q : Nat) (q' : Port) : (s.setQuota p q).attached q' = s.attached q' := rfl
@[simp] theorem State.setQuota_rawLevel (p : Port) (q : Nat) (d : ChanNo) : (s.setQuota p q).rawLevel d = s.rawLevel d := rfl

@[simp] theorem State.setRaw_port (c : ChanNo) (x : PinLevel) (q' : Port) : (s.setRaw c x).port q' = s.port q' := rfl
@[simp] theorem State.setRaw_entry (c : ChanNo) (x : PinLevel) (j : EntryIx) : (s.setRaw c x).entry j = s.entry j := rfl
@[simp] theorem State.setRaw_line (c : ChanNo) (x : PinLevel) (l' : LineNo) : (s.setRaw c x).line l' = s.line l' := rfl
@[simp] theorem State.setRaw_channel (c : ChanNo) (x : PinLevel) (d : ChanNo) : (s.setRaw c x).channel d = s.channel d := rfl
@[simp] theorem State.setRaw_sub (c : ChanNo) (x : PinLevel) (i' : SubIx) : (s.setRaw c x).sub i' = s.sub i' := rfl
@[simp] theorem State.setRaw_now (c : ChanNo) (x : PinLevel) : (s.setRaw c x).now = s.now := rfl
@[simp] theorem State.setRaw_stamp (c : ChanNo) (x : PinLevel) : (s.setRaw c x).stamp = s.stamp := rfl
@[simp] theorem State.setRaw_counting (c : ChanNo) (x : PinLevel) : (s.setRaw c x).counting = s.counting := rfl
@[simp] theorem State.setRaw_isHolder (c : ChanNo) (x : PinLevel) (q' : Port) : (s.setRaw c x).isHolder q' = s.isHolder q' := rfl
@[simp] theorem State.setRaw_attached (c : ChanNo) (x : PinLevel) (q' : Port) : (s.setRaw c x).attached q' = s.attached q' := rfl
@[simp] theorem State.setRaw_countEntries (c : ChanNo) (x : PinLevel) (f : Body → Bool) : (s.setRaw c x).countEntries f = s.countEntries f := rfl
@[simp] theorem State.setRaw_portCount (c : ChanNo) (x : PinLevel) (q' : Port) : (s.setRaw c x).portCount q' = s.portCount q' := rfl
@[simp] theorem State.setRaw_lineNaming (c : ChanNo) (x : PinLevel) (l' : LineNo) : (s.setRaw c x).lineNaming l' = s.lineNaming l' := rfl
@[simp] theorem State.setRaw_channelNaming (c : ChanNo) (x : PinLevel) (d : ChanNo) : (s.setRaw c x).channelNaming d = s.channelNaming d := rfl
@[simp] theorem State.setRaw_lowestFree (c : ChanNo) (x : PinLevel) : (s.setRaw c x).lowestFree = s.lowestFree := rfl
@[simp] theorem State.setRaw_generations (c : ChanNo) (x : PinLevel) : (s.setRaw c x).generations = s.generations := rfl

@[simp] theorem State.setPrst_port (p : Port) (x : PinLevel) (q' : Port) : (s.setPrst p x).port q' = s.port q' := rfl
@[simp] theorem State.setPrst_entry (p : Port) (x : PinLevel) (j : EntryIx) : (s.setPrst p x).entry j = s.entry j := rfl
@[simp] theorem State.setPrst_line (p : Port) (x : PinLevel) (l' : LineNo) : (s.setPrst p x).line l' = s.line l' := rfl
@[simp] theorem State.setPrst_channel (p : Port) (x : PinLevel) (d : ChanNo) : (s.setPrst p x).channel d = s.channel d := rfl
@[simp] theorem State.setPrst_sub (p : Port) (x : PinLevel) (i' : SubIx) : (s.setPrst p x).sub i' = s.sub i' := rfl
@[simp] theorem State.setPrst_now (p : Port) (x : PinLevel) : (s.setPrst p x).now = s.now := rfl
@[simp] theorem State.setPrst_stamp (p : Port) (x : PinLevel) : (s.setPrst p x).stamp = s.stamp := rfl
@[simp] theorem State.setPrst_counting (p : Port) (x : PinLevel) : (s.setPrst p x).counting = s.counting := rfl
@[simp] theorem State.setPrst_isHolder (p : Port) (x : PinLevel) (q' : Port) : (s.setPrst p x).isHolder q' = s.isHolder q' := rfl
@[simp] theorem State.setPrst_attached (p : Port) (x : PinLevel) (q' : Port) : (s.setPrst p x).attached q' = s.attached q' := rfl
@[simp] theorem State.setPrst_countEntries (p : Port) (x : PinLevel) (f : Body → Bool) : (s.setPrst p x).countEntries f = s.countEntries f := rfl
@[simp] theorem State.setPrst_portCount (p : Port) (x : PinLevel) (q' : Port) : (s.setPrst p x).portCount q' = s.portCount q' := rfl
@[simp] theorem State.setPrst_lineNaming (p : Port) (x : PinLevel) (l' : LineNo) : (s.setPrst p x).lineNaming l' = s.lineNaming l' := rfl
@[simp] theorem State.setPrst_channelNaming (p : Port) (x : PinLevel) (d : ChanNo) : (s.setPrst p x).channelNaming d = s.channelNaming d := rfl
@[simp] theorem State.setPrst_lowestFree (p : Port) (x : PinLevel) : (s.setPrst p x).lowestFree = s.lowestFree := rfl
@[simp] theorem State.setPrst_generations (p : Port) (x : PinLevel) : (s.setPrst p x).generations = s.generations := rfl

@[simp] theorem State.holdReset_port (x : Bool) (q' : Port) : (s.holdReset x).port q' = s.port q' := rfl
@[simp] theorem State.holdReset_entry (x : Bool) (j : EntryIx) : (s.holdReset x).entry j = s.entry j := rfl
@[simp] theorem State.holdReset_line (x : Bool) (l' : LineNo) : (s.holdReset x).line l' = s.line l' := rfl
@[simp] theorem State.holdReset_channel (x : Bool) (d : ChanNo) : (s.holdReset x).channel d = s.channel d := rfl
@[simp] theorem State.holdReset_sub (x : Bool) (i' : SubIx) : (s.holdReset x).sub i' = s.sub i' := rfl
@[simp] theorem State.holdReset_now (x : Bool) : (s.holdReset x).now = s.now := rfl
@[simp] theorem State.holdReset_stamp (x : Bool) : (s.holdReset x).stamp = s.stamp := rfl
@[simp] theorem State.holdReset_counting (x : Bool) : (s.holdReset x).counting = s.counting := rfl
@[simp] theorem State.holdReset_isHolder (x : Bool) (q' : Port) : (s.holdReset x).isHolder q' = s.isHolder q' := rfl
@[simp] theorem State.holdReset_attached (x : Bool) (q' : Port) : (s.holdReset x).attached q' = s.attached q' := rfl
@[simp] theorem State.holdReset_countEntries (x : Bool) (f : Body → Bool) : (s.holdReset x).countEntries f = s.countEntries f := rfl
@[simp] theorem State.holdReset_portCount (x : Bool) (q' : Port) : (s.holdReset x).portCount q' = s.portCount q' := rfl
@[simp] theorem State.holdReset_lineNaming (x : Bool) (l' : LineNo) : (s.holdReset x).lineNaming l' = s.lineNaming l' := rfl
@[simp] theorem State.holdReset_channelNaming (x : Bool) (d : ChanNo) : (s.holdReset x).channelNaming d = s.channelNaming d := rfl
@[simp] theorem State.holdReset_lowestFree (x : Bool) : (s.holdReset x).lowestFree = s.lowestFree := rfl
@[simp] theorem State.holdReset_generations (x : Bool) : (s.holdReset x).generations = s.generations := rfl

@[simp] theorem State.setMain_port (x : Bool) (q' : Port) : (s.setMain x).port q' = s.port q' := rfl
@[simp] theorem State.setMain_entry (x : Bool) (j : EntryIx) : (s.setMain x).entry j = s.entry j := rfl
@[simp] theorem State.setMain_line (x : Bool) (l' : LineNo) : (s.setMain x).line l' = s.line l' := rfl
@[simp] theorem State.setMain_channel (x : Bool) (d : ChanNo) : (s.setMain x).channel d = s.channel d := rfl
@[simp] theorem State.setMain_sub (x : Bool) (i' : SubIx) : (s.setMain x).sub i' = s.sub i' := rfl
@[simp] theorem State.setMain_now (x : Bool) : (s.setMain x).now = s.now := rfl
@[simp] theorem State.setMain_stamp (x : Bool) : (s.setMain x).stamp = s.stamp := rfl
@[simp] theorem State.setMain_counting (x : Bool) : (s.setMain x).counting = s.counting := rfl
@[simp] theorem State.setMain_isHolder (x : Bool) (q' : Port) : (s.setMain x).isHolder q' = s.isHolder q' := rfl
@[simp] theorem State.setMain_attached (x : Bool) (q' : Port) : (s.setMain x).attached q' = s.attached q' := rfl
@[simp] theorem State.setMain_countEntries (x : Bool) (f : Body → Bool) : (s.setMain x).countEntries f = s.countEntries f := rfl
@[simp] theorem State.setMain_portCount (x : Bool) (q' : Port) : (s.setMain x).portCount q' = s.portCount q' := rfl
@[simp] theorem State.setMain_lineNaming (x : Bool) (l' : LineNo) : (s.setMain x).lineNaming l' = s.lineNaming l' := rfl
@[simp] theorem State.setMain_channelNaming (x : Bool) (d : ChanNo) : (s.setMain x).channelNaming d = s.channelNaming d := rfl
@[simp] theorem State.setMain_lowestFree (x : Bool) : (s.setMain x).lowestFree = s.lowestFree := rfl
@[simp] theorem State.setMain_generations (x : Bool) : (s.setMain x).generations = s.generations := rfl

@[simp] theorem State.setBackupSupply_port (x : Bool) (q' : Port) : (s.setBackupSupply x).port q' = s.port q' := rfl
@[simp] theorem State.setBackupSupply_entry (x : Bool) (j : EntryIx) : (s.setBackupSupply x).entry j = s.entry j := rfl
@[simp] theorem State.setBackupSupply_line (x : Bool) (l' : LineNo) : (s.setBackupSupply x).line l' = s.line l' := rfl
@[simp] theorem State.setBackupSupply_channel (x : Bool) (d : ChanNo) : (s.setBackupSupply x).channel d = s.channel d := rfl
@[simp] theorem State.setBackupSupply_sub (x : Bool) (i' : SubIx) : (s.setBackupSupply x).sub i' = s.sub i' := rfl
@[simp] theorem State.setBackupSupply_now (x : Bool) : (s.setBackupSupply x).now = s.now := rfl
@[simp] theorem State.setBackupSupply_stamp (x : Bool) : (s.setBackupSupply x).stamp = s.stamp := rfl
@[simp] theorem State.setBackupSupply_counting (x : Bool) : (s.setBackupSupply x).counting = s.counting := rfl
@[simp] theorem State.setBackupSupply_isHolder (x : Bool) (q' : Port) : (s.setBackupSupply x).isHolder q' = s.isHolder q' := rfl
@[simp] theorem State.setBackupSupply_attached (x : Bool) (q' : Port) : (s.setBackupSupply x).attached q' = s.attached q' := rfl
@[simp] theorem State.setBackupSupply_countEntries (x : Bool) (f : Body → Bool) : (s.setBackupSupply x).countEntries f = s.countEntries f := rfl
@[simp] theorem State.setBackupSupply_portCount (x : Bool) (q' : Port) : (s.setBackupSupply x).portCount q' = s.portCount q' := rfl
@[simp] theorem State.setBackupSupply_lineNaming (x : Bool) (l' : LineNo) : (s.setBackupSupply x).lineNaming l' = s.lineNaming l' := rfl
@[simp] theorem State.setBackupSupply_channelNaming (x : Bool) (d : ChanNo) : (s.setBackupSupply x).channelNaming d = s.channelNaming d := rfl
@[simp] theorem State.setBackupSupply_lowestFree (x : Bool) : (s.setBackupSupply x).lowestFree = s.lowestFree := rfl
@[simp] theorem State.setBackupSupply_generations (x : Bool) : (s.setBackupSupply x).generations = s.generations := rfl

@[simp] theorem State.withLeaveCauses_port (c : BitVec 5) (q' : Port) : (s.withLeaveCauses c).port q' = s.port q' := rfl
@[simp] theorem State.withLeaveCauses_entry (c : BitVec 5) (j : EntryIx) : (s.withLeaveCauses c).entry j = s.entry j := rfl
@[simp] theorem State.withLeaveCauses_line (c : BitVec 5) (l' : LineNo) : (s.withLeaveCauses c).line l' = s.line l' := rfl
@[simp] theorem State.withLeaveCauses_channel (c : BitVec 5) (d : ChanNo) : (s.withLeaveCauses c).channel d = s.channel d := rfl
@[simp] theorem State.withLeaveCauses_sub (c : BitVec 5) (i' : SubIx) : (s.withLeaveCauses c).sub i' = s.sub i' := rfl
@[simp] theorem State.withLeaveCauses_now (c : BitVec 5) : (s.withLeaveCauses c).now = s.now := rfl
@[simp] theorem State.withLeaveCauses_stamp (c : BitVec 5) : (s.withLeaveCauses c).stamp = s.stamp := rfl
@[simp] theorem State.withLeaveCauses_counting (c : BitVec 5) : (s.withLeaveCauses c).counting = s.counting := rfl
@[simp] theorem State.withLeaveCauses_running (c : BitVec 5) : (s.withLeaveCauses c).running = s.running := rfl
@[simp] theorem State.withLeaveCauses_isHolder (c : BitVec 5) (q' : Port) : (s.withLeaveCauses c).isHolder q' = s.isHolder q' := rfl
@[simp] theorem State.withLeaveCauses_attached (c : BitVec 5) (q' : Port) : (s.withLeaveCauses c).attached q' = s.attached q' := rfl
@[simp] theorem State.withLeaveCauses_rawLevel (c : BitVec 5) (d : ChanNo) : (s.withLeaveCauses c).rawLevel d = s.rawLevel d := rfl
@[simp] theorem State.withLeaveCauses_countEntries (c : BitVec 5) (f : Body → Bool) : (s.withLeaveCauses c).countEntries f = s.countEntries f := rfl
@[simp] theorem State.withLeaveCauses_portCount (c : BitVec 5) (q' : Port) : (s.withLeaveCauses c).portCount q' = s.portCount q' := rfl
@[simp] theorem State.withLeaveCauses_lineNaming (c : BitVec 5) (l' : LineNo) : (s.withLeaveCauses c).lineNaming l' = s.lineNaming l' := rfl
@[simp] theorem State.withLeaveCauses_channelNaming (c : BitVec 5) (d : ChanNo) : (s.withLeaveCauses c).channelNaming d = s.channelNaming d := rfl
@[simp] theorem State.withLeaveCauses_lowestFree (c : BitVec 5) : (s.withLeaveCauses c).lowestFree = s.lowestFree := rfl
@[simp] theorem State.withLeaveCauses_generations (c : BitVec 5) : (s.withLeaveCauses c).generations = s.generations := rfl

@[simp] theorem State.ownLine_port (l : LineNo) (p : Port) (q' : Port) : (s.ownLine l p).port q' = s.port q' := rfl
@[simp] theorem State.ownLine_entry (l : LineNo) (p : Port) (j : EntryIx) : (s.ownLine l p).entry j = s.entry j := rfl
@[simp] theorem State.ownLine_channel (l : LineNo) (p : Port) (d : ChanNo) : (s.ownLine l p).channel d = s.channel d := rfl
@[simp] theorem State.ownLine_sub (l : LineNo) (p : Port) (i' : SubIx) : (s.ownLine l p).sub i' = s.sub i' := rfl
@[simp] theorem State.ownLine_now (l : LineNo) (p : Port) : (s.ownLine l p).now = s.now := rfl
@[simp] theorem State.ownLine_stamp (l : LineNo) (p : Port) : (s.ownLine l p).stamp = s.stamp := rfl
@[simp] theorem State.ownLine_counting (l : LineNo) (p : Port) : (s.ownLine l p).counting = s.counting := rfl
@[simp] theorem State.ownLine_running (l : LineNo) (p : Port) : (s.ownLine l p).running = s.running := rfl
@[simp] theorem State.ownLine_isHolder (l : LineNo) (p : Port) (q' : Port) : (s.ownLine l p).isHolder q' = s.isHolder q' := rfl
@[simp] theorem State.ownLine_attached (l : LineNo) (p : Port) (q' : Port) : (s.ownLine l p).attached q' = s.attached q' := rfl
@[simp] theorem State.ownLine_rawLevel (l : LineNo) (p : Port) (d : ChanNo) : (s.ownLine l p).rawLevel d = s.rawLevel d := rfl
@[simp] theorem State.ownLine_countEntries (l : LineNo) (p : Port) (f : Body → Bool) : (s.ownLine l p).countEntries f = s.countEntries f := rfl
@[simp] theorem State.ownLine_portCount (l : LineNo) (p : Port) (q' : Port) : (s.ownLine l p).portCount q' = s.portCount q' := rfl
@[simp] theorem State.ownLine_lineNaming (l : LineNo) (p : Port) (l' : LineNo) : (s.ownLine l p).lineNaming l' = s.lineNaming l' := rfl
@[simp] theorem State.ownLine_channelNaming (l : LineNo) (p : Port) (d : ChanNo) : (s.ownLine l p).channelNaming d = s.channelNaming d := rfl
@[simp] theorem State.ownLine_lowestFree (l : LineNo) (p : Port) : (s.ownLine l p).lowestFree = s.lowestFree := rfl
@[simp] theorem State.ownLine_generations (l : LineNo) (p : Port) : (s.ownLine l p).generations = s.generations := rfl

@[simp] theorem State.ownChannel_port (c : ChanNo) (p : Port) (q' : Port) : (s.ownChannel c p).port q' = s.port q' := rfl
@[simp] theorem State.ownChannel_entry (c : ChanNo) (p : Port) (j : EntryIx) : (s.ownChannel c p).entry j = s.entry j := rfl
@[simp] theorem State.ownChannel_line (c : ChanNo) (p : Port) (l' : LineNo) : (s.ownChannel c p).line l' = s.line l' := rfl
@[simp] theorem State.ownChannel_sub (c : ChanNo) (p : Port) (i' : SubIx) : (s.ownChannel c p).sub i' = s.sub i' := rfl
@[simp] theorem State.ownChannel_now (c : ChanNo) (p : Port) : (s.ownChannel c p).now = s.now := rfl
@[simp] theorem State.ownChannel_stamp (c : ChanNo) (p : Port) : (s.ownChannel c p).stamp = s.stamp := rfl
@[simp] theorem State.ownChannel_counting (c : ChanNo) (p : Port) : (s.ownChannel c p).counting = s.counting := rfl
@[simp] theorem State.ownChannel_running (c : ChanNo) (p : Port) : (s.ownChannel c p).running = s.running := rfl
@[simp] theorem State.ownChannel_isHolder (c : ChanNo) (p : Port) (q' : Port) : (s.ownChannel c p).isHolder q' = s.isHolder q' := rfl
@[simp] theorem State.ownChannel_attached (c : ChanNo) (p : Port) (q' : Port) : (s.ownChannel c p).attached q' = s.attached q' := rfl
@[simp] theorem State.ownChannel_rawLevel (c : ChanNo) (p : Port) (d : ChanNo) : (s.ownChannel c p).rawLevel d = s.rawLevel d := rfl
@[simp] theorem State.ownChannel_countEntries (c : ChanNo) (p : Port) (f : Body → Bool) : (s.ownChannel c p).countEntries f = s.countEntries f := rfl
@[simp] theorem State.ownChannel_portCount (c : ChanNo) (p : Port) (q' : Port) : (s.ownChannel c p).portCount q' = s.portCount q' := rfl
@[simp] theorem State.ownChannel_lineNaming (c : ChanNo) (p : Port) (l' : LineNo) : (s.ownChannel c p).lineNaming l' = s.lineNaming l' := rfl
@[simp] theorem State.ownChannel_channelNaming (c : ChanNo) (p : Port) (d : ChanNo) : (s.ownChannel c p).channelNaming d = s.channelNaming d := rfl
@[simp] theorem State.ownChannel_lowestFree (c : ChanNo) (p : Port) : (s.ownChannel c p).lowestFree = s.lowestFree := rfl
@[simp] theorem State.ownChannel_generations (c : ChanNo) (p : Port) : (s.ownChannel c p).generations = s.generations := rfl

@[simp] theorem State.withPending_port (q : List Instr) (q' : Port) : (s.withPending q).port q' = s.port q' := rfl
@[simp] theorem State.withPending_entry (q : List Instr) (j : EntryIx) : (s.withPending q).entry j = s.entry j := rfl
@[simp] theorem State.withPending_line (q : List Instr) (l' : LineNo) : (s.withPending q).line l' = s.line l' := rfl
@[simp] theorem State.withPending_channel (q : List Instr) (d : ChanNo) : (s.withPending q).channel d = s.channel d := rfl
@[simp] theorem State.withPending_sub (q : List Instr) (i' : SubIx) : (s.withPending q).sub i' = s.sub i' := rfl
@[simp] theorem State.withPending_now (q : List Instr) : (s.withPending q).now = s.now := rfl
@[simp] theorem State.withPending_stamp (q : List Instr) : (s.withPending q).stamp = s.stamp := rfl
@[simp] theorem State.withPending_counting (q : List Instr) : (s.withPending q).counting = s.counting := rfl
@[simp] theorem State.withPending_running (q : List Instr) : (s.withPending q).running = s.running := rfl
@[simp] theorem State.withPending_isHolder (q : List Instr) (q' : Port) : (s.withPending q).isHolder q' = s.isHolder q' := rfl
@[simp] theorem State.withPending_attached (q : List Instr) (q' : Port) : (s.withPending q).attached q' = s.attached q' := rfl
@[simp] theorem State.withPending_rawLevel (q : List Instr) (d : ChanNo) : (s.withPending q).rawLevel d = s.rawLevel d := rfl
@[simp] theorem State.withPending_countEntries (q : List Instr) (f : Body → Bool) : (s.withPending q).countEntries f = s.countEntries f := rfl
@[simp] theorem State.withPending_portCount (q : List Instr) (q' : Port) : (s.withPending q).portCount q' = s.portCount q' := rfl
@[simp] theorem State.withPending_lineNaming (q : List Instr) (l' : LineNo) : (s.withPending q).lineNaming l' = s.lineNaming l' := rfl
@[simp] theorem State.withPending_channelNaming (q : List Instr) (d : ChanNo) : (s.withPending q).channelNaming d = s.channelNaming d := rfl
@[simp] theorem State.withPending_lowestFree (q : List Instr) : (s.withPending q).lowestFree = s.lowestFree := rfl
@[simp] theorem State.withPending_generations (q : List Instr) : (s.withPending q).generations = s.generations := rfl

/-! ## Reading back -/

theorem State.port_setPort (p q : Port) (u : PortUnit) : (s.setPort p u).port q = if q = p then u else s.port q := by
  simp only [State.port, State.setPort, Vector.get_eq_getElem, Vector.getElem_set, Fin.ext_iff, eq_comm]

theorem State.entry_setEntry (i j : EntryIx) (e : Entry) :
    (s.setEntry i e).entry j = if j = i then e else s.entry j := by
  simp only [State.entry, State.setEntry, Vector.get_eq_getElem, Vector.getElem_set, Fin.ext_iff, eq_comm]

theorem State.line_setLine (l k : LineNo) (x : Line) : (s.setLine l x).line k = if k = l then x else s.line k := by
  simp only [State.line, State.setLine, Vector.get_eq_getElem, Vector.getElem_set, Fin.ext_iff, eq_comm]

theorem State.channel_setChannel (c d : ChanNo) (x : Channel) :
    (s.setChannel c x).channel d = if d = c then x else s.channel d := by
  simp only [State.channel, State.setChannel, Vector.get_eq_getElem, Vector.getElem_set, Fin.ext_iff, eq_comm]

theorem State.sub_setSub (i j : SubIx) (x : Option Subscription) :
    (s.setSub i x).sub j = if j = i then x else s.sub j := by
  simp only [State.sub, State.setSub, Vector.get_eq_getElem, Vector.getElem_set, Fin.ext_iff, eq_comm]

end Sys2Proof.Machine
end

