-- ==== Sys2Proof/Laws/Frames.lean ====
section
/-! SUPPORT. What the shared operations leave unchanged: for each, the parts of the state it can change at most. -/

namespace Sys2Proof.Machine

/-! ## OnlyChanges -/

theorem OnlyChanges.refl (ps : List Part) (s : State) : OnlyChanges ps s s := by
  exact ⟨fun q _ => by cases q <;> rfl⟩

theorem OnlyChanges.of_eq {ps : List Part} {s t : State} (h : t = s) : OnlyChanges ps s t := h ▸ OnlyChanges.refl ps s

theorem OnlyChanges.trans {ps : List Part} {s t u : State} (h : OnlyChanges ps s t) (k : OnlyChanges ps t u) :
    OnlyChanges ps s u := by
  refine ⟨fun q hq => ?_⟩
  have a := h.keeps q hq
  have b := k.keeps q hq
  cases q <;> exact Eq.trans b a

theorem OnlyChanges.mono {ps qs : List Part} {s t : State} (h : OnlyChanges ps s t) (sub : ∀ q ∈ ps, q ∈ qs) :
    OnlyChanges qs s t := ⟨fun q hq => h.keeps q fun hp => hq (sub q hp)⟩

theorem OnlyChanges.ite {ps : List Part} {s t u : State} {c : Prop} [Decidable c] (h : OnlyChanges ps s t)
    (k : OnlyChanges ps s u) : OnlyChanges ps s (if c then t else u) := by
  split <;> assumption

theorem OnlyChanges.foldl {α : Type} {ps : List Part} {f : State → α → State} (h : ∀ t x, OnlyChanges ps t (f t x))
    (l : List α) (s : State) : OnlyChanges ps s (l.foldl f s) := by
  induction l generalizing s with
  | nil => exact OnlyChanges.refl ps s
  | cons x xs ih => exact (h s x).trans (ih (f s x))

/-- A property that each step of a fold keeps, the fold keeps. -/
theorem foldl_keeps {α β : Type} {P : β → Prop} {f : β → α → β} (h : ∀ t x, P t → P (f t x)) (l : List α) (s : β)
    (hs : P s) : P (l.foldl f s) := by
  induction l generalizing s with
  | nil => exact hs
  | cons x xs ih => exact ih (f s x) (h s x hs)

/-! ## The operations -/

theorem State.setPort_only (s : State) (p : Port) (u : PortUnit) : OnlyChanges [.ports] s (s.setPort p u) := by
  exact ⟨fun q hq => by cases q <;> first | rfl | exact absurd (by decide) hq⟩

theorem State.setBody_only (s : State) (i : EntryIx) (b : Option Body) :
    OnlyChanges [.schedule] s (s.setBody i b) := by
  exact ⟨fun q hq => by cases q <;> first | rfl | exact absurd (by decide) hq⟩

theorem State.setLine_only (s : State) (l : LineNo) (x : Line) : OnlyChanges [.lines] s (s.setLine l x) := by
  exact ⟨fun q hq => by cases q <;> first | rfl | exact absurd (by decide) hq⟩

theorem State.setChannel_only (s : State) (c : ChanNo) (x : Channel) :
    OnlyChanges [.channels] s (s.setChannel c x) := by
  exact ⟨fun q hq => by cases q <;> first | rfl | exact absurd (by decide) hq⟩

theorem State.setSub_only (s : State) (i : SubIx) (x : Option Subscription) :
    OnlyChanges [.subs] s (s.setSub i x) := by
  exact ⟨fun q hq => by cases q <;> first | rfl | exact absurd (by decide) hq⟩

theorem State.raiseAt_only (s : State) (p : Port) (k : Condition) : OnlyChanges [.ports] s (s.raiseAt p k) := by
  unfold State.raiseAt; exact OnlyChanges.ite (State.setPort_only ..) (OnlyChanges.refl ..)

theorem State.raiseAll_only (s : State) (k : Condition) : OnlyChanges [.ports] s (s.raiseAll k) := by
  exact OnlyChanges.foldl (fun t p => t.raiseAt_only p k) _ _

theorem State.raiseAtHolder_only (s : State) (k : Condition) : OnlyChanges [.ports] s (s.raiseAtHolder k) := by
  unfold State.raiseAtHolder; split
  · exact State.raiseAt_only ..
  · exact OnlyChanges.refl ..

theorem State.deliver_only (s : State) (p : Port) (l : Nat) (r : Record) :
    OnlyChanges [.ports] s (s.deliver p l r) := by
  unfold State.deliver; exact OnlyChanges.ite (State.setPort_only ..) (OnlyChanges.refl ..)

theorem State.deliverTo_only (s : State) (p : Option Port) (l : Nat) (r : Record) :
    OnlyChanges [.ports] s (s.deliverTo p l r) := by
  unfold State.deliverTo; split
  · exact State.deliver_only ..
  · exact OnlyChanges.refl ..

theorem State.deliverShared_only (s : State) (src : SubSource) (o : Option (Port × Nat)) (r : Record) :
    OnlyChanges [.ports] s (s.deliverShared src o r) := by
  refine OnlyChanges.foldl (fun t p => ?_) _ _
  split
  · exact State.deliver_only ..
  · exact OnlyChanges.refl ..

theorem State.endSub_only (s : State) (i : SubIx) (u : Subscription) :
    OnlyChanges [.subs, .ports] s (s.endSub i u) := by
  exact ((s.setSub_only i none).mono (by decide)).trans ((State.deliver_only ..).mono (by decide))

theorem State.endSubs_only (s : State) (test : Subscription → Bool) :
    OnlyChanges [.subs, .ports] s (s.endSubs test) := by
  refine OnlyChanges.foldl (fun t i => ?_) _ _
  split
  · exact OnlyChanges.ite (State.endSub_only ..) (OnlyChanges.refl ..)
  · exact OnlyChanges.refl ..

theorem State.endGone_only (s : State) (b : State) : OnlyChanges [.subs, .ports] s (s.endGone b) := by
  exact State.endSubs_only ..

theorem State.dropSubs_only (s : State) (p : Port) : OnlyChanges [.subs] s (s.dropSubs p) := by
  refine OnlyChanges.foldl (fun t i => ?_) _ _
  split
  · exact OnlyChanges.ite (State.setSub_only ..) (OnlyChanges.refl ..)
  · exact OnlyChanges.refl ..

theorem State.applyAction_only (s : State) (l : LineNo) (a : LineAction) (src : ActionSource) :
    OnlyChanges [.lines] s (s.applyAction l a src) := by
  exact State.setLine_only ..

theorem State.endPulse_only (s : State) (l : LineNo) : OnlyChanges [.lines] s (s.endPulse l) := by
  unfold State.endPulse; split
  · exact State.setLine_only ..
  all_goals exact OnlyChanges.refl ..

theorem State.expireHold_only (s : State) (l : LineNo) : OnlyChanges [.lines, .ports] s (s.expireHold l) := by
  unfold State.expireHold; split
  · exact ((State.setLine_only ..).mono (by decide)).trans ((State.deliverTo_only ..).mono (by decide))
  all_goals exact OnlyChanges.refl ..

theorem State.releaseLines_only (s : State) (p : Port) : OnlyChanges [.lines] s (s.releaseLines p) := by
  exact OnlyChanges.foldl (fun t l => OnlyChanges.ite (State.setLine_only ..) (OnlyChanges.refl ..)) _ _

theorem State.markChanged_only (s : State) (c : Content) : OnlyChanges [.digest] s (s.markChanged c) := by
  unfold State.markChanged; split
  · refine OnlyChanges.ite ?_ (OnlyChanges.refl ..)
    exact ⟨fun q hq => by cases q <;> first | rfl | exact absurd (by decide) hq⟩
  · exact OnlyChanges.refl ..

theorem State.bumpFull_only (s : State) : OnlyChanges [.schedule, .digest] s s.bumpFull := by
  refine OnlyChanges.trans ?_ ((State.markChanged_only _ _).mono (by decide))
  exact ⟨fun q hq => by cases q <;> first | rfl | exact absurd (by decide) hq⟩

theorem State.bumpBoth_only (s : State) : OnlyChanges [.schedule, .digest] s s.bumpBoth := by
  refine OnlyChanges.trans ?_ ((State.markChanged_only _ _).mono (by decide))
  refine OnlyChanges.trans ?_ (State.bumpFull_only _)
  exact ⟨fun q hq => by cases q <;> first | rfl | exact absurd (by decide) hq⟩

theorem State.vacate_only (s : State) (i : EntryIx) : OnlyChanges [.schedule, .digest] s (s.vacate i) := by
  exact ((s.setBody_only i none).mono (by decide)).trans (State.bumpBoth_only _)

theorem State.freeEntry_only (s : State) (i : EntryIx) :
    OnlyChanges [.schedule, .subs, .digest, .ports] s (s.freeEntry i) := by
  exact ((s.vacate_only i).mono (by decide)).trans ((State.endGone_only ..).mono (by decide))

theorem State.freeEntriesOf_only (s : State) (p : Port) : OnlyChanges [.schedule, .digest] s (s.freeEntriesOf p) := by
  exact OnlyChanges.foldl (fun t i => OnlyChanges.ite (State.vacate_only ..) (OnlyChanges.refl ..)) _ _

theorem State.fireLine_only (s : State) (i : EntryIx) (n : BitVec 8) (b : Body) :
    OnlyChanges [.lines] s (s.fireLine i n b) := by
  unfold State.fireLine; split
  · exact State.applyAction_only ..
  · exact OnlyChanges.refl ..

theorem State.settleFired_only (s : State) (i : EntryIx) (b : Body) (late : Bool) (due : Nat) :
    OnlyChanges [.schedule, .digest] s (s.settleFired i b late due) := by
  unfold State.settleFired; split
  · exact (State.setBody_only ..).mono (by decide)
  · exact OnlyChanges.ite ((State.setBody_only ..).mono (by decide)) (State.vacate_only ..)

theorem State.fireWithin_only (s : State) (i : EntryIx) (late : Bool) (m : Nat) :
    OnlyChanges [.schedule, .lines, .digest, .ports] s (s.fireWithin i late m) := by
  unfold State.fireWithin; split
  · split
    · exact ((((State.fireLine_only ..).mono (by decide)).trans ((State.deliverShared_only ..).mono (by decide))).trans
        ((State.bumpFull_only _).mono (by decide))).trans ((State.settleFired_only ..).mono (by decide))
    all_goals exact OnlyChanges.refl ..
  · exact OnlyChanges.refl ..

theorem State.fire_only (s : State) (i : EntryIx) (late : Bool) (m : Nat) :
    OnlyChanges [.schedule, .lines, .subs, .digest, .ports] s (s.fire i late m) := by
  exact ((s.fireWithin_only i late m).mono (by decide)).trans ((State.endGone_only ..).mono (by decide))

theorem State.fireWhere_only (s : State) (test : Nat → Bool) :
    OnlyChanges [.schedule, .lines, .subs, .digest, .ports] s (s.fireWhere test) := by
  exact OnlyChanges.foldl (fun t i => OnlyChanges.ite (State.fire_only ..) (OnlyChanges.refl ..)) _ _

theorem State.fireDue_only (s : State) (v : Nat) :
    OnlyChanges [.schedule, .lines, .subs, .digest, .ports] s (s.fireDue v) := by
  exact State.fireWhere_only ..

theorem State.fireReached_only (s : State) :
    OnlyChanges [.schedule, .lines, .subs, .digest, .ports] s s.fireReached := by
  exact (State.fireWhere_only ..).trans (State.fireDue_only ..)

theorem State.fireUnfired_only (s : State) :
    OnlyChanges [.schedule, .unfired, .lines, .subs, .digest, .ports] s s.fireUnfired := by
  refine OnlyChanges.ite ?_ (OnlyChanges.refl ..)
  refine OnlyChanges.trans (t := { s with unfired := false }) ?_ ((State.fireReached_only _).mono (by decide))
  exact ⟨fun q hq => by cases q <;> first | rfl | exact absurd (by decide) hq⟩

theorem State.fireOne_only (s : State) :
    OnlyChanges [.schedule, .unfired, .lines, .subs, .digest, .ports] s s.fireOne := by
  unfold State.fireOne; split
  · split
    · exact ⟨fun q hq => by cases q <;> first | rfl | exact absurd (by decide) hq⟩
    · refine OnlyChanges.trans ?_ ((State.fire_only ..).mono (by decide))
      exact ⟨fun q hq => by cases q <;> first | rfl | exact absurd (by decide) hq⟩
  · exact OnlyChanges.refl ..

theorem State.resolveWithin_only (s : State) (i : EntryIx) :
    OnlyChanges [.schedule, .lines, .digest, .ports] s (s.resolveWithin i) := by
  unfold State.resolveWithin; split
  · split
    · exact OnlyChanges.ite (State.fireWithin_only ..) (OnlyChanges.refl ..)
    all_goals exact OnlyChanges.refl ..
  · exact OnlyChanges.refl ..

theorem State.resolve_only (s : State) (i : EntryIx) :
    OnlyChanges [.schedule, .lines, .subs, .digest, .ports] s (s.resolve i) := by
  exact ((s.resolveWithin_only i).mono (by decide)).trans ((State.endGone_only ..).mono (by decide))

theorem State.stepForward_only (s : State) :
    OnlyChanges [.schedule, .lines, .subs, .digest, .ports] s s.stepForward := by
  refine OnlyChanges.trans (t := allEntries.foldl State.resolveWithin s) ?_ ((State.endGone_only ..).mono (by decide))
  exact (OnlyChanges.foldl (fun t i => State.resolveWithin_only ..) _ _).mono (by decide)

theorem State.recompute_only (s : State) (i : EntryIx) : OnlyChanges [.schedule, .digest] s (s.recompute i) := by
  unfold State.recompute; split
  · split
    · split
      · exact ((State.setBody_only ..).mono (by decide)).trans (State.bumpFull_only _)
      · exact ((State.setBody_only ..).mono (by decide)).trans (State.bumpFull_only _)
      all_goals exact OnlyChanges.refl ..
    all_goals exact OnlyChanges.refl ..
  · exact OnlyChanges.refl ..

theorem State.stepBackward_only (s : State) : OnlyChanges [.schedule, .digest] s s.stepBackward := by
  exact OnlyChanges.foldl (fun t i => State.recompute_only ..) _ _

theorem State.stepTable_only (s : State) (v : Nat) :
    OnlyChanges [.schedule, .lines, .subs, .digest, .ports] s (s.stepTable v) := by
  exact OnlyChanges.ite (State.stepForward_only _) ((State.stepBackward_only _).mono (by decide))

theorem State.armAt_only (s : State) (i : EntryIx) (b : Body) (due : Nat) :
    OnlyChanges [.schedule, .lines, .digest, .ports] s (s.armAt i b due) := by
  have h : OnlyChanges [.schedule, .lines, .digest, .ports] s
      (s.setBody i (some { b with run := .armed due })).bumpFull :=
    ((State.setBody_only ..).mono (by decide)).trans ((State.bumpFull_only _).mono (by decide))
  exact OnlyChanges.ite (h.trans (State.fireWithin_only ..)) h

theorem State.captureAt_only (s : State) (c : ChanNo) (k : RecordKind) (v : Nat) (i : EntryIx) :
    OnlyChanges [.schedule, .lines, .digest, .ports] s (s.captureAt c k v i) := by
  unfold State.captureAt; split
  · split
    · split
      · split
        · exact State.armAt_only ..
        · exact OnlyChanges.ite (State.armAt_only ..) (OnlyChanges.refl ..)
        all_goals exact OnlyChanges.refl ..
      · exact OnlyChanges.refl ..
    all_goals exact OnlyChanges.refl ..
  · exact OnlyChanges.refl ..

theorem State.captureAll_only (s : State) (c : ChanNo) (k : RecordKind) (v : Nat) :
    OnlyChanges [.schedule, .lines, .digest, .ports] s (s.captureAll c k v) := by
  exact OnlyChanges.foldl (fun t i => State.captureAt_only ..) _ _

theorem State.setQuality_only (s : State) (q : Quality) : OnlyChanges [.backup] s (s.setQuality q) := by
  exact ⟨fun q hq => by cases q <;> first | rfl | exact absurd (by decide) hq⟩

theorem State.beginTracking_only (s : State) : OnlyChanges [.backup, .ports] s s.beginTracking := by
  exact ((s.setQuality_only _).mono (by decide)).trans ((State.raiseAll_only ..).mono (by decide))

theorem State.refGoodReached_only (s : State) : OnlyChanges [.backup, .ports] s s.refGoodReached := by
  unfold State.refGoodReached; split
  · exact OnlyChanges.refl ..
  · exact State.beginTracking_only _
  · exact (State.raiseAtHolder_only ..).mono (by decide)
  · exact OnlyChanges.refl ..

theorem State.refGoodLeft_only (s : State) : OnlyChanges [.backup, .ports] s s.refGoodLeft := by
  unfold State.refGoodLeft; split
  · exact ((s.setQuality_only _).mono (by decide)).trans ((State.raiseAll_only ..).mono (by decide))
  all_goals exact OnlyChanges.refl ..

theorem State.judgeQualifying_only (s : State) (e : Int) :
    OnlyChanges [.backup, .monitor, .ports] s (s.judgeQualifying e) := by
  unfold State.judgeQualifying
  dsimp only
  split
  · split
    · exact ⟨fun q hq => by cases q <;> first | rfl | exact absurd (by decide) hq⟩
    · refine OnlyChanges.trans ?_ ((State.refGoodReached_only _).mono (by decide))
      exact ⟨fun q hq => by cases q <;> first | rfl | exact absurd (by decide) hq⟩
  · exact ⟨fun q hq => by cases q <;> first | rfl | exact absurd (by decide) hq⟩

theorem State.judgeGood_only (s : State) (e : Int) : OnlyChanges [.backup, .monitor, .ports] s (s.judgeGood e) := by
  unfold State.judgeGood
  dsimp only
  split
  · exact ⟨fun q hq => by cases q <;> first | rfl | exact absurd (by decide) hq⟩
  · refine OnlyChanges.trans ?_ ((State.refGoodLeft_only _).mono (by decide))
    exact ⟨fun q hq => by cases q <;> first | rfl | exact absurd (by decide) hq⟩

theorem State.windowErrorNow_only (s : State) : OnlyChanges [.freeCount] s s.windowErrorNow.1 := by
  unfold State.windowErrorNow; split
  · exact ⟨fun q hq => by cases q <;> first | rfl | exact absurd (by decide) hq⟩
  · exact OnlyChanges.refl ..

theorem State.endWindow_only (s : State) : OnlyChanges [.backup, .monitor, .ports, .freeCount] s s.endWindow := by
  unfold State.endWindow; split
  · split
    · exact ((State.windowErrorNow_only _).mono (by decide)).trans ((State.judgeQualifying_only ..).mono (by decide))
    · exact ((State.windowErrorNow_only _).mono (by decide)).trans ((State.judgeGood_only ..).mono (by decide))
    all_goals exact OnlyChanges.refl ..
  · exact OnlyChanges.refl ..

theorem State.loseReference_only (s : State) : OnlyChanges [.backup, .monitor, .ports] s s.loseReference := by
  unfold State.loseReference; split
  · exact ⟨fun q hq => by cases q <;> first | rfl | exact absurd (by decide) hq⟩
  · refine OnlyChanges.trans ?_ ((State.refGoodLeft_only _).mono (by decide))
    exact ⟨fun q hq => by cases q <;> first | rfl | exact absurd (by decide) hq⟩
  all_goals exact OnlyChanges.refl ..

theorem State.takeLoss_only (s : State) : OnlyChanges [.backup, .monitor, .ports] s s.takeLoss := by
  exact OnlyChanges.ite (State.loseReference_only s) (OnlyChanges.refl ..)

theorem State.takeEdgeAfter_only (s : State) (g : Nat) :
    OnlyChanges [.backup, .monitor, .ports] s (s.takeEdgeAfter g) := by
  unfold State.takeEdgeAfter; split
  · exact OnlyChanges.refl ..
  · exact ⟨fun q hq => by cases q <;> first | rfl | exact absurd (by decide) hq⟩
  all_goals
    split
    · refine OnlyChanges.trans (State.loseReference_only s) ?_
      exact ⟨fun q hq => by cases q <;> first | rfl | exact absurd (by decide) hq⟩
    · exact ⟨fun q hq => by cases q <;> first | rfl | exact absurd (by decide) hq⟩

theorem State.takeReferenceEdge_only (s : State) (g : Nat) :
    OnlyChanges [.backup, .monitor, .ports] s (s.takeReferenceEdge g) := by
  exact State.takeEdgeAfter_only ..

theorem State.adjustDone_only (s : State) (d : Option Port) (n : BitVec 8) (o : AdjustOutcome) (r : Option Nat) :
    OnlyChanges [.ports] s (s.adjustDone d n o r) := by
  exact State.deliverTo_only ..

theorem State.leaveUnset_only (s : State) : OnlyChanges [.backup, .ports] s s.leaveUnset := by
  exact OnlyChanges.ite (State.beginTracking_only _) ((State.setQuality_only ..).mono (by decide))

theorem State.applyTime_only (s : State) (v : Nat) :
    OnlyChanges [.backup, .schedule, .lines, .subs, .digest, .ports] s (s.applyTime v) := by
  have h : OnlyChanges [.backup, .schedule, .lines, .subs, .digest, .ports] s
      { s with backup := { s.backup with count := v, rangeHeld := false, epoch := s.backup.epoch + 1 } } := by
    exact ⟨fun q hq => by cases q <;> first | rfl | exact absurd (by decide) hq⟩
  unfold State.applyTime
  dsimp only
  refine OnlyChanges.trans ?_ ((State.raiseAll_only ..).mono (by decide))
  refine OnlyChanges.trans ?_ ((State.stepTable_only ..).mono (by decide))
  split
  · exact h.trans ((State.leaveUnset_only _).mono (by decide))
  · exact h

theorem State.slewLeaves_only (s : State) (n : BitVec 8) (o : AdjustOutcome) (a : Nat) :
    OnlyChanges [.slew, .authority] s (s.slewLeaves n o a) := by
  exact ⟨fun q hq => by cases q <;> first | rfl | exact absurd (by decide) hq⟩

theorem State.completeSlew_only (s : State) (a : Nat) :
    OnlyChanges [.slew, .authority, .ports] s (s.completeSlew a) := by
  unfold State.completeSlew; split
  · exact ((State.slewLeaves_only ..).mono (by decide)).trans ((State.adjustDone_only ..).mono (by decide))
  · exact OnlyChanges.refl ..

theorem State.beginSlew_only (s : State) (n : BitVec 8) (a : Int) :
    OnlyChanges [.slew, .authority, .ports] s (s.beginSlew n a) := by
  unfold State.beginSlew
  dsimp only
  split
  · refine OnlyChanges.trans ?_ (State.completeSlew_only ..)
    exact ⟨fun q hq => by cases q <;> first | rfl | exact absurd (by decide) hq⟩
  · exact ⟨fun q hq => by cases q <;> first | rfl | exact absurd (by decide) hq⟩

theorem State.applyWaiting_only (s : State) (n : BitVec 8) (v : Option Nat) :
    OnlyChanges [.backup, .schedule, .lines, .subs, .digest, .ports] s (s.applyWaiting n v) := by
  unfold State.applyWaiting; split
  · exact (State.applyTime_only ..).trans ((State.adjustDone_only ..).mono (by decide))
  · exact (State.adjustDone_only ..).mono (by decide)

theorem State.slewEnded_only (s : State) (a : Nat) :
    OnlyChanges [.backup, .slew, .authority, .schedule, .lines, .subs, .digest, .ports] s (s.slewEnded a) := by
  have h := (s.completeSlew_only a).mono (qs := [.backup, .slew, .authority, .schedule, .lines, .subs, .digest, .ports])
    (by decide)
  unfold State.slewEnded
  dsimp only
  split
  · exact h
  · refine h.trans ?_
    refine OnlyChanges.trans (t := { s.completeSlew a with
      authority := { (s.completeSlew a).authority with waiting := none } }) ?_ ?_
    · exact ⟨fun q hq => by cases q <;> first | rfl | exact absurd (by decide) hq⟩
    · split
      · exact (State.beginSlew_only ..).mono (by decide)
      · exact (State.applyWaiting_only ..).mono (by decide)
      · exact (State.applyWaiting_only ..).mono (by decide)

theorem State.cancelActive_only (s : State) (d : Option Port) :
    OnlyChanges [.slew, .authority, .ports] s (s.cancelActive d) := by
  unfold State.cancelActive; split
  · exact ((State.slewLeaves_only ..).mono (by decide)).trans ((State.adjustDone_only ..).mono (by decide))
  · exact OnlyChanges.refl ..

theorem State.cancelWaiting_only (s : State) (d : Option Port) :
    OnlyChanges [.authority, .ports] s (s.cancelWaiting d) := by
  unfold State.cancelWaiting; split
  · refine OnlyChanges.trans ?_ ((State.adjustDone_only ..).mono (by decide))
    exact ⟨fun q hq => by cases q <;> first | rfl | exact absurd (by decide) hq⟩
  · exact OnlyChanges.refl ..

theorem State.discardQueue_only (s : State) (d : Option Port) :
    OnlyChanges [.slew, .authority, .ports] s (s.discardQueue d) := by
  exact (State.cancelActive_only ..).trans ((State.cancelWaiting_only ..).mono (by decide))

theorem State.offerReference_only (s : State) : OnlyChanges [.ports] s s.offerReference := by
  exact OnlyChanges.ite (State.raiseAtHolder_only ..) (OnlyChanges.refl ..)

theorem State.changeHolder_only (s : State) (n d : Option Port) :
    OnlyChanges [.slew, .authority, .ports] s (s.changeHolder n d) := by
  refine OnlyChanges.trans (OnlyChanges.trans (OnlyChanges.trans (t := { s with
    authority := { s.authority with holder := n } }) ?_ (State.discardQueue_only _ d))
    ((State.raiseAll_only _ .authorityChanged).mono (by decide))) ((State.offerReference_only _).mono (by decide))
  exact ⟨fun q hq => by cases q <;> first | rfl | exact absurd (by decide) hq⟩

theorem State.endSlewAtRange_only (s : State) :
    OnlyChanges [.backup, .slew, .authority, .schedule, .lines, .subs, .digest, .ports] s s.endSlewAtRange := by
  exact OnlyChanges.ite (OnlyChanges.refl ..) (State.slewEnded_only ..)

theorem State.holdRange_only (s : State) : OnlyChanges [.backup] s s.holdRange := by
  exact ⟨fun q hq => by cases q <;> first | rfl | exact absurd (by decide) hq⟩

theorem State.reachEnd_only (s : State) :
    OnlyChanges [.backup, .slew, .authority, .schedule, .lines, .subs, .digest, .ports] s s.reachEnd := by
  exact ((((State.holdRange_only _).mono (by decide)).trans ((State.fireDue_only ..).mono (by decide))).trans
    ((State.raiseAll_only ..).mono (by decide))).trans (State.endSlewAtRange_only _)

theorem State.advanceTo_only (s : State) (v : Nat) (fires : Bool) :
    OnlyChanges [.backup, .schedule, .unfired, .lines, .subs, .digest, .ports] s (s.advanceTo v fires) := by
  unfold State.advanceTo
  dsimp only
  split
  · refine OnlyChanges.trans ?_ ((State.fireReached_only _).mono (by decide))
    exact ⟨fun q hq => by cases q <;> first | rfl | exact absurd (by decide) hq⟩
  · exact ⟨fun q hq => by cases q <;> first | rfl | exact absurd (by decide) hq⟩

theorem State.advanceOne_only (s : State) (fires : Bool) :
    OnlyChanges [.backup, .slew, .authority, .schedule, .unfired, .lines, .subs, .digest, .ports] s (s.advanceOne fires) := by
  unfold State.advanceOne; split
  · exact OnlyChanges.ite ((State.advanceTo_only ..).mono (by decide)) ((State.reachEnd_only _).mono (by decide))
  · exact OnlyChanges.refl ..

theorem State.countBlock_only (s : State) : OnlyChanges [.slew] s s.countBlock := by
  exact ⟨fun q hq => by cases q <;> first | rfl | exact absurd (by decide) hq⟩

theorem State.endSlewIfDone_only (s : State) :
    OnlyChanges [.backup, .slew, .authority, .schedule, .lines, .subs, .digest, .ports] s s.endSlewIfDone := by
  exact OnlyChanges.ite (State.slewEnded_only ..) (OnlyChanges.refl ..)

theorem State.blockEnd_only (s : State) (fires : Bool) :
    OnlyChanges [.backup, .slew, .authority, .schedule, .unfired, .lines, .subs, .digest, .ports] s (s.blockEnd fires) := by
  unfold State.blockEnd; split
  · refine OnlyChanges.ite ?_ ((State.reachEnd_only _).mono (by decide))
    exact (((State.countBlock_only _).mono (by decide)).trans ((State.advanceTo_only ..).mono (by decide))).trans
      ((State.endSlewIfDone_only _).mono (by decide))
  · exact ((State.countBlock_only _).mono (by decide)).trans ((State.endSlewIfDone_only _).mono (by decide))
  · exact OnlyChanges.refl ..

theorem State.timebaseMicro_only (s : State) (fires : Bool) :
    OnlyChanges [.backup, .slew, .authority, .schedule, .unfired, .lines, .subs, .digest, .ports] s (s.timebaseMicro fires) := by
  unfold State.timebaseMicro; split
  · exact State.blockEnd_only ..
  · split
    · exact State.advanceOne_only ..
    · refine OnlyChanges.trans ?_ (State.advanceOne_only ..)
      exact ⟨fun q hq => by cases q <;> first | rfl | exact absurd (by decide) hq⟩

theorem State.deliverCapture_only (s : State) (c : ChanNo) (k : RecordKind) (v : Nat) :
    OnlyChanges [.ports] s (s.deliverCapture c k v) := by
  exact State.deliverShared_only ..

theorem State.handOn_only (depth : Nat) (s : State) (c : ChanNo) (k : RecordKind) (v : Nat) :
    OnlyChanges [.schedule, .lines, .channels, .digest, .ports] s (State.handOn depth s c k v) := by
  induction depth generalizing s c k v with
  | zero => exact OnlyChanges.refl ..
  | succ n ih =>
    have h : OnlyChanges [.schedule, .lines, .channels, .digest, .ports] s
        ((s.deliverCapture c k v).captureAll c k s.now) :=
      ((State.deliverCapture_only ..).mono (by decide)).trans ((State.captureAll_only ..).mono (by decide))
    unfold State.handOn
    dsimp only
    split
    · exact h
    · refine h.trans (OnlyChanges.foldl (fun t d => ?_) _ _)
      split
      · split
        · exact ((State.setChannel_only ..).mono (by decide)).trans (ih ..)
        · exact (State.setChannel_only ..).mono (by decide)
      · exact OnlyChanges.refl ..

theorem State.produce_only (s : State) (c : ChanNo) (k : RecordKind) (v : Nat) :
    OnlyChanges [.schedule, .lines, .channels, .subs, .digest, .ports] s (s.produce c k v) := by
  exact ((State.handOn_only 8 s c k v).mono (by decide)).trans ((State.endGone_only ..).mono (by decide))

theorem State.countEvent_only (s : State) (c : ChanNo) :
    OnlyChanges [.schedule, .lines, .channels, .subs, .digest, .ports] s (s.countEvent c) := by
  unfold State.countEvent
  dsimp only
  split
  · exact ((State.setChannel_only ..).mono (by decide)).trans (State.produce_only ..)
  · exact (State.setChannel_only ..).mono (by decide)

theorem State.measureEdge_only (s : State) (c : ChanNo) (k : RecordKind) :
    OnlyChanges [.schedule, .lines, .channels, .subs, .digest, .ports] s (s.measureEdge c k) := by
  unfold State.measureEdge; split
  · exact (State.setChannel_only ..).mono (by decide)
  · exact ((State.setChannel_only ..).mono (by decide)).trans (State.produce_only ..)

theorem State.actOnEdge_only (s : State) (c : ChanNo) (x : PinLevel) :
    OnlyChanges [.schedule, .lines, .channels, .subs, .digest, .ports] s (s.actOnEdge c x) := by
  unfold State.actOnEdge; split
  · exact OnlyChanges.ite (State.produce_only ..) (OnlyChanges.refl ..)
  · exact OnlyChanges.ite (State.measureEdge_only ..) (OnlyChanges.refl ..)
  · exact State.measureEdge_only ..
  · exact OnlyChanges.ite (State.countEvent_only ..) (OnlyChanges.refl ..)

theorem State.takeEdge_only (s : State) (c : ChanNo) :
    OnlyChanges [.schedule, .lines, .channels, .subs, .digest, .ports] s (s.takeEdge c) := by
  unfold State.takeEdge; split
  · dsimp only
    split
    · exact ((State.setChannel_only ..).mono (by decide)).trans (State.actOnEdge_only ..)
    · exact (State.setChannel_only ..).mono (by decide)
  all_goals exact OnlyChanges.refl ..

theorem State.overflowMeasure_only (s : State) (c : ChanNo) :
    OnlyChanges [.schedule, .lines, .channels, .subs, .digest, .ports] s (s.overflowMeasure c) := by
  unfold State.overflowMeasure; split
  · exact OnlyChanges.ite (((State.setChannel_only ..).mono (by decide)).trans (State.produce_only ..))
      (OnlyChanges.refl ..)
  · exact OnlyChanges.refl ..

theorem State.releaseChannel_only (s : State) (c : ChanNo) :
    OnlyChanges [.channels, .subs, .ports] s (s.releaseChannel c) := by
  exact ((State.setChannel_only ..).mono (by decide)).trans ((State.endGone_only ..).mono (by decide))

theorem State.releaseChannels_only (s : State) (p : Port) : OnlyChanges [.channels] s (s.releaseChannels p) := by
  exact OnlyChanges.foldl (fun t c => OnlyChanges.ite (State.setChannel_only ..) (OnlyChanges.refl ..)) _ _

theorem State.endWalk_only (s : State) (w : Walk) : OnlyChanges [.digest, .ports] s (s.endWalk w) := by
  exact ⟨fun q hq => by cases q <;> first | rfl | exact absurd (by decide) hq⟩

theorem State.storeWalk_only (s : State) (w : Walk) : OnlyChanges [.digest, .ports] s (s.storeWalk w) := by
  refine OnlyChanges.ite ?_ (State.endWalk_only ..)
  exact ⟨fun q hq => by cases q <;> first | rfl | exact absurd (by decide) hq⟩

theorem State.examineNext_only (s : State) : OnlyChanges [.digest, .ports] s s.examineNext := by
  unfold State.examineNext; split
  · split
    · split
      · exact State.storeWalk_only ..
      · exact OnlyChanges.refl ..
    · exact OnlyChanges.refl ..
  · exact OnlyChanges.refl ..

theorem State.abandonWalk_only (s : State) (p : Port) : OnlyChanges [.digest] s (s.abandonWalk p) := by
  unfold State.abandonWalk; split
  · refine OnlyChanges.ite ?_ (OnlyChanges.refl ..)
    exact ⟨fun q hq => by cases q <;> first | rfl | exact absurd (by decide) hq⟩
  · exact OnlyChanges.refl ..

theorem State.takeDue_only (s : State) (d : DueEvent) :
    OnlyChanges [.backup, .monitor, .schedule, .unfired, .lines, .channels, .subs, .digest, .ports, .freeCount] s (s.takeDue d) := by
  cases d
  · exact (State.endPulse_only ..).mono (by decide)
  · exact (State.expireHold_only ..).mono (by decide)
  · exact (State.overflowMeasure_only ..).mono (by decide)
  · exact (State.takeEdge_only ..).mono (by decide)
  · exact (State.endWindow_only ..).mono (by decide)
  · exact (State.takeLoss_only ..).mono (by decide)
  · exact (State.examineNext_only ..).mono (by decide)
  · exact (State.fireOne_only ..).mono (by decide)

theorem State.settle_only (s : State) :
    OnlyChanges [.backup, .monitor, .schedule, .unfired, .lines, .channels, .subs, .digest, .ports, .freeCount] s s.settle := by
  exact ((State.fireUnfired_only s).mono (by decide)).trans
    ((OnlyChanges.foldl (fun t d => State.takeDue_only ..) _ _).mono (by decide))

theorem State.countLines_only (s : State) : OnlyChanges [.lines] s s.countLines := by
  exact OnlyChanges.foldl (fun t l => State.setLine_only ..) _ _

theorem State.countChannels_only (s : State) : OnlyChanges [.channels] s s.countChannels := by
  exact OnlyChanges.foldl (fun t c => State.setChannel_only ..) _ _

theorem State.countTimers_only (s : State) : OnlyChanges [.monitor, .lines, .channels, .digest] s s.countTimers := by
  refine OnlyChanges.trans (((State.countLines_only _).mono (by decide)).trans
    ((State.countChannels_only _).mono (by decide))) ?_
  exact ⟨fun q hq => by cases q <;> first | rfl | exact absurd (by decide) hq⟩

theorem State.runMicro_only (s : State) (first : List DueEvent) (fires : Bool) :
    OnlyChanges [.backup, .slew, .monitor, .authority, .schedule, .unfired, .lines, .channels, .subs, .digest, .ports, .freeCount] s (s.runMicro first fires) := by
  refine OnlyChanges.trans (OnlyChanges.trans (OnlyChanges.trans ((State.settle_only s).mono (by decide))
    ((State.countTimers_only _).mono (by decide))) ?_) ((State.timebaseMicro_only ..).mono (by decide))
  exact (OnlyChanges.foldl (fun t d => State.takeDue_only t d) first _).mono (by decide)

theorem State.micro_only (s : State) (first : List DueEvent) (fires : Bool) :
    OnlyChanges [.backup, .slew, .monitor, .authority, .schedule, .unfired, .lines, .channels, .subs, .digest, .ports, .freeCount] s (s.micro first fires) := by
  unfold State.micro; split
  · exact State.runMicro_only ..
  · refine OnlyChanges.ite ?_ (OnlyChanges.refl ..)
    exact ⟨fun q hq => by cases q <;> first | rfl | exact absurd (by decide) hq⟩

theorem State.finishAdvance_only (s : State) (first : List DueEvent) :
    OnlyChanges [.backup, .monitor, .schedule, .unfired, .lines, .channels, .subs, .digest, .ports, .freeCount] s (s.finishAdvance first) := by
  refine OnlyChanges.ite ?_ (OnlyChanges.refl ..)
  exact (OnlyChanges.foldl (fun t d => State.takeDue_only t d) first _).trans
    ((State.fireUnfired_only _).mono (by decide))

theorem State.releaseAuthorityOf_only (s : State) (p : Port) :
    OnlyChanges [.slew, .authority, .ports] s (s.releaseAuthorityOf p) := by
  exact OnlyChanges.ite (State.changeHolder_only ..) (OnlyChanges.refl ..)

theorem State.giveUp_only (s : State) (p : Port) :
    OnlyChanges [.slew, .authority, .schedule, .lines, .channels, .subs, .digest, .ports] s (s.giveUp p) := by
  exact ((((((State.freeEntriesOf_only ..).mono (by decide)).trans ((State.releaseLines_only ..).mono (by decide))).trans
    ((State.releaseChannels_only ..).mono (by decide))).trans ((State.endGone_only ..).mono (by decide))).trans
    ((State.dropSubs_only ..).mono (by decide))).trans ((State.releaseAuthorityOf_only ..).mono (by decide))

theorem State.portGone_only (s : State) (p : Port) :
    OnlyChanges [.slew, .authority, .schedule, .lines, .channels, .subs, .digest, .ports] s (s.portGone p) := by
  refine OnlyChanges.trans (OnlyChanges.trans (OnlyChanges.trans ?_ (State.giveUp_only (s.setPortState p .resetHold) p))
    ((State.abandonWalk_only ..).mono (by decide))) ((State.setPort_only ..).mono (by decide))
  exact (State.setPort_only ..).mono (by decide)

theorem State.detached_only (s : State) (p : Port) :
    OnlyChanges [.slew, .authority, .schedule, .lines, .channels, .subs, .digest, .ports] s (s.detached p) := by
  refine OnlyChanges.trans (OnlyChanges.trans (OnlyChanges.trans ?_ (State.giveUp_only (s.setPortState p .resetHold) p))
    ((State.setPort_only ..).mono (by decide))) ((State.setPort_only ..).mono (by decide))
  exact (State.setPort_only ..).mono (by decide)

theorem State.leaveReset_only (s : State) (straps : BitVec 3) :
    OnlyChanges [.monitor, .authority, .channels, .ports, .leaveCauses] s (s.leaveReset straps) := by
  refine OnlyChanges.trans (OnlyChanges.trans (OnlyChanges.trans (t := s.leaveChannels)
    ((OnlyChanges.foldl (fun t c => State.setChannel_only ..) _ _).mono (by decide))
    (u := s.leaveChannels.leavePorts) ?_) (u := s.leaveChannels.leavePorts.leaveUnits straps) ?_) ?_
  · exact (OnlyChanges.foldl (fun t p => State.setPort_only ..) _ _).mono (by decide)
  · exact ⟨fun q hq => by cases q <;> first | rfl | exact absurd (by decide) hq⟩
  · exact OnlyChanges.ite ((State.raiseAll_only ..).mono (by decide)) (OnlyChanges.refl ..)

/-! ## A request at a port -/

theorem State.request_only (s : State) (p : Port) (n : Nat) (block : State → State × Option Response) (ps : List Part)
    (hp : Part.ports ∈ ps) (h : ∀ u, OnlyChanges ps u (block u).1) : OnlyChanges ps s (s.request p n block) := by
  have hm : ∀ bs, OnlyChanges ps s (s.shiftOut p bs) := fun bs =>
    (State.setPort_only s p _).mono fun q hq => by simp only [List.mem_singleton] at hq; exact hq ▸ hp
  have hs : ∀ (t : State) (x : Slot), OnlyChanges ps t (t.setSlot p x) := fun t x =>
    (State.setPort_only t p _).mono fun q hq => by simp only [List.mem_singleton] at hq; exact hq ▸ hp
  unfold State.request
  split
  · exact hm _
  · exact hm _
  · have hb := h (s.shiftOut p ((s.port p).requestMiso (n + 3)))
    split <;> rename_i heq <;> rw [heq] at hb
    · exact ((hm _).trans hb).trans (hs _ _)
    · exact (hm _).trans hb

/-- What changes at most some parts each time it happens, changes no others in happening any number of times. -/
theorem InOrder.only {α : Type} {ps : List Part} {happens : α → State → State → Prop}
    (each : ∀ x s t, happens x s t → OnlyChanges ps s t) {l : List α} {s t : State} (h : InOrder happens l s t) :
    OnlyChanges ps s t := by
  induction l generalizing s with
  | nil => exact OnlyChanges.of_eq h
  | cons x rest ih =>
    obtain ⟨u, first, more⟩ := h
    exact (each x s u first).trans (ih more)

/-- What happens in order for two lists, one after the other, happens in order for both as one list. -/
theorem InOrder.append {α : Type} {happens : α → State → State → Prop} {l m : List α} {s t u : State}
    (h : InOrder happens l s t) (k : InOrder happens m t u) : InOrder happens (l ++ m) s u := by
  induction l generalizing s with
  | nil => cases (show t = s from h); exact k
  | cons x rest ih =>
    obtain ⟨v, first, more⟩ := h
    exact ⟨v, first, ih more⟩

/-- Entries that fire one after the other change what firings change. -/
theorem FiresInOrder.only {late : Bool} {l : List EntryIx} {s t : State} (h : FiresInOrder late l s t) :
    OnlyChanges [.schedule, .lines, .subs, .digest, .ports] s t :=
  InOrder.only (fun _ _ _ ⟨_, _, _, _, only, _⟩ => only) h

/-- Two lists of entries that fire one after the other are one list. -/
theorem FiresInOrder.append {late : Bool} {l m : List EntryIx} {s t u : State} (h : FiresInOrder late l s t)
    (k : FiresInOrder late m t u) : FiresInOrder late (l ++ m) s u := InOrder.append h k

end Sys2Proof.Machine
end

