-- ==== Sys2Proof/Laws/Ops.lean ====
section
/-! SUPPORT. What the shared operations do: one lemma for each says what every part it changes holds afterwards. The
operations over all ports, lines, channels or entries are folds; foldl_each says once what such a fold does. -/

namespace Sys2Proof.Machine

/-! ## Folds over the numbered resources -/

theorem mem_allPorts (p : Port) : p ∈ allPorts := by unfold allPorts; exact List.mem_finRange p

theorem nodup_allPorts : allPorts.Nodup := by unfold allPorts; exact List.nodup_finRange 4

theorem mem_allEntries (i : EntryIx) : i ∈ allEntries := by unfold allEntries; exact List.mem_finRange i

theorem nodup_allEntries : allEntries.Nodup := by unfold allEntries; exact List.nodup_finRange 64

theorem mem_allLines (l : LineNo) : l ∈ allLines := by unfold allLines; exact List.mem_finRange l

theorem nodup_allLines : allLines.Nodup := by unfold allLines; exact List.nodup_finRange 16

theorem mem_allChannels (c : ChanNo) : c ∈ allChannels := by unfold allChannels; exact List.mem_finRange c

theorem nodup_allChannels : allChannels.Nodup := by unfold allChannels; exact List.nodup_finRange 8

theorem mem_allSubs (i : SubIx) : i ∈ allSubs := by unfold allSubs; exact List.mem_finRange i

theorem nodup_allSubs : allSubs.Nodup := by unfold allSubs; exact List.nodup_finRange 24

/-- A fold whose step at i changes what is read at i alone, by a function g i of what is read there, changes what is read
at each index of a list without repetitions by its g. -/
theorem foldl_each {σ ι β : Type} [DecidableEq ι] {get : σ → ι → β} {f : σ → ι → σ} {g : ι → β → β}
    (h : ∀ s i j, get (f s i) j = if j = i then g i (get s i) else get s j) (l : List ι) (nodup : l.Nodup) (s : σ)
    (j : ι) : get (l.foldl f s) j = if j ∈ l then g j (get s j) else get s j := by
  induction l generalizing s with
  | nil => simp
  | cons i is ih =>
    rw [List.nodup_cons] at nodup
    rw [List.foldl_cons, ih nodup.2, h]
    by_cases e : j = i
    · subst e; simp [nodup.1]
    · simp [e]

/-! ## Ports: conditions and copies -/

/-- Whether a port unit is that of an attached port. -/
theorem State.attached_eq (s : State) (p : Port) : s.attached p = decide ((s.port p).state ≠ .resetHold) := rfl

@[simp] theorem PortUnit.raise_state (u : PortUnit) (k : Condition) : (u.raise k).state = u.state := rfl
@[simp] theorem PortUnit.raise_slot (u : PortUnit) (k : Condition) : (u.raise k).slot = u.slot := rfl
@[simp] theorem PortUnit.raise_causes (u : PortUnit) (k : Condition) : (u.raise k).causes = u.causes := rfl
@[simp] theorem PortUnit.raise_queue (u : PortUnit) (k : Condition) : (u.raise k).queue = u.queue := rfl
@[simp] theorem PortUnit.raise_gapPending (u : PortUnit) (k : Condition) : (u.raise k).gapPending = u.gapPending := rfl
@[simp] theorem PortUnit.raise_mask (u : PortUnit) (k : Condition) : (u.raise k).mask = u.mask := rfl
@[simp] theorem PortUnit.raise_miso (u : PortUnit) (k : Condition) : (u.raise k).miso = u.miso := rfl
@[simp] theorem PortUnit.raise_transfer (u : PortUnit) (k : Condition) : (u.raise k).transfer = u.transfer := rfl

@[simp] theorem PortUnit.raise_cs (u : PortUnit) (k : Condition) : (u.raise k).cs = u.cs := rfl
@[simp] theorem PortUnit.raise_misoLevel (u : PortUnit) (k : Condition) : (u.raise k).misoLevel = u.misoLevel := rfl

/-- CS is high exactly between transactions. -/
theorem PortUnit.cs_high_iff (u : PortUnit) : u.cs = .high ↔ u.transfer = .idle := by
  unfold PortUnit.cs
  cases u.transfer <;> simp

/-- MISO is high while CS is high (R186). -/
theorem PortUnit.misoLevel_of_cs_high {u : PortUnit} (h : u.cs = .high) : u.misoLevel = .high := by
  unfold PortUnit.misoLevel
  rw [(u.cs_high_iff).mp h]

/-- A transaction's end leaves CS high, and so MISO. -/
theorem State.shiftOut_cs (s : State) (p : Port) (bs : List Byte) : ((s.shiftOut p bs).port p).cs = .high := by
  simp [State.shiftOut, State.port_setPort, PortUnit.cs]

/-- Raising is the same in either order (R164). -/
theorem PortUnit.raise_comm (u : PortUnit) (j k : Condition) : (u.raise j).raise k = (u.raise k).raise j := by
  simp only [PortUnit.raise, addBit, PortUnit.mk.injEq, true_and, and_true]
  rw [BitVec.or_assoc, BitVec.or_assoc, BitVec.or_comm (1#7 <<< j.bit)]

/-- Storing a copy and raising a condition is the same in either order. -/
theorem PortUnit.raise_storeCopy (u : PortUnit) (c : Copy) (k : Condition) :
    (u.storeCopy c).raise k = (u.raise k).storeCopy c := by
  unfold PortUnit.storeCopy
  rw [PortUnit.raise_queue]
  by_cases room : u.queue.length < Config.queueCapacity
  · rw [if_pos room, if_pos room]; rfl
  · rw [if_neg room, if_neg room]
    by_cases low : lowestLevel u.queue < c.level
    · rw [if_pos low, if_pos low]; exact PortUnit.raise_comm ..
    · rw [if_neg low, if_neg low]; exact PortUnit.raise_comm ..

/-- Storing a copy leaves everything but the queue, the gap mark and the conditions as it was (R160, R161). -/
theorem PortUnit.storeCopy_keeps (u : PortUnit) (c : Copy) :
    (u.storeCopy c).state = u.state ∧ (u.storeCopy c).slot = u.slot ∧ (u.storeCopy c).causes = u.causes ∧
      (u.storeCopy c).mask = u.mask ∧ (u.storeCopy c).miso = u.miso ∧ (u.storeCopy c).transfer = u.transfer := by
  simp only [PortUnit.storeCopy]
  split
  · exact ⟨rfl, rfl, rfl, rfl, rfl, rfl⟩
  · split <;> exact ⟨rfl, rfl, rfl, rfl, rfl, rfl⟩

/-- In a queue ordered by level a copy is put behind the copies of its level and above (R160). -/
theorem insertCopy_ordered (c : Copy) (q : List Copy) (h : q.Pairwise fun a b => b.level ≤ a.level) :
    insertCopy c q = (q.filter fun x => decide (c.level ≤ x.level)) ++ [c] ++
      q.filter fun x => decide (x.level < c.level) := by
  induction q with
  | nil => rfl
  | cons x xs ih =>
    rw [List.pairwise_cons] at h
    rw [insertCopy]
    split
    next lt =>
      have a : xs.filter (fun y => decide (c.level ≤ y.level)) = [] := by
        rw [List.filter_eq_nil_iff]
        intro y hy; have := h.1 y hy; simp only [decide_eq_true_eq]; omega
      have b : xs.filter (fun y => decide (y.level < c.level)) = xs := by
        rw [List.filter_eq_self]
        intro y hy; have := h.1 y hy; simp only [decide_eq_true_eq]; omega
      simp [a, b, lt, show ¬ c.level ≤ x.level by omega]
    next ge =>
      simp [ih h.2, ge, show c.level ≤ x.level by omega]

theorem insertCopy_length (c : Copy) (q : List Copy) : (insertCopy c q).length = q.length + 1 := by
  induction q with
  | nil => rfl
  | cons x xs ih => rw [insertCopy]; split <;> simp [ih]

theorem mem_insertCopy (c x : Copy) (q : List Copy) : x ∈ insertCopy c q ↔ x = c ∨ x ∈ q := by
  induction q with
  | nil => simp [insertCopy]
  | cons y ys ih =>
    rw [insertCopy]
    split
    · simp
    · simp only [List.mem_cons, ih]; tauto

theorem insertCopy_pairwise (c : Copy) (q : List Copy) (h : q.Pairwise fun a b => b.level ≤ a.level) :
    (insertCopy c q).Pairwise fun a b => b.level ≤ a.level := by
  induction q with
  | nil => simp [insertCopy]
  | cons x xs ih =>
    rw [List.pairwise_cons] at h
    rw [insertCopy]
    split
    next lt =>
      rw [List.pairwise_cons, List.pairwise_cons]
      refine ⟨fun y hy => ?_, h⟩
      rcases List.mem_cons.1 hy with rfl | hy
      · omega
      · have := h.1 y hy; omega
    next ge =>
      rw [List.pairwise_cons]
      refine ⟨fun y hy => ?_, ih h.2⟩
      rcases (mem_insertCopy c y xs).1 hy with rfl | hy
      · omega
      · exact h.1 y hy

/-- A queue is in order: at most 32 copies, highest level first (R160). -/
theorem PortUnit.storeCopy_ordered (u : PortUnit) (c : Copy)
    (h : u.queue.length ≤ 32 ∧ u.queue.Pairwise fun a b => b.level ≤ a.level) :
    (u.storeCopy c).queue.length ≤ 32 ∧ (u.storeCopy c).queue.Pairwise fun a b => b.level ≤ a.level := by
  unfold PortUnit.storeCopy
  by_cases room : u.queue.length < Config.queueCapacity
  · rw [if_pos room]
    unfold Config.queueCapacity at room
    exact ⟨by rw [insertCopy_length]; omega, insertCopy_pairwise _ _ h.2⟩
  · rw [if_neg room]
    by_cases low : lowestLevel u.queue < c.level
    · rw [if_pos low]
      refine ⟨?_, insertCopy_pairwise _ _ (h.2.sublist (List.dropLast_sublist _))⟩
      simp only [PortUnit.raise_queue, insertCopy_length, List.length_dropLast]; omega
    · rw [if_neg low]; exact h

theorem State.port_raiseAt (s : State) (p q : Port) (k : Condition) :
    (s.raiseAt p k).port q = if q = p then (s.port p).raisedIf (s.attached p) k else s.port q := by
  simp only [State.raiseAt, PortUnit.raisedIf]
  split
  · exact s.port_setPort p q _
  · split
    next e => rw [e]
    · rfl

/-- A condition raised at every attached port (R164). -/
theorem State.port_raiseAll (s : State) (k : Condition) (q : Port) :
    (s.raiseAll k).port q = (s.port q).raisedIf (s.attached q) k := by
  have h := foldl_each (get := State.port) (f := fun t p => State.raiseAt t p k)
    (g := fun _ u => PortUnit.raisedIf (decide (u.state ≠ .resetHold)) k u)
    (fun t p q => t.port_raiseAt p q k) allPorts nodup_allPorts s q
  rw [if_pos (mem_allPorts q)] at h
  exact h

theorem State.port_raiseAtHolder (s : State) (k : Condition) (q : Port) :
    (s.raiseAtHolder k).port q = (s.port q).raisedIf (decide (s.authority.holder = some q) && s.attached q) k := by
  unfold State.raiseAtHolder
  split
  next p e =>
    rw [State.port_raiseAt, e]
    by_cases h : q = p
    · subst h; simp
    · simp [h, PortUnit.raisedIf, show p ≠ q from fun x => h x.symm]
  next e => simp [e, PortUnit.raisedIf]

/-- A record delivered to one port (R155). -/
theorem State.port_deliver (s : State) (p q : Port) (l : Nat) (r : Record) :
    (s.deliver p l r).port q = if q = p then (s.port p).storesIf (s.attached p) [(l, r)] else s.port q := by
  simp only [State.deliver, PortUnit.storesIf, PortUnit.stores]
  split
  · exact s.port_setPort p q _
  · split
    next e => rw [e]
    · rfl

theorem State.port_deliverTo (s : State) (p : Option Port) (q : Port) (l : Nat) (r : Record) :
    (s.deliverTo p l r).port q = (s.port q).storesIf (decide (p = some q) && s.attached q) [(l, r)] := by
  unfold State.deliverTo
  split
  next p =>
    rw [State.port_deliver]
    by_cases h : q = p
    · subst h; simp
    · simp [h, PortUnit.storesIf, show p ≠ q from fun x => h x.symm]
  next => simp [PortUnit.storesIf]

/-- A capture or FIRING record delivered to its owner and its subscribers: one copy a port, at the highest of its levels
(R153, R154). -/
theorem State.port_deliverShared (s : State) (src : SubSource) (o : Option (Port × Nat)) (r : Record) (q : Port) :
    (s.deliverShared src o r).port q = (s.port q).storesIf (s.attached q)
      ((highest (s.copyLevels src r.kind o q)).map fun l => (l, r)).toList := by
  have h := foldl_each (get := State.port)
    (f := fun t p => match highest (s.copyLevels src r.kind o p) with
      | some l => State.deliver t p l r
      | none => t)
    (g := fun p u => u.storesIf (decide (u.state ≠ .resetHold))
      ((highest (s.copyLevels src r.kind o p)).map fun l => (l, r)).toList)
    (fun t p q => by
      split
      next l e => rw [State.port_deliver, e]; rfl
      next e =>
        split
        next e' => rw [e', e]; simp [PortUnit.storesIf, PortUnit.stores]
        · rfl) allPorts nodup_allPorts s q
  rw [if_pos (mem_allPorts q)] at h
  exact h

/-- A reset cause added at every attached port (R183). -/
theorem State.port_causeAttached (s : State) (c : ResetCause) (q : Port) :
    (s.causeAttached c).port q = if s.attached q = true then (s.port q).addCause c else s.port q := by
  have h := foldl_each (get := State.port)
    (f := fun t p => if State.attached t p = true then t.setPort p ((t.port p).addCause c) else t)
    (g := fun _ u => if decide (u.state ≠ .resetHold) = true then u.addCause c else u)
    (fun t p q => by
      rw [State.attached_eq]
      by_cases a : decide ((t.port p).state ≠ .resetHold) = true
      · rw [if_pos a, if_pos a]; exact t.port_setPort p q _
      · rw [if_neg a, if_neg a]
        split
        next e => rw [e]
        · rfl) allPorts nodup_allPorts s q
  rw [if_pos (mem_allPorts q)] at h
  exact h

/-! ## Subscriptions -/

theorem State.sub_endSub (s : State) (i j : SubIx) (u : Subscription) :
    (s.endSub i u).sub j = if j = i then none else s.sub j := by
  have h : (s.endSub i u).sub j = (s.setSub i none).sub j := by
    unfold State.endSub State.deliver; split <;> rfl
  rw [h, State.sub_setSub]

/-- The subscriptions that satisfy a test are gone (R159). -/
theorem State.sub_endSubs (s : State) (test : Subscription → Bool) : SubsEnd test s (s.endSubs test) := by
  intro j
  have h := foldl_each (get := State.sub)
    (f := fun t i => match State.sub t i with
      | some u => if test u = true then t.endSub i u else t
      | none => t)
    (g := fun _ x => match x with
      | some u => if test u = true then none else some u
      | none => none)
    (fun t i j => by
      split
      next u e =>
        split
        · exact State.sub_endSub ..
        · split
          next e' => rw [e', e]
          · rfl
      next e =>
        split
        next e' => rw [e', e]
        · rfl) allSubs nodup_allSubs s j
  rw [if_pos (mem_allSubs j)] at h
  exact h

/-- The subscriptions of a port are gone (R169). -/
theorem State.sub_dropSubs (s : State) (p : Port) : SubsEnd (fun u => decide (u.subscriber = p)) s (s.dropSubs p) := by
  intro j
  have h := foldl_each (get := State.sub)
    (f := fun t i => match State.sub t i with
      | some u => if u.subscriber = p then t.setSub i none else t
      | none => t)
    (g := fun _ x => match x with
      | some u => if decide (u.subscriber = p) = true then none else some u
      | none => none)
    (fun t i j => by
      split
      next u e =>
        split
        next c => rw [State.sub_setSub]; simp [c]
        next c =>
          split
          next e' => rw [e', e]; simp [c]
          · rfl
      next e =>
        split
        next e' => rw [e', e]
        · rfl) allSubs nodup_allSubs s j
  rw [if_pos (mem_allSubs j)] at h
  exact h

theorem PortUnit.stores_append (u : PortUnit) (a b : List (Nat × Record)) : u.stores (a ++ b) = (u.stores a).stores b :=
  List.foldl_append ..

theorem PortUnit.stores_state (u : PortUnit) (rs : List (Nat × Record)) : (u.stores rs).state = u.state := by
  unfold PortUnit.stores
  induction rs generalizing u with
  | nil => rfl
  | cons x xs ih => rw [List.foldl_cons, ih]; exact (PortUnit.storeCopy_keeps u _).1

theorem PortUnit.storesIf_state (u : PortUnit) (a : Bool) (rs : List (Nat × Record)) :
    (u.storesIf a rs).state = u.state := by
  unfold PortUnit.storesIf; split
  · exact u.stores_state rs
  · rfl

theorem PortUnit.storesIf_append (u : PortUnit) (a : Bool) (x y : List (Nat × Record)) :
    u.storesIf a (x ++ y) = (u.storesIf a x).storesIf a y := by
  unfold PortUnit.storesIf; cases a
  · rfl
  · exact u.stores_append x y

theorem PortUnit.storesIf_nil (u : PortUnit) (a : Bool) : u.storesIf a [] = u := by
  unfold PortUnit.storesIf; cases a <;> rfl

/-- The port of a subscriber receives SUB_ENDED, and no other port changes (R159). -/
theorem State.port_endSub (s : State) (i : SubIx) (u : Subscription) (q : Port) :
    (s.endSub i u).port q = (s.port q).storesIf (s.attached q)
      (if u.subscriber = q then [(2, subEndedRecord i s.stamp)] else []) := by
  unfold State.endSub
  rw [State.port_deliver]
  by_cases e : u.subscriber = q
  · subst e; simp
  · rw [if_neg fun h => e h.symm, if_neg e, PortUnit.storesIf_nil]; rfl

/-- The ports receive SUB_ENDED for each of their subscriptions that end, in ascending order of index (R159). -/
theorem State.port_endSubs (s : State) (test : Subscription → Bool) (q : Port) :
    (s.endSubs test).port q = (s.port q).storesIf (s.attached q) (s.endedRecords test s.stamp q) := by
  have key : ∀ l : List SubIx, l.Nodup → ∀ t : State, (∀ j ∈ l, t.sub j = s.sub j) → t.stamp = s.stamp →
      (l.foldl (fun t i => match State.sub t i with
        | some u => if test u = true then t.endSub i u else t
        | none => t) t).port q = (t.port q).storesIf (t.attached q)
          (l.filterMap fun j => match s.sub j with
            | some u => if test u = true ∧ u.subscriber = q then some (2, subEndedRecord j s.stamp) else none
            | none => none) := by
    intro l
    induction l with
    | nil => intro _ t _ _; exact (PortUnit.storesIf_nil ..).symm
    | cons i is ih =>
      intro nodup t same stamp
      rw [List.nodup_cons] at nodup
      rw [List.foldl_cons, List.filterMap_cons, ← same i (List.mem_cons_self ..)]
      have rest : ∀ j ∈ is, t.sub j = s.sub j := fun j hj => same j (List.mem_cons_of_mem _ hj)
      rcases e : t.sub i with _ | u
      · exact ih nodup.2 t rest stamp
      · by_cases h : test u = true
        · dsimp only
          rw [if_pos h, ih nodup.2 (t.endSub i u)]
          · rw [State.attached_eq, State.port_endSub, PortUnit.storesIf_state, stamp]
            by_cases sub : u.subscriber = q
            · rw [if_pos sub, if_pos ⟨h, sub⟩, ← State.attached_eq, ← PortUnit.storesIf_append]; rfl
            · rw [if_neg sub, if_neg fun x => sub x.2, PortUnit.storesIf_nil]; rfl
          · intro j hj
            rw [State.sub_endSub, if_neg fun (x : j = i) => nodup.1 (x ▸ hj)]; exact rest j hj
          · rw [← stamp]; unfold State.endSub State.deliver; split <;> rfl
        · dsimp only
          rw [if_neg h, if_neg fun x => h x.1]
          exact ih nodup.2 t rest stamp
  have h := key allSubs nodup_allSubs s (fun _ _ => rfl) rfl
  unfold State.endedRecords
  rw [show List.finRange 24 = allSubs by unfold allSubs; rfl]
  exact h

/-- A state whose subscriptions satisfy no test has none that end. -/
theorem State.endSubs_none {s : State} {test : Subscription → Bool} (h : ∀ j u, s.sub j = some u → test u = false) :
    s.endSubs test = s := by
  unfold State.endSubs
  refine foldl_keeps (P := fun t => t = s) (fun t i e => ?_) _ _ rfl
  subst e
  split
  next u found => rw [h i u found]; rfl
  · rfl

/-- The end of an event: the subscriptions whose sources have gone in it are gone, and each port has its records of them, in
ascending order of index (R159). -/
theorem State.endGone_spec (t s : State) :
    SubsEnd (fun u => t.sourceGone s u.source) t (t.endGone s) ∧
      ∀ q, (t.endGone s).port q = (t.port q).storesIf (t.attached q)
        (t.endedRecords (fun u => t.sourceGone s u.source) t.stamp q) :=
  ⟨t.sub_endSubs _, t.port_endSubs _⟩

/-- An event that frees no entry and gives up no channel ends no subscription (R159). -/
theorem State.endGone_none {t s : State} (entries : ∀ i, (s.entry i).body.isSome = true → (t.entry i).body.isSome = true)
    (channels : ∀ c, (s.channel c).owner.isSome = true → (t.channel c).owner.isSome = true) : t.endGone s = t := by
  refine State.endSubs_none fun _ u _ => ?_
  cases u.source with
  | channel c =>
    have k := channels c
    unfold State.sourceGone
    cases e : (s.channel c).owner <;> cases e' : (t.channel c).owner <;> simp_all
  | entry i inst =>
    have k := entries i
    unfold State.sourceGone
    cases e : (s.entry i).body <;> cases e' : (t.entry i).body <;> simp_all

/-- The copy of a shared record that each port receives, in the words of the statements (R154). -/
theorem State.recordCopies_eq (s : State) (src : SubSource) (o : Option (Port × Nat)) (r : Record) (q : Port) :
    s.recordCopies src o r q = ((highest (s.copyLevels src r.kind o q)).map fun l => (l, r)).toList := by
  have top : ∀ l : List Nat, highest l = l.max? := fun l => by cases l <;> rfl
  rw [top]
  have all : allSubs = List.finRange 24 := by unfold allSubs; rfl
  unfold State.recordCopies State.copyLevels
  simp only [Subscription.covers, inKinds, Bool.and_eq_true, decide_eq_true_eq]
  generalize allSubs = l at all ⊢
  subst all
  rfl

/-! ## The end of a window -/

/-- The error of a window in which no interval was measured lies in the range of R26. -/
theorem freeError_range (n : Nat) : -32768 ≤ freeError n ∧ freeError n ≤ 32767 := by
  unfold freeError
  omega

/-- A window in which no interval was measured has a free value as its error (log 11). -/
theorem State.windowErrorNow_unmeasured {s : State} (h : s.monitor.measured = 0) :
    s.windowErrorNow = ({ s with freeCount := s.freeCount + 1 }, freeError s.freeCount) := if_pos h

/-- A window in which an interval was measured draws no free value (R26). -/
theorem State.windowErrorNow_measured {s : State} (h : 0 < s.monitor.measured) :
    s.windowErrorNow = (s, windowError s.monitor.cycles s.monitor.measured) := if_neg (by omega)

/-! ## The firings of an advance -/

/-- Where no ARMED entry's due time satisfies a test, none fires. -/
theorem State.fireWhere_none {s : State} {test : Nat → Bool} (h : ∀ i, (s.entry i).armedDue.any test = false) :
    s.fireWhere test = s := by
  unfold State.fireWhere
  refine foldl_keeps (P := fun t => t = s) (fun t i e => ?_) allEntries s rfl
  subst e
  rw [h i]
  rfl

/-- Where no due time is at or before now, an advance calls for no firing. -/
theorem State.fireReached_none {s : State} (h : ∀ i d, (s.entry i).armedDue = some d → s.now < d) : s.fireReached = s := by
  have none : ∀ test : Nat → Bool, (∀ d, s.now < d → test d = false) → s.fireWhere test = s := fun test later =>
    State.fireWhere_none fun i => by
      cases e : (s.entry i).armedDue with
      | none => rfl
      | some d => exact later d (h i d e)
  unfold State.fireReached State.fireDue
  rw [none _ fun d k => decide_eq_false (by omega), none _ fun d k => decide_eq_false (by omega)]

/-- Where no firing is left, making those that are left changes nothing. -/
@[simp] theorem State.fireUnfired_none {s : State} (h : s.unfired = false) : s.fireUnfired = s := by
  unfold State.fireUnfired
  rw [h]
  rfl

/-- Where firings are left, they are those the advance called for (R98; log 30). -/
theorem State.fireUnfired_left {s : State} (h : s.unfired = true) :
    s.fireUnfired = State.fireReached { s with unfired := false } := by
  unfold State.fireUnfired
  rw [if_pos h]

/-- Where no firing is left, making the next one changes nothing. -/
@[simp] theorem State.fireOne_none {s : State} (h : s.unfired = false) : s.fireOne = s := by
  unfold State.fireOne
  rw [h]
  rfl

/-- The entries whose firings an advance calls for are those it has passed, and then those due at now (R98). -/
theorem State.reached_eq (s : State) : s.reached = s.passed ++ s.dueAt s.now := by
  unfold State.reached State.passed State.dueAt allEntries
  rfl

/-- The next one of the firings left is that of the first entry reached, and the rest are left (R98; log 30). -/
theorem State.fireOne_cons {s : State} {i : EntryIx} {rest : List EntryIx} (h : s.unfired = true)
    (r : s.reached = i :: rest) : s.fireOne = State.fire { s with unfired := !rest.isEmpty } i false 0 := by
  unfold State.fireOne
  rw [if_pos h, r]

/-- No firing is left once those that were left are made. -/
@[simp] theorem State.unfired_fireUnfired (s : State) : s.fireUnfired.unfired = false := by
  cases h : s.unfired with
  | false => rw [State.fireUnfired_none h]; exact h
  | true => rw [State.fireUnfired_left h]; exact (State.fireReached_only _).keeps .unfired (by decide)

/-- No firing is left where everything due at an instant has been taken (R98). -/
@[simp] theorem State.unfired_settle (s : State) : s.settle.unfired = false := by
  have h : ∀ d t, State.unfired t = false → (t.takeDue d).unfired = false := fun d t k => by
    cases d with
    | pulseEnd l => exact ((State.endPulse_only t l).keeps .unfired (by decide)).trans k
    | holdExpiry l => exact ((State.expireHold_only t l).keeps .unfired (by decide)).trans k
    | overflow c => exact ((State.overflowMeasure_only t c).keeps .unfired (by decide)).trans k
    | edge c => exact ((State.takeEdge_only t c).keeps .unfired (by decide)).trans k
    | windowEnd => exact ((State.endWindow_only t).keeps .unfired (by decide)).trans k
    | loss => exact ((State.takeLoss_only t).keeps .unfired (by decide)).trans k
    | examine => exact ((State.examineNext_only t).keeps .unfired (by decide)).trans k
    | firing => exact (congrArg State.unfired (State.fireOne_none k)).trans k
  exact foldl_keeps (P := fun t => State.unfired t = false) (fun t d k => h d t k) _ _ (State.unfired_fireUnfired s)

/-- An advance that makes its firings. -/
theorem State.advanceTo_fires (s : State) (v : Nat) :
    s.advanceTo v true = State.fireReached { s with backup := { s.backup with count := v } } := rfl

/-- An advance that leaves its firings. -/
theorem State.advanceTo_left (s : State) (v : Nat) :
    s.advanceTo v false = { s with backup := { s.backup with count := v }, unfired := true } := rfl

/-! ## Lines and channels -/

/-- Every line's timer has counted one device microsecond (R114). -/
theorem State.line_countLines (s : State) (l : LineNo) :
    s.countLines.line l = { s.line l with drive := (s.line l).drive.counted } := by
  have h := foldl_each (get := State.line)
    (f := fun t l => State.setLine t l { t.line l with drive := (t.line l).drive.counted })
    (g := fun _ x => { x with drive := x.drive.counted })
    (fun t l k => t.line_setLine l k _) allLines nodup_allLines s l
  rw [if_pos (mem_allLines l)] at h
  exact h

/-- Every channel has counted one device microsecond (R133, R144). -/
theorem State.channel_countChannels (s : State) (c : ChanNo) : s.countChannels.channel c = (s.channel c).tick := by
  have h := foldl_each (get := State.channel) (f := fun t c => State.setChannel t c (t.channel c).tick)
    (g := fun _ x => x.tick) (fun t c d => t.channel_setChannel c d _) allChannels nodup_allChannels s c
  rw [if_pos (mem_allChannels c)] at h
  exact h

/-- The unpinned lines of a port are released, and the others as they were (R129, R130). -/
theorem State.line_releaseLines (s : State) (p : Port) (l : LineNo) :
    (s.releaseLines p).line l =
      if (s.line l).owner = some p ∧ (s.line l).pinned = false then (s.line l).released else s.line l := by
  have h := foldl_each (get := State.line)
    (f := fun t l => if (State.line t l).owner = some p ∧ (t.line l).pinned = false
      then t.setLine l (t.line l).released else t)
    (g := fun _ x => if x.owner = some p ∧ x.pinned = false then x.released else x)
    (fun t l k => by
      split
      · exact t.line_setLine l k _
      · split
        next e => rw [e]
        · rfl) allLines nodup_allLines s l
  rw [if_pos (mem_allLines l)] at h
  exact h

/-- The filtered level of every channel is its pin's (R133, R152). -/
theorem State.channel_leaveChannels (s : State) (c : ChanNo) :
    s.leaveChannels.channel c = { s.channel c with filtered := s.rawLevel c } := by
  have key : ∀ l : List ChanNo, l.Nodup → ∀ t : State, t.pins = s.pins →
      (l.foldl (fun t c => State.setChannel t c { t.channel c with filtered := t.rawLevel c }) t).channel c =
        if c ∈ l then { t.channel c with filtered := s.rawLevel c } else t.channel c := by
    intro l
    induction l with
    | nil => intro _ t _; simp
    | cons d ds ih =>
      intro nodup t e
      rw [List.nodup_cons] at nodup
      rw [List.foldl_cons, ih nodup.2 _ (by exact e), State.channel_setChannel]
      by_cases eq : c = d
      · subst eq; simp [nodup.1, State.rawLevel, e]
      · simp [eq]
  have h := key allChannels nodup_allChannels s rfl
  rw [if_pos (mem_allChannels c)] at h
  exact h

/-- Every port as the part leaves reset (R183, R185). -/
theorem State.port_leavePorts (s : State) (p : Port) :
    s.leavePorts.port p = (s.port p).leaving (s.pins.prst.get p) s.leaveCauses := by
  have key : ∀ l : List Port, l.Nodup → ∀ t : State, t.pins = s.pins → t.leaveCauses = s.leaveCauses →
      (l.foldl (fun t p => State.setPort t p ((t.port p).leaving (t.pins.prst.get p) t.leaveCauses)) t).port p =
        if p ∈ l then (t.port p).leaving (s.pins.prst.get p) s.leaveCauses else t.port p := by
    intro l
    induction l with
    | nil => intro _ t _ _; simp
    | cons d ds ih =>
      intro nodup t e e'
      rw [List.nodup_cons] at nodup
      rw [List.foldl_cons, ih nodup.2 _ (by exact e) (by exact e'), State.port_setPort]
      by_cases eq : p = d
      · subst eq; simp [nodup.1, e, e']
      · simp [eq]
  have h := key allPorts nodup_allPorts s rfl rfl
  rw [if_pos (mem_allPorts p)] at h
  exact h

/-! ## Transactions and requests -/

/-- Every port of a part that is without power or held in reset. -/
@[simp] theorem State.port_resetMain (s : State) (p : Port) : s.resetMain.port p = (s.port p).atReset := by
  simp only [State.port, State.resetMain, Vector.get_eq_getElem, Vector.getElem_map]

/-- A request reaches a port that takes it, one that discards it, or one that ignores it (R178 to R180). -/
theorem ready_or_discards_or_ignores (s : State) (p : Port) : Ready s p ∨ Discards s p ∨ Ignores s p := by
  unfold Ready Discards Ignores
  cases hs : (s.port p).state <;> cases ht : (s.port p).transfer.saysExecuting <;>
    by_cases ha : (s.port p).transfer = .abandoned <;> simp_all

/-- A port that takes requests hears as READY (R178). -/
theorem Ready.hears {s : State} {p : Port} (h : Ready s p) : (s.port p).hears = .ready := by
  obtain ⟨hs, ha, ht⟩ := h
  unfold PortUnit.hears
  split
  · simp [hs, ht]
  · exact hs
  · contradiction

/-- A port that discards request frames hears as EXECUTING, with the walk ended or not (R179, R180). -/
theorem Discards.hears {s : State} {p : Port} (h : Discards s p) : (s.port p).hears = .executing := by
  unfold PortUnit.hears
  obtain ⟨hs, ha⟩ | h := h
  · split
    · simp [hs]
    · exact hs
    · contradiction
  · split <;> rename_i e
    · exact if_pos h
    · rw [e] at h; cases h.2
    · rw [e] at h; cases h.2

/-- An abandoned transaction is ignored, as every one is in RESET_HOLD (R178). -/
theorem Ignores.hears {s : State} {p : Port} (h : Ignores s p) : (s.port p).hears = .resetHold := by
  unfold PortUnit.hears
  obtain hs | ha := h
  · split
    · simp [hs]
    · exact hs
    · rfl
  · rw [ha]

/-- CS going low is seen at a port whose CS is high alone (R179; log 4). -/
theorem PortUnit.opened_low {u : PortUnit} (h : u.transfer ≠ .idle) : u.opened = u := by
  unfold PortUnit.opened
  split <;> first | rfl | contradiction

/-- What a port samples as CS goes low (R178, R179, R181). -/
theorem PortUnit.opened_high {u : PortUnit} (h : u.transfer = .idle) :
    u.opened = { u with transfer := if u.state = .resetHold then .abandoned else .begun u.statusByte u.slot } := by
  unfold PortUnit.opened
  rw [h]
  cases hs : u.state <;> rfl

/-- CS is low once it has gone low, in a transaction that goes on as in one that begins. -/
theorem PortUnit.opened_cs (u : PortUnit) : u.opened.cs = .low := by
  unfold PortUnit.opened PortUnit.cs
  cases ht : u.transfer <;> cases u.state <;> simp [ht]

/-- A reset leaves no transaction that the port goes on hearing (R178). -/
theorem Transfer.broken_eq (x : Transfer) : x.broken = if x = .idle then .idle else .abandoned := by
  cases x <;> rfl

/-- What a request does at a READY port: its block runs with the status byte shifted out, and its answer, if it gives one,
goes to the slot (R178 to R180). -/
theorem State.request_ready {s : State} {p : Port} (h : Ready s p) (n : Nat)
    (block : State → State × Option Response) :
    s.request p n block =
      match block (s.shiftOut p ((s.port p).requestMiso (n + 3))) with
      | (t, some r) => t.setSlot p (.ready r)
      | (t, none) => t := by
  unfold State.request
  split <;> rename_i e
  · rw [h.hears] at e; cases e
  · rw [h.hears] at e; cases e
  · rfl

/-- A request frame that reaches a port which discards it shows the status byte on MISO, and ends there (R179, R180). -/
theorem State.request_discarded {s : State} {p : Port} (h : Discards s p) (n : Nat)
    (block : State → State × Option Response) :
    s.request p n block = s.shiftOut p ((s.port p).requestMiso (n + 3)) := by
  simp only [State.request, h.hears]

/-- A request frame that reaches a port which ignores it finds MISO high throughout, and ends there (R178). -/
theorem State.request_ignored {s : State} {p : Port} (h : Ignores s p) (n : Nat)
    (block : State → State × Option Response) :
    s.request p n block = s.shiftOut p (List.replicate (n + 3) 0xFF) := by
  simp only [State.request, h.hears]

/-- A request that its block refuses changes its port's slot and MISO alone (R180). -/
theorem State.request_refused {s : State} {p : Port} (h : Ready s p) (n : Nat) (x : Status)
    {block : State → State × Option Response}
    (hb : block (s.shiftOut p ((s.port p).requestMiso (n + 3))) =
      (s.shiftOut p ((s.port p).requestMiso (n + 3))).refuse x) :
    Refused p n x s (s.request p n block) := by
  rw [State.request_ready h, hb]
  dsimp only [State.refuse, State.answer]
  refine ⟨(State.setPort_only ..).trans (State.setPort_only ..), ?_, fun q hq => ?_⟩
  · simp [State.setSlot, State.shiftOut, State.port_setPort, PortUnit.replied, PortUnit.requestMiso]
  · simp [State.setSlot, State.shiftOut, State.port_setPort, hq]

/-- A request that its block answers without changing anything changes its port's slot and MISO alone. -/
theorem State.request_reported {s : State} {p : Port} (h : Ready s p) (n : Nat) (fields : List Byte)
    {block : State → State × Option Response}
    (hb : block (s.shiftOut p ((s.port p).requestMiso (n + 3))) =
      (s.shiftOut p ((s.port p).requestMiso (n + 3))).answer .ok fields) :
    Reported p n fields s (s.request p n block) := by
  rw [State.request_ready h, hb]
  dsimp only [State.refuse, State.answer]
  refine ⟨(State.setPort_only ..).trans (State.setPort_only ..), ?_, fun q hq => ?_⟩
  · simp [State.setSlot, State.shiftOut, State.port_setPort, PortUnit.replied, PortUnit.requestMiso]
  · simp [State.setSlot, State.shiftOut, State.port_setPort, hq]

end Sys2Proof.Machine
end

