-- ==== Sys2Proof/Laws/PerInstr.lean ====
section
/-! SUPPORT. Laws made for each command: FieldLength says that the field bytes of a request have the length that the
request code table gives its code. -/

namespace Sys2Proof.Laws.FieldLength

open Sys2Proof

/-- The field bytes of a command that is a request have the length of R192's table: the fixed one of its code, or, for
ARM_ENTRY and RETIME_ENTRY, the one that the kind of its definition block gives (R180, R189). -/
def Statement (i : Instr) : Prop :=
  ∀ code f, i.requestBytes = some (code, f) →
    lengthRule code = some (.fixed f.length) ∨
    (lengthRule code = some .armByKind ∧ ∃ p g, i = .armEntry p g ∧ f.length = g.defn.length + 16) ∨
    (lengthRule code = some .retimeByKind ∧
      ∃ p a b d l, i = .retimeEntry p a b d l ∧ f.length = d.length + 4)

theorem bytesBE_length (k n : Nat) : (bytesBE k n).length = k := by
  induction k with
  | zero => rfl
  | succ k ih => rw [bytesBE, List.length_cons, ih]

theorem defBlock_length (d : DefBlock) : d.bytes.length = d.length := by
  cases d <;> simp [DefBlock.bytes, DefBlock.length, bytesBE_length]

/-- A command that is no request. -/
theorem of_none {i : Instr} (h : i.requestBytes = none) : Statement i := fun _ _ e => by rw [h] at e; cases e

/-- A request whose code has a fixed length. -/
theorem of_fixed {i : Instr} {c : Byte} {f : List Byte} (h : i.requestBytes = some (c, f))
    (r : lengthRule c = some (.fixed f.length)) : Statement i := fun _ _ e => by
  rw [h] at e; cases e; exact Or.inl r

theorem readTime (port : Port) : Statement (.readTime port) := of_fixed rfl rfl

theorem readCalendar (port : Port) : Statement (.readCalendar port) := of_fixed rfl rfl

theorem claimAuthority (port : Port) (key : OptField 64) : Statement (.claimAuthority port key) := of_fixed rfl rfl

theorem releaseAuthority (port : Port) : Statement (.releaseAuthority port) := of_fixed rfl rfl

theorem setKey (port : Port) (key : OptField 64) : Statement (.setKey port key) := of_fixed rfl rfl

theorem setTime (port : Port) (seconds : BitVec 32) (micros : BitVec 24) :
    Statement (.setTime port seconds micros) := of_fixed rfl rfl

theorem step (port : Port) (amount : BitVec 32) : Statement (.step port amount) := of_fixed rfl rfl

theorem slew (port : Port) (amount : BitVec 32) : Statement (.slew port amount) := of_fixed rfl rfl

theorem cancelAdjust (port : Port) : Statement (.cancelAdjust port) := of_fixed rfl rfl

theorem readAdjust (port : Port) : Statement (.readAdjust port) := of_fixed rfl rfl

theorem selectSource (port : Port) (selection : Byte) : Statement (.selectSource port selection) := of_fixed rfl rfl

theorem resumeReference (port : Port) : Statement (.resumeReference port) := of_fixed rfl rfl

theorem readClock (port : Port) : Statement (.readClock port) := of_fixed rfl rfl

theorem clearBackup (port : Port) : Statement (.clearBackup port) := of_fixed rfl rfl

theorem armEntry (port : Port) (fields : ArmFields) : Statement (.armEntry port fields) := by
  intro code f e
  cases e
  refine Or.inr (Or.inl ⟨rfl, port, fields, rfl, ?_⟩)
  simp only [ArmFields.bytes, List.length_append, List.length_cons, List.length_nil, bytesBE_length, defBlock_length]
  omega

theorem retimeEntry (port : Port) (index handleInst : Byte) (defn : DefBlock) (lateOk : Byte) :
    Statement (.retimeEntry port index handleInst defn lateOk) := by
  intro code f e
  cases e
  refine Or.inr (Or.inr ⟨rfl, port, index, handleInst, defn, lateOk, rfl, ?_⟩)
  simp only [List.length_append, List.length_cons, List.length_nil, defBlock_length]
  omega

theorem holdEntry (port : Port) (index handleInst : Byte) :
    Statement (.holdEntry port index handleInst) := of_fixed rfl rfl

theorem unholdEntry (port : Port) (index handleInst : Byte) :
    Statement (.unholdEntry port index handleInst) := of_fixed rfl rfl

theorem cancelEntry (port : Port) (index handleInst : Byte) :
    Statement (.cancelEntry port index handleInst) := of_fixed rfl rfl

theorem readEntry (port : Port) (index handleInst : Byte) :
    Statement (.readEntry port index handleInst) := of_fixed rfl rfl

theorem listEntries (port : Port) (scope start : Byte) : Statement (.listEntries port scope start) := of_fixed rfl rfl

theorem setQuota (port : Port) (target quota : Byte) : Statement (.setQuota port target quota) := of_fixed rfl rfl

theorem digest (port : Port) (scope content : Byte) : Statement (.digest port scope content) := of_fixed rfl rfl

theorem claimLine (port : Port) (line : Byte) : Statement (.claimLine port line) := of_fixed rfl rfl

theorem releaseLine (port : Port) (line : Byte) : Statement (.releaseLine port line) := of_fixed rfl rfl

theorem pinLine (port : Port) (line : Byte) : Statement (.pinLine port line) := of_fixed rfl rfl

theorem configureLine (port : Port) (line idle : Byte) (width holdLimit : BitVec 16) :
    Statement (.configureLine port line idle width holdLimit) := of_fixed rfl rfl

theorem driveLine (port : Port) (line action : Byte) : Statement (.driveLine port line action) := of_fixed rfl rfl

theorem readLine (port : Port) (line : Byte) : Statement (.readLine port line) := of_fixed rfl rfl

theorem claimChannel (port : Port) (channel : Byte) : Statement (.claimChannel port channel) := of_fixed rfl rfl

theorem releaseChannel (port : Port) (channel : Byte) : Statement (.releaseChannel port channel) := of_fixed rfl rfl

theorem shareChannel (port : Port) (channel flag : Byte) :
    Statement (.shareChannel port channel flag) := of_fixed rfl rfl

theorem configureChannel (port : Port) (channel mode edge source level : Byte) :
    Statement (.configureChannel port channel mode edge source level) := of_fixed rfl rfl

theorem startChannel (port : Port) (channel : Byte) : Statement (.startChannel port channel) := of_fixed rfl rfl

theorem stopChannel (port : Port) (channel : Byte) : Statement (.stopChannel port channel) := of_fixed rfl rfl

theorem setReload (port : Port) (channel : Byte) (reload : BitVec 16) :
    Statement (.setReload port channel reload) := of_fixed rfl rfl

theorem readChannel (port : Port) (channel : Byte) : Statement (.readChannel port channel) := of_fixed rfl rfl

theorem subscribe (port : Port) (sourceKind source1 source2 kinds level : Byte) :
    Statement (.subscribe port sourceKind source1 source2 kinds level) := of_fixed rfl rfl

theorem unsubscribe (port : Port) (index : Byte) : Statement (.unsubscribe port index) := of_fixed rfl rfl

theorem takeRecord (port : Port) : Statement (.takeRecord port) := of_fixed rfl rfl

theorem readConditions (port : Port) : Statement (.readConditions port) := of_fixed rfl rfl

theorem ackConditions (port : Port) (conditions : Byte) :
    Statement (.ackConditions port conditions) := of_fixed rfl rfl

theorem setMask (port : Port) (mask : Byte) : Statement (.setMask port mask) := of_fixed rfl rfl

theorem readResetCause (port : Port) : Statement (.readResetCause port) := of_fixed rfl rfl

theorem detach (port : Port) : Statement (.detach port) := of_fixed rfl rfl

theorem identify (port : Port) : Statement (.identify port) := of_fixed rfl rfl

theorem badRequest (port : Port) (bytes : List Byte) (incomplete : Bool) :
    Statement (.badRequest port bytes incomplete) := of_none rfl

theorem fetch (port : Port) (clocked : Nat) : Statement (.fetch port clocked) := of_none rfl

theorem portReset (port : Port) : Statement (.portReset port) := of_none rfl

theorem portLeavesResetHold (port : Port) : Statement (.portLeavesResetHold port) := of_none rfl

theorem deviceReset : Statement .deviceReset := of_none rfl

theorem partLeavesReset (straps : BitVec 3) : Statement (.partLeavesReset straps) := of_none rfl

theorem powerOnRetained (straps : BitVec 3) : Statement (.powerOnRetained straps) := of_none rfl

theorem powerOnBackupLost (straps : BitVec 3) : Statement (.powerOnBackupLost straps) := of_none rfl

theorem mainSupplyLoss : Statement .mainSupplyLoss := of_none rfl

theorem backupSupplyLoss : Statement .backupSupplyLoss := of_none rfl

theorem backupSupplyReturn : Statement .backupSupplyReturn := of_none rfl

theorem timebaseAdvance (part : Advance) : Statement (.timebaseAdvance part) := of_none rfl

theorem slewBlockEnd (part : Advance) : Statement (.slewBlockEnd part) := of_none rfl

theorem slewEnd (part : Advance) : Statement (.slewEnd part) := of_none rfl

theorem referenceEdge (gap : Nat) : Statement (.referenceEdge gap) := of_none rfl

theorem windowEnd : Statement .windowEnd := of_none rfl

theorem referenceLoss : Statement .referenceLoss := of_none rfl

theorem pulseEnd (line : LineNo) : Statement (.pulseEnd line) := of_none rfl

theorem holdExpiry (line : LineNo) : Statement (.holdExpiry line) := of_none rfl

theorem capturePinChange (channel : ChanNo) (level : PinLevel) :
    Statement (.capturePinChange channel level) := of_none rfl

theorem edgeTaken (channel : ChanNo) : Statement (.edgeTaken channel) := of_none rfl

theorem measurementOverflow (channel : ChanNo) : Statement (.measurementOverflow channel) := of_none rfl

theorem counterExpiry (channel : ChanNo) : Statement (.counterExpiry channel) := of_none rfl

theorem digestExamineIndex : Statement .digestExamineIndex := of_none rfl

end Sys2Proof.Laws.FieldLength
end

