-- ==== Sys2Proof/Tests/Slice0.lean ====
section
/-! SUPPORT. Tests on small states: what WellFormed refuses, values the spec writes out, and, for each statement of
Certificates/Slice0/Obligations.lean that has hypotheses, states and operands that meet them and reach each of its
clauses. -/

namespace Sys2Proof.Tests

set_option Elab.async false

open Sys2Proof Sys2Proof.Machine

/-! ## Helpers -/

/-- The state after some commands. -/
def run (s : State) (cs : List Instr) : State :=
  cs.foldl (fun s c => match exec c s with
    | .next t => t
    | .fault _ => s
    | .refused _ => s) s

/-- The status code that a command leaves in its port's slot. -/
def answer (s : State) (c : Instr) : Option Status :=
  match ((run s [c]).port c.port).slot with
  | .ready r => some r.status
  | .pending => none
  | .empty => none

/-- The field bytes that a command leaves in its port's slot. -/
def fields (s : State) (c : Instr) : List Byte :=
  match ((run s [c]).port c.port).slot with
  | .ready r => r.fields
  | .pending => []
  | .empty => []

/-- What a transaction fails by. -/
def failure : Transaction → Option Status
  | .frameError => some .frameError
  | .badRequest => some .badRequest
  | .badArg => some .badArg
  | .nothing => none
  | .fetch _ => none
  | .request _ => none

/-- P0 holds the authority, and the time is 10 s in FREE_RUN. -/
def timed : State := { State.reset with backup := { Backup.reset with count := 10000000, quality := .freeRun } }

/-- The same time with another count. -/
def timedAt (n : Nat) : State := { timed with backup := { timed.backup with count := n } }

/-- A slew of so much in progress, with so many microseconds of its block counted. -/
def slewing (n : Nat) (direction : SlewDirection) (elapsed : Nat) : State :=
  { timed with
    slew := { direction := direction, remaining := n, blockElapsed := elapsed }
    authority := { timed.authority with active := some { number := 4, amount := n } } }

/-- A body of P0 with a record action alone. -/
def body (d : Definition) (r : RunState) : Body :=
  { owner := 0, defn := d, run := r, remaining := none, line := none, record := some 3, shareable := false, tag := 7,
    keep := true, last := none, fireCount := 0 }

/-- Index 5 of the table holds a body. -/
def holding (s : State) (b : Body) : State := s.setBody 5 (some b)

/-- P0 owns TRG3 and CAP2. -/
def owning : State :=
  (timed.setLine 3 { Line.reset with owner := some 0 }).setChannel 2 { Channel.reset with owner := some 0 }

/-- ARM_ENTRY fields with a record action at level 3 and nothing else. -/
def plain (d : DefBlock) : ArmFields :=
  { defn := d, lateOk := 0, remaining := { presence := 0, value := 0 }, linePresence := 0, line := 0, action := 0,
    record := { presence := 1, value := 3 }, shareable := 0, tag := 7, keep := 1 }

/-! ## Well-formed commands -/

theorem test_wellFormed_key_presence : (Instr.claimAuthority 0 { presence := 2, value := 0 }).wellFormed = false := by decide

theorem test_wellFormed_key_absent_value : (Instr.setKey 0 { presence := 0, value := 5 }).wellFormed = false := by decide

theorem test_wellFormed_kind : (Instr.retimeEntry 0 5 0 (.unknown 3) 0).wellFormed = false := by decide

theorem test_wellFormed_arm_kind : (Instr.armEntry 0 (plain (.unknown 0))).wellFormed = false := by decide

theorem test_wellFormed_arm_remaining :
    (Instr.armEntry 0 { plain (.atTime 1 0) with remaining := { presence := 0, value := 1 } }).wellFormed = false := by
  decide

theorem test_wellFormed_arm_record :
    (Instr.armEntry 0 { plain (.atTime 1 0) with record := { presence := 3, value := 1 } }).wellFormed = false := by
  decide

theorem test_wellFormed_arm_line :
    (Instr.armEntry 0 { plain (.atTime 1 0) with line := 4 }).wellFormed = false := by decide

theorem test_wellFormed_request_fetch : (Instr.badRequest 0 [0, 1] false).wellFormed = false := by decide

theorem test_wellFormed_accepts :
    ([.claimAuthority 0 { presence := 1, value := 5 }, .setKey 0 { presence := 0, value := 0 },
      .armEntry 0 (plain (.atTime 1 0)), .retimeEntry 0 5 0 (.unknown 4) 0, .badRequest 0 [1] true,
      .badRequest 0 [] false, .fetch 0 0, .fetch 0 1, .windowEnd] : List Instr).all Instr.wellFormed = true := by decide

/-! ## Values the spec writes out -/

/-- A CRC-8 with polynomial 0x07 and initial value 0xFF has the check value 0xFB over "123456789" (R180). -/
theorem test_crc8 : crc8 [0x31, 0x32, 0x33, 0x34, 0x35, 0x36, 0x37, 0x38, 0x39] = 0xFB := by decide +kernel

/-- The CRC-32 of R174 has the check value 0xCBF43926 over "123456789". -/
theorem test_crc32 :
    ~~~(crc32Feed 0xFFFFFFFF#32 [0x31, 0x32, 0x33, 0x34, 0x35, 0x36, 0x37, 0x38, 0x39]) = 0xCBF43926#32 := by
  decide +kernel

/-- A power-on with the backup domain lost, RESET not held and the straps at 0, leaves the reset state (R20, R185). -/
theorem test_power_on_is_reset :
    run { State.reset with pins := { State.reset.pins with mainSupply := false },
                           backup := { Backup.reset with retention := false } } [.powerOnBackupLost 0] = State.reset := by
  decide +kernel

/-! ## Transactions -/

/-- StepRunsFrontCommand's second clause. -/
theorem test_idle : State.reset.pending = [] := rfl

/-- RequestsLostAtBusyOrHeldPort: an EXECUTING port, one in RESET_HOLD, and one whose transaction a reset of it has
abandoned. -/
theorem test_lost_requests : ((run State.reset [.digest 0 0 0]).port 0).state = .executing ∧
    ((run State.reset [.digest 0 0 0]).port 0).transfer = .idle ∧
    ((run State.reset [.portReset 1]).port 1).state = .resetHold ∧ Discards (run State.reset [.digest 0 0 0]) 0 ∧
    Ignores (run State.reset [.portReset 1]) 1 ∧
    ((run State.reset [.fetch 1 0, .portReset 1, .portLeavesResetHold 1]).port 1).transfer = .abandoned ∧
    answer (run State.reset [.fetch 1 0, .portReset 1, .portLeavesResetHold 1]) (.readTime 1) = none ∧
    (Instr.readTime 0).requestBytes = some (0x01, []) := by unfold Discards Ignores; decide +kernel

/-- RequestFramesRoundTrip and WellFormedFrameRunsRequest: a frame without fields and one with them. -/
theorem test_frames : (Instr.readTime 2).wellFormed = true ∧ encodeFrame (.readTime 2) = some [0x01, 0x00, 0xC2] ∧
    (Instr.armEntry 0 (plain (.atTime 1 0))).wellFormed = true ∧
    (encodeFrame (.armEntry 0 (plain (.atTime 1 0)))).isSome = true := by decide +kernel

/-- FrameFailuresLeaveStatus: a frame cut short, an incomplete byte, a wrong CRC, a code that names no request, a wrong
fixed length, and each failure of the two lengths that a kind byte gives. -/
theorem test_frame_failures :
    [decodeFrame 0 [0x01] false, decodeFrame 0 [0x01, 0x00, 0xC2] true, decodeFrame 0 [0x01, 0x00, 0xC3] false,
      decodeFrame 0 (frameOf 0x03 []) false, decodeFrame 0 (frameOf 0x45 []) false,
      decodeFrame 0 (frameOf 0x30 []) false, decodeFrame 0 (frameOf 0x30 [4]) false,
      decodeFrame 0 (frameOf 0x30 [3]) false, decodeFrame 0 (frameOf 0x31 [5, 0]) false,
      decodeFrame 0 (frameOf 0x31 [5, 0, 4]) false, decodeFrame 0 (frameOf 0x31 [5, 0, 3]) false].map failure =
    [some .frameError, some .frameError, some .frameError, some .badRequest, some .frameError, some .frameError,
      some .badArg, some .frameError, some .frameError, some .badArg, some .frameError] := by decide +kernel

/-- FrameFailuresLeaveStatus: a bad frame at an EXECUTING port, at one in RESET_HOLD and at one whose transaction a reset
has abandoned. -/
theorem test_frame_failures_lost :
    let busy := run State.reset [.digest 0 0 0]
    let held := run State.reset [.portReset 1]
    let gone := run State.reset [.fetch 1 0, .portReset 1, .portLeavesResetHold 1]
    let bad := fun p : Port => Instr.badRequest p [1, 0, 0xC3] false
    (busy.port 0).state = .executing ∧ (busy.port 0).transfer = .idle ∧ (held.port 1).state = .resetHold ∧
    (gone.port 1).state = .ready ∧ (gone.port 1).transfer = .abandoned ∧
    [((run busy [bad 0]).port 0).slot, ((run held [bad 1]).port 1).slot, ((run gone [bad 1]).port 1).slot] =
      [.pending, .empty, .empty] ∧
    [((run busy [bad 0]).port 0).miso, ((run held [bad 1]).port 1).miso, ((run gone [bad 1]).port 1).miso] =
      [[0x15, 0xFF, 0xFF], [0xFF, 0xFF, 0xFF], [0xFF, 0xFF, 0xFF]] := by decide +kernel

/-- FetchReturnsSlot: each slot state, a fetch that reaches the CRC byte and one a byte short of it, and RESET_HOLD. -/
theorem test_fetch : ((run State.reset [.identify 0, .fetch 0 15]).port 0).slot = .empty ∧
    ((run State.reset [.identify 0, .fetch 0 14]).port 0).slot ≠ .empty ∧
    ((run State.reset [.digest 0 0 0, .fetch 0 4]).port 0).slot = .pending ∧
    ((run State.reset [.fetch 0 1]).port 0).slot = .empty ∧ (0 : Nat) < 1 ∧
    ((run State.reset [.portReset 1]).port 1).state = .resetHold := by decide +kernel

/-- FetchReturnsSlot: the status byte and the slot are those of CS going low, here those of an EXECUTING port whose walk
ends before CS goes high; the response is then there for the next fetch. -/
theorem test_fetch_sampled :
    let s := run State.reset [.digest 0 0 0, .fetch 0 0]
    let t := run { s with digest := s.digest.map fun w => { w with nextIndex := 63, elapsed := 1280 } }
      [.digestExamineIndex, .fetch 0 1]
    (s.port 0).transfer = .begun 0x15 .pending ∧ (t.port 0).miso = [0x15] ∧ (t.port 0).state = .ready ∧
    (t.port 0).slot ≠ .pending ∧ (run t [.fetch 0 0, .badRequest 0 [] false]).port 0 = t.port 0 := by decide +kernel

/-- RequestsLostAtBusyOrHeldPort and FrameFailuresLeaveStatus: a request, and a bad frame, whose status byte told EXECUTING
and which end after the walk are discarded, and the digest's response stays in the slot; the next request is taken. -/
theorem test_discarded_after_walk :
    let s := run State.reset [.digest 0 0 0, .fetch 0 0]
    let t := run { s with digest := s.digest.map fun w => { w with nextIndex := 63, elapsed := 1280 } } [.digestExamineIndex]
    Discards t 0 ∧ (t.port 0).state = .ready ∧ (t.port 0).slot ≠ .pending ∧
    ((run t [.readTime 0]).port 0).slot = (t.port 0).slot ∧ ((run t [.readTime 0]).port 0).miso = [0x15, 0xFF, 0xFF] ∧
    ((run t [.badRequest 0 [1, 0, 0xC3] false]).port 0).slot = (t.port 0).slot ∧
    ((run t [.readTime 0, .identify 0]).port 0).slot ≠ (t.port 0).slot := by unfold Discards; decide +kernel

/-- RequestsLostAtBusyOrHeldPort: a consistent state in which the status byte sampled at P0 says EXECUTING, and that of P1,
which is READY, does not. -/
theorem test_discard_told :
    let s := run State.reset [.digest 0 0 0, .fetch 0 0, .fetch 1 0]
    PortsConsistent s ∧ ¬Ignores s 0 ∧ ¬Ignores s 1 ∧
    [(s.port 0).shownStatus.getLsbD 2, (s.port 1).shownStatus.getLsbD 2] = [true, false] := by
  intro s
  have walk : s.digest.map Walk.requester = some 0 := by decide +kernel
  have state : ∀ p, (s.port p).state = if p = 0 then .executing else .ready := by decide +kernel
  have slot : ∀ p, (s.port p).slot = if p = 0 then .pending else .empty := by decide +kernel
  have transfer : ∀ p, (s.port p).transfer = if p = 0 then .begun 0x15 .pending
      else if p = 1 then .begun 0x10 .empty else .idle := by decide +kernel
  refine ⟨⟨fun p h => ?_, fun p => ?_, fun p => ?_, fun h => ?_, fun p status sl h => ?_⟩, ?_⟩
  · rw [state p] at h; split at h <;> cases h
  · rw [state p, show (∃ w, s.digest = some w ∧ w.requester = p) ↔ p = 0 by
      rw [← Option.map_eq_some_iff, walk]; simp [eq_comm]]
    split <;> simp_all
  · rw [state p, slot p]; split <;> simp
  · exact absurd h (by decide +kernel)
  · rw [transfer p] at h
    rw [slot p]
    split at h
    · cases h; simp_all
    · split at h <;> cases h
      simp_all
  · unfold Ignores; decide +kernel

/-- FetchReturnsSlot: CS going low where it is low already changes nothing, and an abandoned transaction stays so. -/
theorem test_fetch_cs_low :
    let gone := run State.reset [.fetch 1 0, .portReset 1, .portLeavesResetHold 1]
    let open' := run State.reset [.fetch 1 0, .identify 2]
    (gone.port 1).transfer = .abandoned ∧ run gone [.fetch 1 0] = gone ∧ run open' [.fetch 1 0] = open' ∧
    (State.reset.port 1).transfer = .idle := by decide +kernel

/-- The levels of CS and MISO: between transactions, with CS low, in a transaction that a reset has abandoned, and after a
fetch. -/
theorem test_serial_levels :
    let levels := fun s : State => ((s.port 1).cs, (s.port 1).misoLevel)
    [levels State.reset, levels (run State.reset [.fetch 1 0]), levels (run State.reset [.fetch 1 0, .portReset 1]),
      levels (run State.reset [.fetch 1 0, .fetch 1 4])] =
    [(.high, .high), (.low, .low), (.low, .high), (.high, .high)] := by decide +kernel

/-! ## Reports -/

/-- Every port is READY in the states the tests use: the hypothesis that every statement about a request has. -/
theorem test_ready : ∀ p, Ready State.reset p ∧ Ready timed p ∧ Ready owning p := by
  unfold Ready; decide +kernel

/-- ReadCalendarReportsDate at both ends of the range: 2000-01-01, a Saturday, and 2099-12-31 23:59:59.999999, a
Thursday. -/
theorem test_calendar_ends : fields State.reset (.readCalendar 0) = [7, 208, 1, 1, 0, 0, 0, 0, 0, 0, 6, 0, 1, 0, 0, 0] ∧
    (timedAt 3155759999999999).backup.count ≤ 3155759999999999 ∧
    fields (timedAt 3155759999999999) (.readCalendar 0) =
      [8, 51, 12, 31, 23, 59, 59, 15, 66, 63, 4, 1, 109, 0, 0, 1] := by decide +kernel

/-- ReadClockAndAdjustReport. -/
theorem test_read_clock : State.reset.running = true ∧ answer State.reset (.readClock 0) = some .ok ∧
    answer State.reset (.readAdjust 0) = some .ok := by decide +kernel

/-- ReadLineAndChannelReport: the last number of each and the first beyond it. -/
theorem test_read_line_channel : [answer State.reset (.readLine 0 15), answer State.reset (.readLine 0 16),
    answer State.reset (.readChannel 0 7), answer State.reset (.readChannel 0 8)] =
    [some .ok, some .badArg, some .ok, some .badArg] := by decide +kernel

/-- ReadAndListEntriesReport: a FREE index, another handle number, the handle, and an index above 63; a start index of 63
and one above it, and a scope above 1. -/
theorem test_read_list_entries :
    let s := holding timed (body (.atTime 20000000) (.armed 20000000))
    [answer s (.readEntry 0 63 0), answer s (.readEntry 0 5 1), answer s (.readEntry 1 5 0),
      answer s (.readEntry 0 64 0), answer s (.listEntries 0 1 63), answer s (.listEntries 0 0 64),
      answer s (.listEntries 0 2 0)] =
    [some .notFound, some .notFound, some .ok, some .badArg, some .ok, some .badArg, some .badArg] := by decide +kernel

/-- IdentifyReportsPart, ReadTimeReportsSample and ResetCausesReadAndEmptied. -/
theorem test_identify : fields State.reset (.identify 0) = [0x2E, 0x47, 0x01, 0x9C, 1, 4, 64, 16, 8, 24, 32] ∧
    fields timed (.readTime 0) = [0, 0, 0, 0, 0, 10, 0, 0, 0, 1, 0, 0] ∧
    fields State.reset (.readResetCause 0) = [3] := by decide +kernel

/-- ConditionsAckedAndMasked at its boundaries; TakeRecordTakesFirstCopy on an empty queue and on one with a copy. -/
theorem test_conditions :
    let s := State.deliver timed 0 2 (subEndedRecord 0 timed.stamp)
    [answer timed (.readConditions 0), answer timed (.ackConditions 0 0x7F), answer timed (.ackConditions 0 0x80),
      answer timed (.setMask 0 6), answer timed (.setMask 0 7), answer timed (.takeRecord 0),
      answer s (.takeRecord 0)] =
    [some .ok, some .ok, some .badArg, some .ok, some .badArg, some .empty, some .ok] := by decide +kernel

/-- A copy at a level. -/
def copyAt (level : Nat) : Copy := { level := level, gap := false, record := subEndedRecord 0 State.reset.stamp }

/-- CopiesStoredByLevel: a queue with room, and a full one whose lowest level lies below the copy's and at it. -/
theorem test_copies :
    let u : PortUnit := { State.reset.port 0 with queue := List.replicate 32 (copyAt 2) }
    (State.reset.port 0).queue.length < 32 ∧ u.queue.Pairwise (fun a b => b.level ≤ a.level) ∧
      u.queue.length = 32 ∧ u.queue = List.replicate 31 (copyAt 2) ++ [copyAt 2] ∧
      (u.storeCopy (copyAt 3)).queue.length = 32 ∧ (u.storeCopy (copyAt 2)).gapPending = true := by decide +kernel

/-! ## Authority and adjustments -/

/-- P1 holds the authority, with a stored key. -/
def keyed : State :=
  { timed with authority := { timed.authority with holder := some 1 }, backup := { timed.backup with key := some 9#64 } }

/-- ClaimAuthorityDecides: no holder, the holder itself, no stored key, the key, and another key. -/
theorem test_claims :
    let free : State := { timed with authority := { timed.authority with holder := none } }
    let none' : OptField 64 := { presence := 0, value := 0 }
    let some' : OptField 64 := { presence := 1, value := 9 }
    none'.wellFormed = true ∧ some'.wellFormed = true ∧
    [answer free (.claimAuthority 0 none'), answer timed (.claimAuthority 0 none'),
      answer timed (.claimAuthority 1 some'), answer keyed (.claimAuthority 0 some'),
      answer keyed (.claimAuthority 0 none')] =
    [some .ok, some .ok, some .authorityHeld, some .ok, some .keyMismatch] := by decide +kernel

/-- ReleaseAuthorityAndSetKey, CancelAdjustDiscardsQueue: another port, and the holder. -/
theorem test_holder_requests :
    let k : OptField 64 := { presence := 0, value := 0 }
    k.wellFormed = true ∧
    [answer timed (.releaseAuthority 1), answer timed (.releaseAuthority 0), answer timed (.setKey 1 k),
      answer timed (.setKey 0 k), answer timed (.cancelAdjust 1), answer timed (.cancelAdjust 0)] =
    [some .notAuthority, some .ok, some .notAuthority, some .ok, some .notAuthority, some .ok] := by decide +kernel

/-- Both slots of the adjustment queue occupied. -/
def full : State :=
  { slewing 5 .positive 0 with
    authority := { (slewing 5 .positive 0).authority with waiting := some { number := 5, what := .slew 3 } } }

/-- SetTimeDecides, clause by clause at the boundaries of its fields. -/
theorem test_set_time : [answer timed (.setTime 1 0 0), answer timed (.setTime 0 0 1000000), answer full (.setTime 0 0 0),
      answer (slewing 5 .positive 0) (.setTime 0 0 999999), answer timed (.setTime 0 3155760000 0),
      answer timed (.setTime 0 3155759999 999999)] =
    [some .notAuthority, some .badArg, some .busy, some .queued, some .range, some .ok] := by decide +kernel

/-- StepDecides, clause by clause at the boundaries of the result. -/
theorem test_step : [answer timed (.step 1 1), answer timed (.step 0 0), answer State.reset (.step 0 1),
      answer full (.step 0 1), answer (slewing 5 .positive 0) (.step 0 1), answer timed (.step 0 (BitVec.ofInt 32 (-10000001))),
      answer timed (.step 0 (BitVec.ofInt 32 (-10000000))), answer (timedAt 3155759999999999) (.step 0 1)] =
    [some .notAuthority, some .badArg, some .noTime, some .busy, some .queued, some .range, some .ok, some .range] := by
  decide +kernel

/-- SlewDecides, clause by clause at the boundaries of the amount, and while the range is held. -/
theorem test_slew :
    let held : State := { timed with backup := { timed.backup with count := 3155759999999999, rangeHeld := true } }
    [answer timed (.slew 1 1), answer timed (.slew 0 0), answer timed (.slew 0 1000001), answer State.reset (.slew 0 1),
      answer full (.slew 0 1), answer (slewing 5 .positive 0) (.slew 0 1), answer held (.slew 0 1),
      answer timed (.slew 0 1000000)] =
    [some .notAuthority, some .badArg, some .badArg, some .noTime, some .busy, some .queued, some .queued,
      some .queued] ∧
    (run held [.slew 0 1]).authority.active = none ∧ (run timed [.slew 0 1]).authority.active.isSome = true := by
  decide +kernel

/-! ## The clock supervisor -/

/-- A monitor state with its selection and quality. -/
def monitoring (m : MonitorState) (n : Nat) (q : Quality) : State :=
  { timed with
    backup := { timed.backup with source := .reference, quality := q }
    monitor := { Monitor.off with state := m, windowCount := n } }

/-- SourceRequestsDecide, clause by clause. -/
theorem test_source_requests : [answer timed (.selectSource 1 1), answer timed (.selectSource 0 0),
      answer timed (.selectSource 0 3), answer (monitoring .refAbsent 0 .freeRun) (.selectSource 0 1),
      answer timed (.selectSource 0 1), answer timed (.selectSource 0 2), answer timed (.resumeReference 1),
      answer timed (.resumeReference 0), answer (monitoring .refAbsent 0 .holdover) (.resumeReference 0),
      answer (monitoring .refGood 16 .holdover) (.resumeReference 0)] =
    [some .notAuthority, some .badArg, some .badArg, some .locked, some .ok, some .ok, some .notAuthority, some .badArg,
      some .notReady, some .ok] := by decide +kernel

/-- A monitor state after so many device microseconds without an edge. -/
def silent (m : MonitorState) (n : Nat) (q : Quality) (since : Nat) : State :=
  { monitoring m n q with monitor := { (monitoring m n q).monitor with sinceEdge := since } }

/-- ReferenceEdgesAndLoss: each monitor state, and intervals at and beyond the limit of one microsecond, by the gap and by
the microseconds that ended. -/
theorem test_edges :
    let after := fun (s : State) (c : Instr) => ((run s [c]).monitor.state, (run s [c]).monitor.windowCount,
      (run s [c]).backup.quality)
    timed.running = true ∧
    [after timed (.referenceEdge 1000), after (monitoring .refAbsent 0 .freeRun) (.referenceEdge 0),
      after (monitoring .refQualifying 3 .freeRun) (.referenceEdge 1000),
      after (monitoring .refQualifying 3 .freeRun) (.referenceEdge 1001),
      after (monitoring .refGood 16 .tracking) (.referenceEdge 1001),
      after (silent .refGood 16 .freeRun 2) (.referenceEdge 0), after (silent .refGood 16 .freeRun 3) (.referenceEdge 0)] =
    [(.refOff, 0, .freeRun), (.refQualifying, 0, .freeRun), (.refQualifying, 3, .freeRun), (.refQualifying, 0, .freeRun),
      (.refQualifying, 0, .holdover), (.refGood, 16, .freeRun), (.refQualifying, 0, .freeRun)] := by decide +kernel

/-- ReferenceEdgesAndLoss: a loss commanded at the instant of an edge, one a microsecond later, and one that no command has
told of by the end of the second microsecond; sixteen windows need edges in every microsecond. -/
theorem test_losses :
    let after := fun (s : State) (c : Instr) => ((run s [c]).monitor.state, (run s [c]).backup.quality)
    [after (silent .refGood 16 .freeRun 0) .referenceLoss, after (silent .refGood 16 .freeRun 1) .referenceLoss,
      after (silent .refGood 16 .tracking 0) .referenceLoss,
      after (silent .refGood 16 .tracking 1) (.timebaseAdvance (.whole [])),
      after (silent .refGood 16 .tracking 2) (.timebaseAdvance (.whole [])),
      after (silent .refGood 16 .tracking 2) (.timebaseAdvance (.count []))] =
    [(.refGood, .freeRun), (.refAbsent, .freeRun), (.refAbsent, .holdover), (.refGood, .tracking),
      (.refAbsent, .holdover), (.refAbsent, .holdover)] := by decide +kernel

/-- A window that ends with so much measured over ten thousand cycles. -/
def ending (m : MonitorState) (n : Nat) (q : Quality) (measured : Nat) : State :=
  { monitoring m n q with
    monitor := { state := m, windowCount := n, lastError := none, elapsed := 1000, edgeSeen := true, cycles := 10000,
                 measured := measured, sinceEdge := 0 } }

/-- The monitor's state, count and error, and the quality, after a window's end. -/
def judged (s : State) : MonitorState × Nat × Option Int × Quality :=
  let t := run s [.windowEnd]
  (t.monitor.state, t.monitor.windowCount, t.monitor.lastError, t.backup.quality)

/-- WindowEndJudges: 100 and 101 ppm in REF_QUALIFYING, the sixteenth window with each quality, 500 and 501 ppm in
REF_GOOD. -/
theorem test_windows : (ending .refQualifying 3 .freeRun 999900).monitor.elapsed = 1000 ∧ 0 < (999900 : Nat) ∧
    [judged (ending .refQualifying 3 .freeRun 999900), judged (ending .refQualifying 3 .freeRun 999899),
      judged (ending .refQualifying 15 .freeRun 1000000), judged (ending .refQualifying 15 .holdover 1000100),
      judged (ending .refQualifying 15 .unset 1000000), judged (ending .refGood 16 .tracking 1000500),
      judged (ending .refGood 16 .tracking 1000501), judged (ending .refGood 16 .freeRun 999499)] =
    [(.refQualifying, 4, some 100, .freeRun), (.refQualifying, 0, some 101, .freeRun), (.refGood, 16, some 0, .tracking),
      (.refGood, 16, some (-100), .holdover), (.refGood, 16, some 0, .unset), (.refGood, 16, some (-500), .tracking),
      (.refQualifying, 0, some (-501), .holdover), (.refQualifying, 0, some 501, .freeRun)] := by decide +kernel

/-- WindowEndJudges: a window in which no interval was measured, in both states, draws a free value as its error. -/
theorem test_window_unmeasured :
    let s := fun m : MonitorState => { ending m 3 .freeRun 0 with freeCount := 6 }
    (s .refGood).running = true ∧ (s .refGood).monitor.elapsed = 1000 ∧ (s .refGood).monitor.measured = 0 ∧
    (s .refQualifying).windowErrorNow.1.freeCount = 7 ∧ (s .refQualifying).windowErrorNow.2 = freeError 6 ∧
    (s .refGood).windowErrorNow.2 = freeError 6 := ⟨rfl, rfl, rfl, rfl, rfl, rfl⟩

/-! ## The timebase -/

/-- ClearBackupResetsDomain, clause by clause. -/
theorem test_clear_backup : [answer timed (.clearBackup 1),
      answer (holding timed (body (.atTime 20000000) (.armed 20000000))) (.clearBackup 0),
      answer (slewing 5 .positive 0) (.clearBackup 0), answer timed (.clearBackup 0)] =
    [some .notAuthority, some .inUse, some .busy, some .ok] := by decide +kernel

/-- No clock event is due in a state whose timers stand still. -/
theorem quiet_of_still {s : State} (run : s.running = true) (left : s.unfired = false) (window : s.monitor.elapsed = 0)
    (heard : s.monitor.sinceEdge = 0) (walk : s.digest = none)
    (lines : ∀ l, (s.line l).drive = .idle)
    (channels : ∀ c, (s.channel c).measuring = none ∧ (s.channel c).qualification = .none) : Quiet [] s := by
  refine ⟨run, left, fun d => ?_, fun d h => nomatch h⟩
  cases d with
  | pulseEnd l => simp [State.takeDue, State.endPulse, lines l]
  | holdExpiry l => simp [State.takeDue, State.expireHold, lines l]
  | overflow c => simp [State.takeDue, State.overflowMeasure, channels c]
  | edge c => simp [State.takeDue, State.takeEdge, channels c]
  | windowEnd => simp [State.takeDue, State.endWindow, window]
  | loss => simp [State.takeDue, State.takeLoss, heard]
  | examine => simp [State.takeDue, State.examineNext, walk]
  | firing => simp [State.takeDue, State.fireOne, left]

/-- A body with a record action is consistent in the forms the tests give it. -/
theorem consistent_body {d : Definition} {due : Nat} (allowed : d.allows due) (period : ∀ a p, d = .every a p → 100 ≤ p) :
    (body d (.armed due)).Consistent where
  acts := Or.inr rfl
  dueAllowed := fun x h => by cases h; exact allowed
  waits := fun h => by rcases h with h | h <;> cases h
  period := period
  single := fun _ => rfl
  counted := nofun
  kept := fun _ => rfl
  fires := Nat.zero_le _

/-- A table in which every entry in use is one of some consistent ones is consistent. -/
theorem table_of {s : State} (bs : List Body) (found : ∀ i, (s.entry i).body = none ∨ ∃ b ∈ bs, (s.entry i).body = some b)
    (ok : ∀ b ∈ bs, b.Consistent) (set : s.backup.quality ≠ .unset) (run : s.running = true) : TableConsistent s := by
  intro i b h
  rcases found i with e | ⟨x, hx, e⟩
  · rw [e] at h; cases h
  · rw [e] at h; exact Option.some.inj h ▸ ⟨ok x hx, set, run⟩

/-- Every due time lies ahead of the count, but for those that an advance with its firings left has reached. -/
theorem ahead_of {s : State} (held : s.backup.rangeHeld = false)
    (later : ∀ i, ((s.entry i).armedDue.all fun d => decide (if s.unfired = true then s.now ≤ d + 1 else s.now < d)) =
      true) : DueAhead s := by
  intro i d h
  have k := later i
  rw [h] at k
  exact ⟨fun _ => of_decide_eq_true k, fun e => absurd e (by rw [held]; decide)⟩

/-- Three entries due at the next two values: at index 5 and 9 the first, at index 7 the second. -/
def crowd (s : State) : State :=
  ((s.setBody 5 (some (body (.atTime 10000001) (.armed 10000001)))).setBody 9
    (some (body (.every 10000001 100) (.armed 10000001)))).setBody 7 (some (body (.atTime 10000002) (.armed 10000002)))

/-- The states of the three, and the sources of the records that P0 has, in the order of its queue. -/
def fired (s : State) : List (Option RunState) × List RecordSource :=
  (([5, 9, 7] : List EntryIx).map fun i => (s.entry i).body.map Body.run, (s.port 0).queue.map fun c => c.record.source)

/-- The three entries are consistent. -/
theorem crowd_consistent {s : State} (empty : ∀ i, (s.entry i).body = none) (set : s.backup.quality ≠ .unset)
    (run : s.running = true) : TableConsistent (crowd s) := by
  refine table_of [body (.atTime 10000001) (.armed 10000001), body (.every 10000001 100) (.armed 10000001),
    body (.atTime 10000002) (.armed 10000002)] (fun i => ?_) (fun b hb => ?_) set run
  · simp only [crowd, State.setBody, State.entry_setEntry]
    split
    · exact Or.inr ⟨_, by simp, rfl⟩
    · split
      · exact Or.inr ⟨_, by simp, rfl⟩
      · split
        · exact Or.inr ⟨_, by simp, rfl⟩
        · exact Or.inl (empty i)
  · simp only [List.mem_cons, List.not_mem_nil, or_false] at hb
    rcases hb with rfl | rfl | rfl
    · exact consistent_body rfl nofun
    · exact consistent_body ⟨0, rfl⟩ fun a p h => by cases h; decide
    · exact consistent_body rfl nofun

/-- A state with its count at the end of range. -/
def lastly (s : State) : State := { s with backup := { s.backup with count := 3155759999999999 } }

theorem test_quiet : Quiet [] timed ∧ Quiet [] (timedAt 3155759999999999) ∧ Quiet [] (slewing 5 .positive 998) ∧
    Quiet [] (crowd timed) ∧ Quiet [] (crowd (slewing 2 .positive 999)) ∧ Quiet [] (slewing 2 .negative 999) ∧
    Quiet [] (slewing 1 .positive 999) ∧ Quiet [] full ∧ Quiet [] (crowd (slewing 5 .negative 998)) ∧
    Quiet [] (lastly (slewing 2 .negative 999)) ∧ Quiet [] (lastly (slewing 1 .negative 999)) := by
  refine ⟨?_, ?_, ?_, ?_, ?_, ?_, ?_, ?_, ?_, ?_, ?_⟩ <;> exact quiet_of_still (by decide +kernel) rfl (by decide +kernel)
    (by decide +kernel) (by decide +kernel) (by decide +kernel) (by decide +kernel)

/-- AdvanceCountsOneMicrosecond: counting, UNSET, and the first and the last but one microsecond of a slew block. -/
theorem test_advance : timed.slew.direction = .none ∧ timed.backup.count < Config.endOfRange ∧
    (∀ i, (timed.entry i).armedDue = none) ∧ (run timed [.timebaseAdvance (.whole [])]).backup.count = 10000001 ∧
    (run State.reset [.timebaseAdvance (.whole [])]).backup.count = 0 ∧ (slewing 5 .positive 998).slew.blockElapsed < 999 ∧
    ((run (slewing 5 .positive 998) [.timebaseAdvance (.whole [])]).slew.blockElapsed,
      (run (slewing 5 .positive 998) [.timebaseAdvance (.whole [])]).backup.count) = (999, 10000001) ∧
    (run (slewing 5 .negative 0) [.timebaseAdvance (.whole [])]).slew.blockElapsed = 1 := by decide +kernel

/-- The several entries of AdvanceFiresDueEntry and SlewBlockAddsOrDrops: those due at one value in order of index, those
of the value passed over before those of the value reached. -/
theorem test_advance_several : TableConsistent (crowd (slewing 2 .positive 999)) ∧ DueAhead (crowd timed) ∧
    DueAhead (crowd (slewing 2 .positive 999)) ∧ (crowd timed).dueAt 10000001 = [5, 9] ∧
    fired (run (crowd timed) [.timebaseAdvance (.whole [])]) =
      ([some .spent, some (.armed 10000101), some (.armed 10000002)], [.entry 5 0, .entry 9 0]) ∧
    fired (run (crowd (slewing 2 .positive 999)) [.slewBlockEnd (.whole [])]) =
      ([some .spent, some (.armed 10000101), some .spent], [.entry 5 0, .entry 9 0, .entry 7 0]) := by
  refine ⟨crowd_consistent (by decide +kernel) (by decide +kernel) (by decide +kernel), ahead_of rfl ?_, ahead_of rfl ?_,
    ?_, ?_, ?_⟩ <;> decide +kernel

/-- AdvanceFiresDueEntry, the firings left and made: those of the value passed over and those of the value reached, by
each command that makes them, or one alone; none left; and the next microsecond, which makes what is left first. -/
theorem test_firings_left :
    let s := crowd { timedAt 10000002 with unfired := true }
    let all := ([some RunState.spent, some (.armed 10000101), some .spent],
      [RecordSource.entry 5 0, .entry 9 0, .entry 7 0])
    s.running = true ∧ s.unfired = true ∧ s.backup.rangeHeld = false ∧ TableConsistent s ∧ DueAhead s ∧
    s.passed = [5, 9] ∧ s.dueAt 10000002 = [7] ∧
    run (crowd (slewing 2 .positive 999)) [.slewBlockEnd (.count [])] =
      crowd { slewing 1 .positive 0 with
        backup := (timedAt 10000002).backup, unfired := true,
        authority := (slewing 2 .positive 999).authority } ∧
    fired (run s [.timebaseAdvance (.firings [])]) = all ∧ fired (run s [.slewBlockEnd (.firings [])]) = all ∧
    fired (run s [.slewEnd (.firings [])]) = all ∧ fired (run s [.timebaseAdvance (.count [])]) = all ∧
    run timed [.timebaseAdvance (.firings [])] = timed ∧
    (crowd { timedAt 9999999 with unfired := true }).takeDue .firing = crowd (timedAt 9999999) ∧
    [fired (s.takeDue .firing), fired ((s.takeDue .firing).takeDue .firing),
      fired (((s.takeDue .firing).takeDue .firing).takeDue .firing),
      fired (run s [.slewEnd (.firings [.firing, .examine, .firing])])] =
    [([some .spent, some (.armed 10000001), some (.armed 10000002)], [.entry 5 0]),
      ([some .spent, some (.armed 10000101), some (.armed 10000002)], [.entry 5 0, .entry 9 0]), all, all] ∧
    [(s.takeDue .firing).unfired, (((s.takeDue .firing).takeDue .firing).takeDue .firing).unfired] = [true, false] := by
  refine ⟨by decide +kernel, rfl, rfl, crowd_consistent (by decide +kernel) (by decide +kernel) (by decide +kernel),
    ahead_of rfl ?_, ?_, ?_, ?_, ?_, ?_, ?_, ?_, ?_, ?_, ?_, ?_⟩ <;> decide +kernel

/-- A step or a set at the count D of a firing (R104, R107), each taken before it and after it, and a CALENDAR entry too
before a step back: the run state, the lateness and the epoch of the last firing. -/
theorem test_step_at_due_time :
    let every := body (.every 1 100) (.armed 10000001)
    let year : Pattern := { month := none, day := none, weekday := none, hour := none, minute := none, second := none }
    let served := fun (b : Body) (c : Instr) (first : Bool) =>
      let rest := if first then [c, .timebaseAdvance (.firings [])] else [.timebaseAdvance (.firings []), c]
      let t := run (holding timed b) (.timebaseAdvance (.count []) :: rest)
      (t.entry 5).body.map fun x => (x.run, x.last.map fun f => (f.late, f.missed, f.stamp.epoch.toNat))
    [served every (.step 0 250) true, served every (.step 0 250) false, served every (.setTime 0 10 1) true,
      served every (.step 0 (-1)) true, served every (.step 0 (-1)) false,
      served (body (.calendar year 1) (.armed 10000001)) (.step 0 (-1000000)) true] =
    [some (.armed 10000301, some (true, 2, 1)), some (.armed 10000301, some (true, 1, 1)),
      some (.armed 10000101, some (true, 0, 1)), some (.armed 10000001, none),
      some (.armed 10000101, some (false, 0, 0)), some (.armed 10000001, none)] := by decide +kernel

/-- A CALENDAR entry due at the value a POSITIVE slew passed over, with a step back of 1 microsecond before its firing: it is
found again from the new now, which is its due time, and does not fire there (log 31). -/
theorem test_step_back_onto_passed :
    let year : Pattern := { month := none, day := none, weekday := none, hour := none, minute := none, second := none }
    let s := holding { timedAt 10000002 with unfired := true } (body (.calendar year 1) (.armed 10000001))
    s.passed = [5] ∧ DueAhead s ∧
    (((run s [.step 0 (-1), .timebaseAdvance (.firings [])]).entry 5).body.map fun b => (b.run, b.fireCount)) =
      some (.armed 11000001, 0) := by
  refine ⟨?_, ahead_of rfl ?_, ?_⟩ <;> decide +kernel

/-- AdvanceFiresDueEntry within a slew block, with one entry due and with several. -/
theorem test_advance_slewing :
    let s := crowd (slewing 5 .negative 998)
    let one := holding (slewing 5 .positive 998) (body (.atTime 10000001) (.armed 10000001))
    DueAhead s ∧ DueAhead one ∧ s.slew.blockElapsed < 999 ∧ (one.entry 5).body.map Body.run = some (.armed 10000001) ∧
    (∀ j, j ≠ 5 → (one.entry j).armedDue = none) ∧
    fired (run s [.timebaseAdvance (.whole [])]) =
      ([some .spent, some (.armed 10000101), some (.armed 10000002)], [.entry 5 0, .entry 9 0]) ∧
    ((run one [.timebaseAdvance (.whole [])]).entry 5).body.map Body.run = some .spent := by
  refine ⟨ahead_of rfl ?_, ahead_of rfl ?_, ?_, ?_, ?_, ?_, ?_⟩ <;> decide +kernel

/-- AdvanceFiresDueEntry: an entry of each kind due at the next microsecond, one with nothing left, and one FREE after its
firing. -/
theorem test_advance_fires :
    let fires := fun b : Body => ((run (holding timed b) [.timebaseAdvance (.whole [])]).entry 5).body.map Body.run
    let at' := body (.atTime 10000001) (.armed 10000001)
    let year : Pattern := { month := none, day := none, weekday := none, hour := none, minute := none, second := none }
    ((holding timed at').entry 5).body = some at' ∧ (∀ j, j ≠ 5 → ((holding timed at').entry j).armedDue = none) ∧
    [fires at', fires { at' with keep := false }, fires (body (.every 1 100) (.armed 10000001)),
      fires { body (.every 1 100) (.armed 10000001) with remaining := some 1 },
      fires (body (.calendar year 5) (.armed 10000001)),
      fires (body (.after 2 1 100 .keep) (.armed 10000001))] =
    [some .spent, none, some (.armed 10000101), some .spent, some (.armed 10000005), some .waiting] := by decide +kernel

/-- A state with an adjustment in its WAITING slot. -/
def waits (s : State) (k : AdjustKind) : State :=
  { s with authority := { s.authority with waiting := some { number := 5, what := k } } }

/-- The count, the slew report and the ADJUST_DONE records of P0 after a command. -/
def ended (s : State) (c : Instr) : Nat × Option SlewReport × List (RecordSource × Nat) :=
  let t := run s [c]
  (t.backup.count, t.authority.report, (t.port 0).queue.map fun c => (c.record.source, c.record.value))

/-- SlewBlockAddsOrDrops and SlewEndReports: both directions, nothing waiting, and each kind of adjustment waiting, in
range and out of it. -/
theorem test_slew_ends :
    let s := slewing 1 .positive 999
    let done : Option SlewReport := some { number := 4, outcome := .completed, unapplied := 0 }
    (run (slewing 2 .positive 999) [.slewBlockEnd (.whole [])]).backup.count = 10000002 ∧
    (run (slewing 2 .negative 999) [.slewBlockEnd (.whole [])]).backup.count = 10000000 ∧
    s.authority.active = some { number := 4, amount := 1 } ∧ s.backup.count + 2 ≤ Config.endOfRange ∧
    s.backup.quality ≠ .unset ∧ (∀ i, (s.entry i).body = none) ∧
    [ended s (.slewEnd (.whole [])), ended (waits s (.slew (-7))) (.slewEnd (.whole [])),
      ended (waits s (.set 5)) (.slewEnd (.whole [])),
      ended (waits s (.set 3155760000000000)) (.slewEnd (.whole [])),
      ended (waits s (.step (-10000002))) (.slewEnd (.whole [])),
      ended (waits s (.step (-10000003))) (.slewEnd (.whole []))] =
    [(10000002, done, [(.number 4, 0)]), (10000002, done, [(.number 4, 0)]),
      (5, done, [(.number 4, 0), (.number 5, 0)]), (10000002, done, [(.number 4, 0), (.number 5, 2)]),
      (0, done, [(.number 4, 0), (.number 5, 0)]), (10000002, done, [(.number 4, 0), (.number 5, 2)])] := by
  decide +kernel

/-- SlewEndReports, the end of the slew before the firings and after them: a SET that waits finds the entries passed over
and reached still due and resolves them late, or finds them fired (R104, R107). -/
theorem test_slew_end_first :
    let s := crowd (waits (slewing 1 .positive 999) (.set 10000050))
    let late := fun t : State => ([5, 9, 7] : List EntryIx).map fun i =>
      (t.entry i).body.bind fun b => b.last.map fun f => (f.late, f.stamp.time)
    [late (run s [.slewEnd (.count [])]), late (run s [.slewEnd (.count []), .slewEnd (.firings [])]),
      late (run s [.slewEnd (.whole [])])] =
    [[some (true, 10000050), some (true, 10000050), some (true, 10000050)],
      [some (true, 10000050), some (true, 10000050), some (true, 10000050)],
      [some (false, 10000002), some (false, 10000002), some (false, 10000002)]] := by decide +kernel

/-- SlewBlockAddsOrDrops and SlewEndReports at the end of range, which a NEGATIVE block does not reach. -/
theorem test_slew_at_end : TableConsistent (lastly (slewing 1 .negative 999)) ∧
    DueAhead (lastly (slewing 1 .negative 999)) ∧
    (run (lastly (slewing 2 .negative 999)) [.slewBlockEnd (.whole [])]).backup = (lastly timed).backup ∧
    (run (lastly (slewing 2 .negative 999)) [.slewBlockEnd (.whole [])]).slew.remaining = 1 ∧
    ended (lastly (slewing 1 .negative 999)) (.slewEnd (.whole [])) =
      (3155759999999999, some { number := 4, outcome := .completed, unapplied := 0 }, [(.number 4, 0)]) := by
  have empty : ∀ i, ((lastly (slewing 1 .negative 999)).entry i).body = none := by decide +kernel
  refine ⟨fun i b h => ?_, ahead_of (by decide +kernel) ?_, ?_, ?_, ?_⟩
  · rw [empty i] at h; cases h
  all_goals decide +kernel

/-- EndOfRangeHoldsCount: with and without a slew in progress, each kind of adjustment waiting, and a POSITIVE block end
one value before the end, which fires the entry due at the held value. -/
theorem test_end_of_range :
    let slews : State := { slewing 5 .positive 7 with backup := (timedAt 3155759999999999).backup }
    let before : State := { slewing 5 .positive 999 with backup := (timedAt 3155759999999998).backup }
    let due := holding before (body (.atTime 3155759999999999) (.armed 3155759999999999))
    let left := fun (n : BitVec 8) (k : Nat) =>
      (some { number := n, outcome := .completed, unapplied := k } : Option SlewReport)
    (timedAt 3155759999999999).authority.active = none ∧ slews.authority.active.isSome = true ∧
    (run (timedAt 3155759999999999) [.timebaseAdvance (.whole [])]).backup.rangeHeld = true ∧
    [ended slews (.timebaseAdvance (.whole [])), ended (waits slews (.slew (-7))) (.timebaseAdvance (.whole [])),
      ended (waits slews (.set 5)) (.timebaseAdvance (.whole [])),
      ended (waits slews (.step 1)) (.timebaseAdvance (.whole [])),
      ended before (.timebaseAdvance (.whole [])), ended before (.slewBlockEnd (.count []))] =
    [(3155759999999999, left 4 5, [(.number 4, 0)]), (3155759999999999, left 5 7, [(.number 4, 0), (.number 5, 0)]),
      (5, left 4 5, [(.number 4, 0), (.number 5, 0)]), (3155759999999999, left 4 5, [(.number 4, 0), (.number 5, 2)]),
      (3155759999999999, left 4 5, [(.number 4, 0)]), (3155759999999999, left 4 5, [(.number 4, 0)])] ∧
    due.dueAt 3155759999999999 = [5] ∧
    ((run due [.timebaseAdvance (.whole [])]).entry 5).body.map Body.run = some .spent := by decide +kernel

/-- The other hypotheses of EndOfRangeHoldsCount in the state of its block end. -/
theorem test_end_of_range_due :
    let before : State := { slewing 5 .positive 999 with backup := (timedAt 3155759999999998).backup }
    let s := holding before (body (.atTime 3155759999999999) (.armed 3155759999999999))
    Quiet [] s ∧ DueAhead s ∧ s.backup.quality ≠ .unset ∧ (s.slew.direction = .none ↔ s.authority.active = none) := by
  refine ⟨quiet_of_still ?_ rfl ?_ ?_ ?_ ?_ ?_, ahead_of rfl ?_, ?_, ?_⟩ <;> decide +kernel

/-! ## The schedule table -/

/-- CalendarMatchesFound: a match every second, and none after the last one. -/
theorem test_calendar_matches :
    let second : Pattern := { month := none, day := none, weekday := none, hour := none, minute := none, second := none }
    let leapDay : Pattern := { second with month := some 2, day := some 29 }
    (999999 : Nat) ≤ 999999 ∧ nextMatch second 999999 999999 = some 1999999 ∧
    nextMatch leapDay 0 0 = some 5097600000000 ∧ nextMatch second 0 3155759999000000 = none ∧
    countMatches second 0 10000000 65535 1000000 = 9 := by decide +kernel

/-- ArmEntryRefusesInOrder, clause by clause. -/
theorem test_arm_refused :
    let line : ArmFields := { plain (.atTime 11 0) with linePresence := 1, line := 3 }
    let poor : State := timed.setQuota 0 0
    let crowded : State :=
      { timed with schedule := { timed.schedule with
          entries := Vector.replicate 64 { inst := 0, body := some { body (.atTime 1) .spent with owner := 1 } } } }
    [answer timed (.armEntry 0 { plain (.atTime 11 0) with lateOk := 2 }), answer timed (.armEntry 0 (plain (.unknown 4))),
      answer State.reset (.armEntry 0 (plain (.atTime 11 0))), answer timed (.armEntry 0 line),
      answer timed (.armEntry 0 (plain (.after 2 1 0 0))), answer poor (.armEntry 0 (plain (.atTime 11 0))),
      answer crowded (.armEntry 0 (plain (.atTime 11 0))), answer timed (.armEntry 0 (plain (.atTime 10 0))),
      answer (timedAt 3155759999999999) (.armEntry 0 (plain (.calendar 0xFF 0xFF 0xFF 0xFF 0xFF 0xFF 0)))] =
    [some .badArg, some .badArg, some .noTime, some .notOwner, some .notOwner, some .quota, some .noRoom, some .tooLate,
      some .badArg] := by decide +kernel

/-- ArmEntryAllocates: each kind, and an AT target at now with late-ok. -/
theorem test_arm_allocates :
    let becomes := fun f : ArmFields => ((run owning [.armEntry 0 f]).entry 0).body.map Body.run
    let late : ArmFields := { plain (.atTime 10 0) with lateOk := 1 }
    armAcceptable late = true ∧ definitionOf late.defn = some (.atTime 10000000) ∧ (owning.entry 0).body = none ∧
    [plain (.atTime 10 1), plain (.every 3155759999 999999 100), plain (.calendar 0xFF 0xFF 0xFF 0xFF 0xFF 0xFF 999999),
      plain (.after 2 127 0 1)].all armAcceptable = true ∧
    [becomes (plain (.atTime 10 1)), becomes late, becomes (plain (.every 0 0 100)),
      becomes (plain (.calendar 0xFF 0xFF 0xFF 0xFF 0xFF 0xFF 0)), becomes (plain (.after 2 127 0 1))] =
    [some (.armed 10000001), some .spent, some (.armed 10000100), some (.armed 11000000), some .waiting] := by
  decide +kernel

/-- RetimeEntryReplaces: the handle, the fields, the kind, the state, and each outcome of an ARMED and of a HELD entry. -/
theorem test_retime :
    let s := fun r : RunState => holding timed (body (.atTime 20000000) r)
    let moved := fun (s : State) (n : BitVec 32) (late : Byte) => answer s (.retimeEntry 0 5 0 (.atTime n 0) late)
    let armed := s (.armed 20000000)
    [answer armed (.retimeEntry 0 64 0 (.atTime 30 0) 0), answer armed (.retimeEntry 0 6 0 (.atTime 30 0) 0),
      answer armed (.retimeEntry 1 5 0 (.atTime 30 0) 0), moved armed 3155760000 0, moved armed 30 2,
      answer armed (.retimeEntry 0 5 0 (.every 1 0 100) 0), moved (s .spent) 30 0, moved armed 11 0,
      moved armed 10 0, moved armed 10 1,
      moved (s (.heldArmed 20000000)) 10 0, moved (s (.heldArmed 20000000)) 10 1] =
    [some .badArg, some .notFound, some .notOwner, some .badArg, some .badArg, some .badArg, some .badArg, some .ok,
      some .tooLate, some .ok, some .tooLate, some .ok] := by decide +kernel

/-- HoldAndUnholdEntry: each state of the entry. -/
theorem test_hold :
    let s := fun r : RunState => holding timed (body (.after 2 1 5 .keep) r)
    let becomes := fun (s : State) (c : Instr) => ((run s [c]).entry 5).body.map Body.run
    [becomes (s (.armed 10000001)) (.holdEntry 0 5 0), becomes (s .waiting) (.holdEntry 0 5 0),
      becomes (s .heldWaiting) (.holdEntry 0 5 0), becomes (s .heldWaiting) (.unholdEntry 0 5 0),
      becomes (s (.heldArmed 10000001)) (.unholdEntry 0 5 0), becomes (s (.heldArmed 10000000)) (.unholdEntry 0 5 0)] =
    [some (.heldArmed 10000001), some .heldWaiting, some .heldWaiting, some .waiting, some (.armed 10000001),
      some .waiting] ∧ answer (s .spent) (.holdEntry 0 5 0) = some .badArg ∧
    answer (s .spent) (.unholdEntry 0 5 0) = some .badArg := by decide +kernel

/-- CancelEntryAndSetQuota: the handle's outcomes, and the boundaries of a port and of a quota. -/
theorem test_cancel :
    let s := holding timed (body (.atTime 20000000) (.armed 20000000))
    [answer s (.cancelEntry 0 5 0), answer s (.cancelEntry 1 5 0), answer s (.cancelEntry 0 63 0),
      answer s (.cancelEntry 0 64 0), answer s (.setQuota 1 0 0), answer s (.setQuota 0 3 64), answer s (.setQuota 0 4 0),
      answer s (.setQuota 0 3 65)] =
    [some .ok, some .notOwner, some .notFound, some .badArg, some .notAuthority, some .ok, some .badArg,
      some .badArg] := by decide +kernel

/-- StepResolvesOrRecomputes: a STEP and a SET_TIME to the due time of the last of several entries, which fire in order of
index, and a STEP and a SET_TIME back over a CALENDAR entry, and one over an entry held past its last match. -/
theorem test_step_table :
    let c := body (.calendar { month := none, day := none, weekday := none, hour := none, minute := none, second := none } 0)
    let becomes := fun (s : State) (i : Instr) => ((run s [i]).entry 5).body.map Body.run
    let both := ([some .spent, some (.armed 10000101), some .spent], [.entry 5 0, .entry 7 0, .entry 9 0])
    (crowd timed).authority.active = none ∧ (crowd timed).authority.holder = some 0 ∧
    (10000002 : Int) = ((crowd timed).backup.count : Int) + (2#32).toInt ∧ (2 : BitVec 24).toNat ≤ 999999 ∧
    10000002 = (10#32).toNat * 1000000 + (2#24).toNat ∧
    fired (run (crowd timed) [.step 0 2]) = both ∧ fired (run (crowd timed) [.setTime 0 10 2]) = both ∧
    [becomes (holding timed (c (.armed 11000000))) (.step 0 (BitVec.ofInt 32 (-5000000))),
      becomes (holding timed (c (.armed 11000000))) (.setTime 0 4 1),
      becomes (holding (timedAt 3155759999500000) (c (.heldArmed 3155759999000000))) (.step 0 (BitVec.ofInt 32 (-100000)))] =
    [some (.armed 6000000), some (.armed 5000000), some (.heldArmed 3155759999000000)] := by decide +kernel

/-! ## Trigger lines -/

/-- LinesClaimedReleasedPinned, clause by clause, with the last line and the first number beyond it. -/
theorem test_lines_claimed :
    let pinned := run owning [.pinLine 0 3]
    let named := holding owning { body (.atTime 20000000) (.armed 20000000) with line := some (3, .pulse) }
    [answer owning (.claimLine 1 15), answer owning (.claimLine 0 3), answer owning (.claimLine 1 3),
      answer owning (.claimLine 0 16), answer owning (.releaseLine 1 3), answer pinned (.releaseLine 0 3),
      answer named (.releaseLine 0 3), answer owning (.releaseLine 0 3), answer owning (.releaseLine 0 16),
      answer owning (.pinLine 1 3), answer owning (.pinLine 0 3), answer owning (.pinLine 0 16)] =
    [some .ok, some .ok, some .owned, some .badArg, some .notOwner, some .pinned, some .inUse, some .ok, some .badArg,
      some .notOwner, some .ok, some .badArg] := by decide +kernel

/-- LinesConfiguredAndDriven, clause by clause. -/
theorem test_lines_driven :
    let high := run owning [.driveLine 0 3 1]
    let drives := fun (s : State) (a : Byte) => ((run s [.driveLine 0 3 a]).line 3).drive
    [answer owning (.configureLine 0 3 2 1 0), answer owning (.configureLine 0 3 1 0 0),
      answer owning (.configureLine 1 3 1 1 0), answer high (.configureLine 0 3 1 1 0),
      answer owning (.configureLine 0 3 1 65535 65535), answer owning (.configureLine 0 16 1 1 0),
      answer owning (.driveLine 0 3 4), answer owning (.driveLine 1 3 0), answer owning (.driveLine 0 16 0)] =
    [some .badArg, some .badArg, some .notOwner, some .notStopped, some .ok, some .badArg, some .badArg, some .notOwner,
      some .badArg] ∧
    [drives owning 0, drives owning 1, drives high 2, drives owning 3, drives high 3] =
    [.pulsing 10, .held none, .idle, .held none, .idle] := by decide +kernel

/-- LineTimersEnd: a pulse and a hold whose time has passed, each with its timer a microsecond short of it, and a pulse
whose end is named by the advance. -/
theorem test_line_timers :
    let s := fun d : Drive => owning.setLine 3 { Line.reset with owner := some 0, holdLimit := 1, drive := d }
    owning.running = true ∧
    [((run (s (.pulsing 0)) [.pulseEnd 3]).line 3).drive, ((run (s (.pulsing 1)) [.pulseEnd 3]).line 3).drive,
      ((run (s (.held (some 0))) [.holdExpiry 3]).line 3).drive,
      ((run (s (.held (some 1))) [.holdExpiry 3]).line 3).drive,
      ((run (s (.pulsing 1)) [.timebaseAdvance (.whole [.pulseEnd 3])]).line 3).drive] =
    [.idle, .pulsing 1, .idle, .held (some 1), .idle] := by decide +kernel

/-- The hypotheses of LineTimersEnd's clause on a pulse that an advance ends while the quality is UNSET. -/
theorem test_line_timer_named :
    let s := State.reset.setLine 3 { Line.reset with owner := some 0, drive := .pulsing 1 }
    Quiet [] s ∧ (s.line 3).drive = .pulsing 1 ∧ s.backup.quality = .unset ∧ s.slew.direction = .none := by
  refine ⟨⟨by decide +kernel, rfl, fun d => ?_, fun d h => nomatch h⟩, by decide +kernel, by decide +kernel, by decide +kernel⟩
  cases d with
  | pulseEnd l => revert l; decide +kernel
  | holdExpiry l => revert l; decide +kernel
  | overflow c => revert c; decide +kernel
  | edge c => revert c; decide +kernel
  | windowEnd => decide +kernel
  | loss => decide +kernel
  | examine => decide +kernel
  | firing => decide +kernel

/-- TRG3 in a drive state with a hold limit of 1, and an entry that toggles it due at the next microsecond. -/
def toggling (d : Drive) : State :=
  (holding owning { body (.atTime 10000001) (.armed 10000001) with line := some (3, .toggle) }).setLine 3
    { Line.reset with owner := some 0, holdLimit := 1, drive := d }

/-- LineTimersEnd: a timer's end that an advance names comes before the firing of the same microsecond, which finds the
line IDLE and drives it anew; not named, it comes after. -/
theorem test_line_timer_first :
    let after := fun (d : Drive) (first : List DueEvent) =>
      ((run (toggling d) [.timebaseAdvance (.whole first)]).line 3).drive
    DueAhead (toggling (.pulsing 1)) ∧ DueAhead (toggling (.held (some 1))) ∧ (toggling .idle).dueAt 10000001 = [5] ∧
    [after (.pulsing 1) [.pulseEnd 3], after (.pulsing 1) [], after (.held (some 1)) [.holdExpiry 3],
      after (.held (some 1)) []] = [.held (some 1000), .idle, .held (some 1000), .idle] := by
  refine ⟨ahead_of rfl ?_, ahead_of rfl ?_, ?_, ?_⟩ <;> decide +kernel

/-- A timer's end, a request and a firing at one instant, the request between the other two: the timer's end leaves the line
IDLE, the request drives it, and the toggle of the firing ends that (R67, R123; log 30). -/
theorem test_line_timer_then_request :
    let s := run (toggling (.pulsing 1)) [.timebaseAdvance (.count []), .pulseEnd 3]
    let t := run s [.driveLine 0 3 1]
    [(s.line 3).drive, (t.line 3).drive, ((run t [.timebaseAdvance (.firings [])]).line 3).drive] =
      [.idle, .held (some 1000), .idle] := by decide +kernel

/-- The states of test_line_timer_first are quiet. -/
theorem test_line_timer_first_quiet : ∀ d ∈ ([.pulsing 1, .held (some 1)] : List Drive), Quiet [] (toggling d) := by
  intro d h
  simp only [List.mem_cons, List.not_mem_nil, or_false] at h
  rcases h with rfl | rfl <;>
  · refine ⟨by decide +kernel, rfl, fun d => ?_, fun d h => nomatch h⟩
    cases d with
    | pulseEnd l => revert l; decide +kernel
    | holdExpiry l => revert l; decide +kernel
    | overflow c => revert c; decide +kernel
    | edge c => revert c; decide +kernel
    | windowEnd => decide +kernel
    | loss => decide +kernel
    | examine => decide +kernel
    | firing => decide +kernel

/-! ## Capture channels -/

/-- ChannelsClaimedAndReleased, clause by clause. -/
theorem test_channels_claimed :
    let named := holding owning (body (.after 2 1 5 .keep) .waiting)
    [answer owning (.claimChannel 1 7), answer owning (.claimChannel 0 2), answer owning (.claimChannel 1 2),
      answer owning (.claimChannel 0 8), answer owning (.releaseChannel 1 2), answer named (.releaseChannel 0 2),
      answer owning (.releaseChannel 0 2), answer owning (.releaseChannel 0 8)] =
    [some .ok, some .ok, some .owned, some .badArg, some .notOwner, some .inUse, some .ok, some .badArg] := by
  decide +kernel

/-- ChannelsSharedConfiguredStarted, clause by clause. -/
theorem test_channels_configured :
    let on := run owning [.startChannel 0 2]
    [answer owning (.shareChannel 1 2 1), answer owning (.shareChannel 0 2 1), answer owning (.shareChannel 0 2 0),
      answer owning (.shareChannel 0 2 2), answer owning (.configureChannel 0 2 3 2 1 7),
      answer owning (.configureChannel 1 2 3 2 0x0F 7), answer on (.configureChannel 0 2 3 2 0x0F 7),
      answer owning (.configureChannel 0 2 3 2 0x0F 7), answer owning (.configureChannel 0 2 3 2 2 7),
      answer owning (.startChannel 1 2), answer on (.startChannel 0 2), answer owning (.startChannel 0 8),
      answer owning (.stopChannel 1 2), answer on (.stopChannel 0 2), answer owning (.stopChannel 0 8),
      answer owning (.setReload 1 2 1), answer owning (.setReload 0 2 0), answer owning (.setReload 0 2 65535)] =
    [some .notOwner, some .ok, some .ok, some .badArg, some .notOwner, some .notOwner, some .notStopped, some .ok,
      some .badArg, some .notOwner, some .ok, some .badArg, some .notOwner, some .ok, some .badArg, some .notOwner,
      some .badArg, some .ok] := by decide +kernel

/-- CAP2 of P0, in a mode, with an edge to HIGH that falls now. -/
def edging (x : Channel) : State :=
  (owning.setChannel 2 { x with owner := some 0, qualification := .complete }).setRaw 2 .high

/-- EdgesActByMode: each mode, a selected edge and one that is not, a first and a later edge, a counter above 1 and at 1,
an overflow, an expiry with each kind of count source, and a raw level that starts, keeps and abandons a qualification. -/
theorem test_edges_by_mode :
    let on : Channel := { Channel.reset with running := true }
    let sent := fun s : State => ((run s [.edgeTaken 2]).port 0).queue.map fun c => (c.record.kind, c.record.value)
    let count : Channel := { on with mode := .count, reload := 5 }
    let counted := fun source : Channel =>
      ((run ((edging { count with source := .channel 1 }).setChannel 1 source) [.counterExpiry 2]).channel 2).counter
    (Unheard 2 (edging on)) ∧
    [sent (edging Channel.reset), sent (edging on), sent (edging { on with edge := .fall }),
      sent (edging { on with mode := .period }), sent (edging { on with mode := .period, measuring := some 4294967296 }),
      sent (edging { on with mode := .width, measuring := some 9 }), sent (edging { count with counter := 2 }),
      sent (edging count)] =
    [[], [(.edgeRise, 0)], [], [], [(.period, 4294967295)], [(.widthLow, 9)], [], [(.expiry, 5)]] ∧
    ((run (edging { on with measuring := some 4294967296 }) [.measurementOverflow 2]).channel 2).measuring = none ∧
    ((run (edging count) [.counterExpiry 2]).channel 2).counter = 5 ∧
    [counted { Channel.reset with owner := some 0, running := true }, counted Channel.reset,
      counted { Channel.reset with owner := some 1, running := true },
      counted { Channel.reset with owner := some 1, running := true, shareable := true }] = [5, 1, 1, 5] ∧
    ((run owning [.capturePinChange 2 .high]).channel 2).qualification = .running ∧
    ((run owning [.capturePinChange 2 .high, .capturePinChange 2 .high]).channel 2).qualification = .running ∧
    ((run owning [.capturePinChange 2 .high, .capturePinChange 2 .low]).channel 2).qualification = .none ∧
    ((run (edging on) [.capturePinChange 2 .low]).channel 2).filtered = .high := by
  unfold Unheard; decide +kernel

/-- CaptureRecordsActOnEntriesAndCounters: a WAITING entry, an ARMED one under each policy, a delay of 0, and a counting
channel with its counter above 1 and at 1. -/
theorem test_records_act :
    let s := edging { Channel.reset with running := true, edge := .both }
    let becomes := fun b : Body => ((run (holding s b) [.edgeTaken 2]).entry 5).body.map Body.run
    let counting := fun n => s.setChannel 4 { Channel.reset with
      owner := some 0, running := true, mode := .count, source := .channel 2, reload := 3, counter := n }
    (∀ d, (s.channel d).source ≠ .channel 2) ∧ s.backup.rangeHeld = false ∧
    [becomes (body (.after 2 1 7 .keep) .waiting), becomes (body (.after 2 1 7 .keep) (.armed 10000003)),
      becomes (body (.after 2 1 7 .restart) (.armed 10000003)), becomes (body (.after 2 2 7 .keep) .waiting),
      becomes { body (.after 2 1 0 .keep) .waiting with remaining := some 1 }] =
    [some (.armed 10000007), some (.armed 10000003), some (.armed 10000007), some .waiting, some .spent] ∧
    (∀ e, ((counting 2).channel e).source = .channel 2 ↔ e = 4) ∧ (∀ e, ((counting 2).channel e).source ≠ .channel 4) ∧
    ((run (counting 2) [.edgeTaken 2]).channel 4).counter = 1 ∧
    ((run (counting 1) [.edgeTaken 2]).channel 4).counter = 3 := by decide +kernel

/-- A body that a record of some kinds acts on at once, once, and that is then FREE. -/
def once (c : ChanNo) (kinds : Byte) : Body :=
  { body (.after c kinds 0 .keep) .waiting with remaining := some 1, keep := false, shareable := true }

/-- A capture record at the count D of an AFTER entry's own firing, taken before it and after it (R97): the run state and
the fire count after the instant. Under RESTART the record taken first puts the entry off by its delay, here 1; under KEEP
it is ignored, and the entry fires. -/
theorem test_record_at_due_time :
    let s := edging { Channel.reset with running := true }
    let b := fun p : Retrigger => holding
      { s with backup := { s.backup with count := 10000001 }, unfired := true } (body (.after 2 1 1 p) (.armed 10000001))
    let served := fun (p : Retrigger) (cs : List Instr) =>
      ((run (b p) cs).entry 5).body.map fun x => (x.run, x.fireCount)
    [served .restart [.edgeTaken 2, .timebaseAdvance (.firings [])],
      served .restart [.timebaseAdvance (.firings [.edge 2])],
      served .restart [.timebaseAdvance (.firings []), .edgeTaken 2],
      served .keep [.timebaseAdvance (.firings [.edge 2])],
      served .keep [.timebaseAdvance (.firings []), .edgeTaken 2]] =
    [some (.armed 10000002, 0), some (.armed 10000002, 0), some (.armed 10000002, 1), some (.waiting, 1),
      some (.armed 10000002, 1)] := by decide +kernel

/-- CaptureRecordsActOnEntriesAndCounters, its clauses on every record: PERIOD, WIDTH, EXPIRY and OVERFLOW, a record that a
channel of another owner does not count, a chain of three channels, and a delay of 0 while the range is held. -/
theorem test_records_general :
    let on : Channel := { Channel.reset with running := true, edge := .both }
    let counts := fun (s : State) (d c : ChanNo) (p : Port) => s.setChannel d { Channel.reset with
      owner := some p, running := true, mode := .count, source := .channel c, reload := 4, counter := 1, level := 2 }
    let sent := fun (s : State) (i : Instr) => ((run s [i]).port 0).queue.map fun c => (c.record.kind, c.record.source)
    let chain := counts (counts (edging { on with level := 3 }) 4 2 0) 6 4 0
    let long := { on with mode := .period, measuring := some 4294967296, level := 3 }
    let held := holding (edging on) (body (.after 2 1 0 .keep) .waiting)
    let due := fun s : State => ((run s [.edgeTaken 2]).entry 5).body.map Body.run
    [sent chain (.edgeTaken 2), sent (counts (edging on) 4 2 1) (.edgeTaken 2),
      sent (counts (edging { on with mode := .period, measuring := some 7 }) 4 2 0) (.edgeTaken 2),
      sent (counts (edging { on with mode := .width, measuring := some 7 }) 4 2 0) (.edgeTaken 2),
      sent (counts (edging { on with mode := .count, level := 3 }) 4 2 0) (.counterExpiry 2),
      sent (counts (edging long) 4 2 0) (.measurementOverflow 2),
      sent (holding (edging long) (once 2 0x7F)) (.measurementOverflow 2)] =
    [[(.edgeRise, .number 2), (.expiry, .number 4), (.expiry, .number 6)], [(.edgeRise, .number 2)],
      [(.expiry, .number 4), (.period, .number 2)], [(.expiry, .number 4), (.widthLow, .number 2)],
      [(.expiry, .number 2), (.expiry, .number 4)], [(.overflow, .number 2)],
      [(.overflow, .number 2), (.firing, .entry 5 0)]] ∧
    [due held, due { held with backup := { held.backup with rangeHeld := true } }] =
      [some .waiting, some (.armed 10000000)] := by decide +kernel

/-! ## Subscriptions, the digest, resets and supplies -/

/-- Several sources that one event takes away end their subscriptions in ascending order of index (R159): one capture
record, one STEP, and one port reset, each with the entry at index 5 subscribed to after the one at index 9; and two
firings of one advance, of which each ends its own (R98; log 27). -/
theorem test_subscriptions_end_in_order :
    let subscribed := fun s : State => run s [.subscribe 1 1 9 0 0x80 1, .subscribe 1 1 5 0 0x80 1]
    let records := fun s : State => (s.port 1).queue.map fun c => (c.record.kind, c.record.source)
    let timedBody := { body (.atTime 10000001) (.armed 10000001) with keep := false, shareable := true }
    let both := subscribed ((timed.setBody 5 (some timedBody)).setBody 9 (some timedBody))
    let captured := subscribed (((edging { Channel.reset with running := true }).setBody 5 (some (once 2 1))).setBody 9
      (some (once 2 1)))
    let ordered := [(RecordKind.subEnded, RecordSource.number 0), (.subEnded, .number 1)]
    let firings := [(RecordKind.firing, RecordSource.entry 5 0), (.firing, .entry 9 0)]
    records (run captured [.edgeTaken 2]) = ordered ++ firings ∧ records (run both [.step 0 5]) = ordered ++ firings ∧
    records (run both [.portReset 0]) = ordered ∧
    records (run both [.timebaseAdvance (.whole [])]) = ordered.reverse ++ firings := by decide +kernel

/-- SubscribeAndUnsubscribe, clause by clause. -/
theorem test_subscriptions :
    let s := holding owning { body (.atTime 20000000) (.armed 20000000) with shareable := true }
    let u := run s [.subscribe 0 0 2 0 1 1]
    let crowded := allSubs.foldl (fun t j => t.setSub j (u.sub 0)) s
    [answer s (.subscribe 0 0 2 0 1 8), answer s (.subscribe 0 0 2 0 127 7), answer s (.subscribe 1 0 2 0 1 1),
      answer s (.subscribe 0 0 8 0 1 1), answer s (.subscribe 1 1 5 0 0x80 1), answer s (.subscribe 1 1 5 1 0x80 1),
      answer s (.subscribe 1 1 64 0 0x80 1), answer s (.subscribe 1 2 5 0 0x80 1), answer crowded (.subscribe 0 0 2 0 1 1),
      answer (holding owning (body (.atTime 20000000) (.armed 20000000))) (.subscribe 1 1 5 0 0x80 1),
      answer u (.unsubscribe 0 0), answer u (.unsubscribe 1 0), answer u (.unsubscribe 0 23), answer u (.unsubscribe 0 24)] =
    [some .badArg, some .ok, some .notOwner, some .badArg, some .ok, some .notFound, some .badArg, some .badArg,
      some .noRoom, some .notOwner, some .ok, some .notOwner, some .notFound, some .badArg] := by decide +kernel

/-- DigestBeginsAndExamines: each outcome of DIGEST, and an index too early, in the middle and the last one. -/
theorem test_digest :
    let s := run timed [.digest 0 1 1]
    let walk := fun next elapsed : Nat =>
      { s with digest := s.digest.map fun w => { w with nextIndex := next, elapsed := elapsed } }
    let after := fun s : State => (run s [.digestExamineIndex]).digest.map Walk.nextIndex
    answer timed (.digest 0 2 0) = some .badArg ∧ answer s (.digest 1 0 0) = some .busy ∧ s.digest.isSome = true ∧
    s.running = true ∧ after (walk 0 19) = some 0 ∧ after (walk 0 20) = some 1 ∧ after (walk 62 1260) = some 63 ∧
    after (walk 63 1280) = none := by decide +kernel

/-- PortsResetDetachAndReturn: an attached port and one that is not. -/
theorem test_port_resets : timed.running = true ∧ timed.attached 0 = true ∧ Ready timed 0 ∧ timed.digest = none ∧
    (run timed [.portReset 0]).attached 0 = false ∧
    ((run timed [.portReset 0, .portLeavesResetHold 0]).port 0).causes = 11 ∧
    ((run timed [.detach 0]).port 0).causes = 19 := by unfold Ready; decide +kernel

/-- The part held in reset, as DEVICE_RESET leaves it. -/
theorem test_held_in_reset : HeldInReset (run timed [.deviceReset]) ∧
    (run timed [.deviceReset]).pins.resetHeld = true ∧ (run timed [.deviceReset]).pins.mainSupply = true := by
  refine ⟨⟨?_, ?_, ?_, ?_, ?_, ?_, ?_, ?_, ?_, ?_, ?_, ?_, ?_⟩, ?_, ?_⟩ <;> decide +kernel

/-- ResetsAndSupplies: the other conditions of its clauses. -/
theorem test_supplies :
    let off := run timed [.mainSupplyLoss]
    let lost := run timed [.backupSupplyLoss, .mainSupplyLoss]
    timed.pins.mainSupply = true ∧ timed.running = true ∧ off.pins.mainSupply = false ∧ off.pins.resetHeld = false ∧
    off.backup.retention = true ∧ lost.backup.retention = false ∧ off.running = false ∧
    (run off [.timebaseAdvance (.count []), .timebaseAdvance (.firings [])]).backup.count = 10000001 ∧
    (run lost [.timebaseAdvance (.whole [])]).backup.count = 10000000 ∧
    (run off [.powerOnRetained 0]).backup.quality = .freeRun ∧
    (run off [.deviceReset, .powerOnRetained 0]).attached 0 = false ∧
    (run off [.deviceReset, .powerOnRetained 0]).leaveCauses = 1 ∧
    (run lost [.deviceReset, .powerOnBackupLost 0]).leaveCauses = 3 ∧
    ((run off [.deviceReset, .powerOnRetained 0, .partLeavesReset 0]).port 0).causes = 1 ∧
    (run lost [.powerOnBackupLost 3]).authority.holder = some 3 ∧
    (run off [.powerOnRetained 4]).authority.holder = none := by decide +kernel

/-! ## Properties that every step keeps -/

/-- The reset state has the properties that the statements about every step suppose (and steps: its queue is empty). -/
theorem test_properties_at_reset : step State.reset = .next State.reset ∧ QueuesOrdered State.reset ∧
    TimeInRange State.reset.backup ∧ SlewConsistent State.reset ∧ WaitingSlewInRange State.reset ∧
    SupervisorConsistent State.reset := by
  refine ⟨rfl, ?_, ?_, ?_, ?_, ?_⟩
  · unfold QueuesOrdered; decide +kernel
  · unfold TimeInRange; decide +kernel
  · unfold SlewConsistent; decide +kernel
  · intro w h; cases h
  · unfold SupervisorConsistent; decide +kernel

/-- The reset state has no entry, subscription or walk, and its ports are READY. -/
theorem test_tables_at_reset : PortsConsistent State.reset ∧ TableConsistent State.reset ∧ DueAhead State.reset ∧
    SubsConsistent State.reset := by
  have idle : ∀ p, (State.reset.port p).transfer = .idle := by decide +kernel
  have empty : ∀ i, (State.reset.entry i).body = none := by decide +kernel
  have ready : ∀ p, (State.reset.port p).state = .ready ∧ (State.reset.port p).slot = .empty := by decide +kernel
  refine ⟨⟨fun p h => ?_, fun p => ?_, fun p => ?_, fun h => ?_, fun p _ _ h => ?_⟩, fun i b h => ?_, fun i d h => ?_, fun i u h => ?_⟩
  · rw [(ready p).1] at h; cases h
  · rw [(ready p).1]
    exact iff_of_false nofun fun ⟨_, h, _⟩ => nomatch h
  · rw [(ready p).1, (ready p).2]
    exact iff_of_false nofun nofun
  · cases h
  · rw [idle p] at h; cases h
  · rw [empty i] at h; cases h
  · unfold Entry.armedDue at h; rw [empty i] at h; cases h
  · rw [show State.reset.sub i = none from (by decide +kernel : ∀ i, State.reset.sub i = none) i] at h; cases h

/-- StepsKeepPortsConsistent: a slot sampled while EXECUTING, before and after the walk has ended. -/
theorem test_ports_sampled :
    let s := run State.reset [.digest 0 0 0, .fetch 0 0]
    let t := run { s with digest := s.digest.map fun w => { w with nextIndex := 63, elapsed := 1280 } } [.digestExamineIndex]
    (s.port 0).transfer = .begun 0x15 .pending ∧ (s.port 0).slot = .pending ∧
    (t.port 0).transfer = .begun 0x15 .pending ∧ (t.port 0).slot ≠ .pending ∧ (t.port 0).slot ≠ .empty := by
  decide +kernel

/-- The lines and channels of the reset state are consistent. -/
theorem test_lines_channels_at_reset : LinesConsistent State.reset ∧ ChannelsConsistent State.reset := by
  have empty : ∀ i, (State.reset.entry i).body = none := by decide +kernel
  have lines : ∀ l, State.reset.line l = Line.reset := by decide +kernel
  have channels : ∀ c, State.reset.channel c = Channel.reset := by decide +kernel
  refine ⟨⟨fun l => ?_, fun i b x h => ?_⟩, fun c => ?_, fun i b c h => ?_⟩
  · rw [lines l]
    exact ⟨nofun, fun _ => ⟨rfl, rfl⟩, by decide, by decide, nofun, nofun, nofun⟩
  · rw [empty i] at h; cases h
  · rw [channels c]
    exact ⟨fun _ => ⟨rfl, rfl⟩, by decide, by decide, by decide, nofun, nofun⟩
  · rw [empty i] at h; cases h

end Sys2Proof.Tests
end

section
/-! What a firing does to each part of the state (R98 to R103), and the lists of firings that the operations over the
schedule table make: the facts about the entries that the statements about the timebase and about every step rest on. -/

namespace Sys2Proof.Machine

/-! ## Reading a part that a frame keeps -/

section Keeps

variable {ps : List Part} {s t : State} (h : OnlyChanges ps s t)
include h

theorem OnlyChanges.backup (n : Part.backup ∉ ps := by decide) : t.backup = s.backup := h.keeps .backup n
theorem OnlyChanges.slew (n : Part.slew ∉ ps := by decide) : t.slew = s.slew := h.keeps .slew n
theorem OnlyChanges.authority (n : Part.authority ∉ ps := by decide) : t.authority = s.authority := h.keeps .authority n
theorem OnlyChanges.schedule (n : Part.schedule ∉ ps := by decide) : t.schedule = s.schedule := h.keeps .schedule n
theorem OnlyChanges.unfired (n : Part.unfired ∉ ps := by decide) : t.unfired = s.unfired := h.keeps .unfired n
theorem OnlyChanges.digest (n : Part.digest ∉ ps := by decide) : t.digest = s.digest := h.keeps .digest n
theorem OnlyChanges.pins (n : Part.pins ∉ ps := by decide) : t.pins = s.pins := h.keeps .pins n

theorem OnlyChanges.now (n : Part.backup ∉ ps := by decide) : t.now = s.now := congrArg Backup.count (h.backup n)

theorem OnlyChanges.stamp (n : Part.backup ∉ ps := by decide) : t.stamp = s.stamp := by
  unfold State.stamp; rw [h.backup n]

theorem OnlyChanges.running (n : Part.pins ∉ ps := by decide) : t.running = s.running := by
  unfold State.running; rw [h.pins n]

theorem OnlyChanges.entry (i : EntryIx) (n : Part.schedule ∉ ps := by decide) : t.entry i = s.entry i := by
  unfold State.entry; rw [h.schedule n]

theorem OnlyChanges.line (l : LineNo) (n : Part.lines ∉ ps := by decide) : t.line l = s.line l := by
  unfold State.line; rw [show t.lines = s.lines from h.keeps .lines n]

theorem OnlyChanges.channel (c : ChanNo) (n : Part.channels ∉ ps := by decide) : t.channel c = s.channel c := by
  unfold State.channel; rw [show t.channels = s.channels from h.keeps .channels n]

theorem OnlyChanges.sub (j : SubIx) (n : Part.subs ∉ ps := by decide) : t.sub j = s.sub j := by
  unfold State.sub; rw [show t.subs = s.subs from h.keeps .subs n]

theorem OnlyChanges.port (p : Port) (n : Part.ports ∉ ps := by decide) : t.port p = s.port p := by
  unfold State.port; rw [show t.ports = s.ports from h.keeps .ports n]

theorem OnlyChanges.attached (p : Port) (n : Part.ports ∉ ps := by decide) : t.attached p = s.attached p := by
  unfold State.attached; rw [h.port p n]

end Keeps

/-! ## The generations (R71, R72) -/

theorem Walk.risen_zero (w : Walk) : w.risen 0 0 = w := by
  unfold Walk.risen; cases w with | mk _ _ c _ _ _ _ _ _ => cases c <;> simp

theorem Walk.risen_risen (w : Walk) (d f d' f' : Nat) : (w.risen d f).risen d' f' = w.risen (d + d') (f + f') := by
  unfold Walk.risen
  cases hc : w.content <;> simp only [Walk.mk.injEq, Bool.or_assoc, true_and, and_true] <;> congr 1 <;>
    rw [← Bool.decide_or] <;> exact decide_eq_decide.2 (by omega)

/-- The changed mark as two rises in a row leave it. -/
theorem map_risen_risen (w : Option Walk) (d f d' f' : Nat) :
    (w.map (Walk.risen d f)).map (Walk.risen d' f') = w.map (Walk.risen (d + d') (f + f')) := by
  rw [Option.map_map]
  exact congrArg (w.map ·) (funext fun x => x.risen_risen d f d' f')

theorem map_risen_zero (w : Option Walk) : w.map (Walk.risen 0 0) = w := by
  cases w with
  | none => rfl
  | some w => exact congrArg some w.risen_zero

theorem State.digest_markChanged (s : State) (c : Content) :
    (s.markChanged c).digest =
      s.digest.map fun w => { w with changed := w.changed || decide (w.content = c) } := by
  unfold State.markChanged
  cases h : s.digest with
  | none => exact h
  | some w => by_cases e : w.content = c <;> simp [e, h]

theorem State.digest_bumpFull (s : State) : s.bumpFull.digest = s.digest.map (Walk.risen 0 1) := by
  unfold State.bumpFull
  rw [State.digest_markChanged]
  congr 1; funext w; cases hc : w.content <;> simp [Walk.risen, hc]

theorem State.schedule_bumpFull (s : State) :
    s.bumpFull.schedule = { s.schedule with fullGen := s.schedule.fullGen + 1 } :=
  (State.markChanged_only _ _).schedule

theorem State.digest_bumpBoth (s : State) : s.bumpBoth.digest = s.digest.map (Walk.risen 1 1) := by
  unfold State.bumpBoth
  rw [State.digest_markChanged, State.digest_bumpFull, Option.map_map]
  congr 1; funext w; cases hc : w.content <;> simp [Walk.risen, hc]

theorem State.schedule_bumpBoth (s : State) :
    s.bumpBoth.schedule =
      { s.schedule with defGen := s.schedule.defGen + 1, fullGen := s.schedule.fullGen + 1 } := by
  unfold State.bumpBoth
  rw [(State.markChanged_only _ _).schedule, State.schedule_bumpFull]

@[simp] theorem State.entry_bumpFull (s : State) (i : EntryIx) : s.bumpFull.entry i = s.entry i := by
  unfold State.entry; rw [State.schedule_bumpFull]

@[simp] theorem State.entry_bumpBoth (s : State) (i : EntryIx) : s.bumpBoth.entry i = s.entry i := by
  unfold State.entry; rw [State.schedule_bumpBoth]

theorem State.entry_setBody (s : State) (i j : EntryIx) (b : Option Body) :
    (s.setBody i b).entry j = if j = i then { inst := (s.entry i).inst, body := b } else s.entry j :=
  s.entry_setEntry i j _

theorem State.entry_vacate (s : State) (i j : EntryIx) :
    (s.vacate i).entry j = if j = i then { inst := (s.entry i).inst, body := none } else s.entry j :=
  (State.entry_bumpBoth _ j).trans (s.entry_setBody i j none)

/-! ## One firing -/

/-- The fifth part of a firing puts the entry in its next state, or frees it (R103). -/
theorem State.settleFired_eq (s : State) (i : EntryIx) (b : Body) (late : Bool) (due missed : Nat) (st : Timestamp) :
    s.settleFired i (b.fired late missed st) late due =
      (b.afterFiring (b.nextRun late due s.now) late missed st).elim (s.vacate i) fun x => s.setBody i (some x) := by
  have next : Sys2Proof.Machine.nextRun b.defn (b.fired late missed st).remaining late due s.now =
      b.nextRun late due s.now := by
    unfold Sys2Proof.Machine.nextRun Body.nextRun Body.fired firstGridAfter
    cases b.defn <;> cases late <;> simp
  unfold State.settleFired Body.afterFiring
  rw [show (b.fired late missed st).defn = b.defn from rfl, next]
  cases b.nextRun late due s.now with
  | some r => rfl
  | none => cases hk : b.keep <;> simp [Body.fired, hk]

/-- A firing of an ARMED entry, part after part (R99). -/
theorem State.fireWithin_armed {s : State} {i : EntryIx} {b : Body} {due : Nat} (hb : (s.entry i).body = some b)
    (hr : b.run = .armed due) (late : Bool) (missed : Nat) :
    s.fireWithin i late missed =
      (((s.fireLine i (s.entry i).inst b).deliverShared (.entry i (s.entry i).inst)
        (b.record.map fun l => (b.owner, l))
        (firingRecord i (s.entry i).inst b due late missed s.stamp)).bumpFull).settleFired i
          (b.fired late missed s.stamp) late due := by
  simp only [State.fireWithin, hb, hr]

/-- An entry that is not ARMED does not fire. -/
theorem State.fireWithin_not_armed {s : State} {i : EntryIx} (h : (s.entry i).armedDue = none) (late : Bool)
    (missed : Nat) : s.fireWithin i late missed = s := by
  unfold Entry.armedDue at h
  unfold State.fireWithin
  cases hb : (s.entry i).body with
  | none => rfl
  | some b => rw [hb] at h; cases hr : b.run <;> simp_all

theorem Entry.armedDue_eq_some {e : Entry} {d : Nat} :
    e.armedDue = some d ↔ ∃ b, e.body = some b ∧ b.run = .armed d := by
  unfold Entry.armedDue
  cases e.body with
  | none => simp
  | some b => cases hr : b.run <;> simp [hr]

theorem Entry.armedDue_of {e : Entry} {b : Body} {d : Nat} (hb : e.body = some b) (hr : b.run = .armed d) :
    e.armedDue = some d := Entry.armedDue_eq_some.2 ⟨b, hb, hr⟩

theorem State.line_fireLine (s : State) (i : EntryIx) (inst : BitVec 8) (b : Body) (l : LineNo) :
    (s.fireLine i inst b).line l = match b.line with
      | some y => if y.1 = l then { s.line l with
          drive := (s.line l).actedOn y.2,
          last := some { source := .firing i inst, action := y.2, stamp := s.stamp } } else s.line l
      | none => s.line l := by
  unfold State.fireLine
  cases b.line with
  | none => rfl
  | some y =>
    refine (s.line_setLine y.1 l _).trans ?_
    by_cases e : y.1 = l
    · subst e; simp
    · rw [if_neg fun h => e h.symm]; simp [e]

/-- What a firing leaves of the entry, the generations and the walk, whether the entry stays or is freed (R102, R103). -/
theorem State.settleFired_spec (s : State) (i : EntryIx) (b : Body) (late : Bool) (due missed : Nat) (st : Timestamp) :
    let after := b.afterFiring (b.nextRun late due s.now) late missed st
    let t := s.settleFired i (b.fired late missed st) late due
    EntryBecomes i { inst := (s.entry i).inst, body := after } s t ∧ t.schedule.quotas = s.schedule.quotas ∧
      if after.isSome = true then GenerationsRise 0 0 s t ∧ t.digest = s.digest
      else GenerationsRise 1 1 s t ∧ t.digest = s.digest.map (Walk.risen 1 1) := by
  dsimp only
  rw [State.settleFired_eq]
  cases b.afterFiring (b.nextRun late due s.now) late missed st with
  | some x =>
    refine ⟨⟨?_, fun j hj => ?_⟩, rfl, ?_⟩
    · simp [State.entry_setBody]
    · simp [State.entry_setBody, hj]
    · simp only [Option.isSome_some, if_true, Option.elim_some]
      exact ⟨⟨(BitVec.add_zero _).symm, (BitVec.add_zero _).symm⟩, rfl⟩
  | none =>
    refine ⟨⟨?_, fun j hj => ?_⟩, ?_, ?_⟩
    · simp [State.entry_vacate]
    · simp [State.entry_vacate, hj]
    · simp [State.vacate, State.schedule_bumpBoth, State.setBody, State.setEntry]
    · simp only [Option.isSome_none, Bool.false_eq_true, if_false, Option.elim_none]
      refine ⟨⟨?_, ?_⟩, State.digest_bumpBoth _⟩ <;>
        simp [State.vacate, State.schedule_bumpBoth, State.setBody, State.setEntry]

theorem GenerationsRise.trans {d f d' f' : Nat} {s t u : State} (h : GenerationsRise d f s t)
    (k : GenerationsRise d' f' t u) : GenerationsRise (d + d') (f + f') s u := by
  obtain ⟨hd, hf⟩ := h
  obtain ⟨kd, kf⟩ := k
  unfold GenerationsRise
  rw [kd, kf, hd, hf, BitVec.ofNat_add, BitVec.ofNat_add, BitVec.add_assoc, BitVec.add_assoc]
  exact ⟨rfl, rfl⟩

/-- A firing that is part of a larger event does what R99 to R103 say, and ends no subscription. -/
theorem State.fireWithin_fires {s : State} {i : EntryIx} {b : Body} {due : Nat} (hb : (s.entry i).body = some b)
    (hr : b.run = .armed due) (late : Bool) (missed : Nat) :
    Fires false i b due late missed s.line s.digest s.port s (s.fireWithin i late missed) := by
  have only := s.fireWithin_only i late missed
  have stamp := only.stamp
  have now := only.now
  unfold Fires
  dsimp only
  rw [stamp, now]
  clear only stamp now
  rw [State.fireWithin_armed hb hr]
  set inst := (s.entry i).inst with hinst
  set driven := s.fireLine i inst b with hdriven
  have od : OnlyChanges [.lines] s driven := State.fireLine_only ..
  set recorded := driven.deliverShared (.entry i inst) (b.record.map fun l => (b.owner, l))
    (firingRecord i inst b due late missed s.stamp) with hrecorded
  have orec : OnlyChanges [.ports] driven recorded := State.deliverShared_only ..
  have osr : OnlyChanges [.lines, .ports] s recorded := (od.mono (by decide)).trans (orec.mono (by decide))
  have ob := State.bumpFull_only recorded
  have osb : OnlyChanges [.schedule, .lines, .digest, .ports] s recorded.bumpFull :=
    (osr.mono (by decide)).trans (ob.mono (by decide))
  have of := State.settleFired_only recorded.bumpFull i (b.fired late missed s.stamp) late due
  have settled := recorded.bumpFull.settleFired_spec i b late due missed s.stamp
  dsimp only at settled
  rw [osb.now] at settled
  set t := recorded.bumpFull.settleFired i (b.fired late missed s.stamp) late due
  obtain ⟨⟨here, others⟩, quotas, rise⟩ := settled
  have entries : ∀ j, recorded.bumpFull.entry j = s.entry j := fun j =>
    (State.entry_bumpFull _ j).trans (osr.entry j)
  have risen : GenerationsRise 0 1 s recorded.bumpFull := by
    unfold GenerationsRise
    rw [State.schedule_bumpFull, osr.schedule]
    exact ⟨(BitVec.add_zero _).symm, rfl⟩
  have walk : recorded.bumpFull.digest = s.digest.map (Walk.risen 0 1) := by
    rw [State.digest_bumpFull, osr.digest]
  refine ⟨⟨by rw [here, entries], fun j hj => (others j hj).trans (entries j)⟩, ?_, ?_, ?_, ?_, ?_⟩
  · rw [quotas, State.schedule_bumpFull, osr.schedule]
  · split at rise <;> rename_i freed
    · rw [if_pos freed]; exact ⟨risen.trans rise.1, rise.2.trans walk⟩
    · rw [if_neg freed]
      exact ⟨risen.trans rise.1, by rw [rise.2, walk, map_risen_risen]⟩
  · intro j
    rw [((osb.mono (qs := [.schedule, .lines, .digest, .ports]) (by decide)).trans (of.mono (by decide))).sub j]
    cases s.sub j <;> rfl
  · intro l
    exact (((of.line l).trans (ob.line l)).trans (orec.line l)).trans (s.line_fireLine i inst b l)
  · intro q
    have none : s.endedRecords (fun u => false && Option.isNone
        (b.afterFiring (b.nextRun late due s.now) late missed s.stamp) && decide (u.source = .entry i inst))
        s.stamp q = [] := by
      unfold State.endedRecords
      rw [List.filterMap_eq_nil_iff]
      intro j _
      cases s.sub j <;> simp
    rw [none, List.append_nil, of.port q, ob.port q, hrecorded, State.port_deliverShared, od.port q, od.attached q,
      ← State.recordCopies_eq]
    congr 1
    unfold State.recordCopies
    simp only [od.sub]
    rfl

end Sys2Proof.Machine
end

section
namespace Sys2Proof.Machine

/-! ## Whole firings -/

theorem State.endedRecords_none (s : State) {test : Subscription → Bool} (h : ∀ u, test u = false) (st : Timestamp)
    (q : Port) : s.endedRecords test st q = [] := by
  unfold State.endedRecords
  rw [List.filterMap_eq_nil_iff]
  intro j _
  cases s.sub j <;> simp [h]

/-- The records of the subscriptions that end depend on the subscriptions alone. -/
theorem State.endedRecords_congr {s t : State} {f g : Subscription → Bool} (subs : ∀ j, t.sub j = s.sub j)
    (tests : ∀ u, f u = g u) (st : Timestamp) (q : Port) : t.endedRecords f st q = s.endedRecords g st q := by
  rw [funext tests]
  unfold State.endedRecords
  simp only [subs]

/-- Where one entry alone has changed, the sources that have gone are that entry, if it is freed. -/
theorem State.sourceGone_of_entryBecomes {s t : State} {i : EntryIx} {after : Option Body}
    (h : EntryBecomes i { inst := (s.entry i).inst, body := after } s t) (used : (s.entry i).body.isSome = true)
    (channels : ∀ c, t.channel c = s.channel c) (src : SubSource) :
    t.sourceGone s src = (after.isNone && decide (src = .entry i (s.entry i).inst)) := by
  obtain ⟨here, others⟩ := h
  cases src with
  | channel c => simp [State.sourceGone, channels]
  | entry j inst =>
    by_cases e : j = i
    · subst e
      simp only [State.sourceGone, here, used, Bool.and_true, SubSource.entry.injEq, true_and]
      rw [Bool.and_comm, decide_eq_decide.2 eq_comm]
    · have : ((s.entry j).body.isSome && (s.entry j).body.isNone) = false := by cases (s.entry j).body <;> rfl
      simp [State.sourceGone, others j e, e, Bool.and_assoc, this]

/-- A firing carried out whole does what R99 to R103 say, the end of the entry's subscriptions included (R83, R98). -/
theorem State.fire_fires {s : State} {i : EntryIx} {b : Body} {due : Nat} (hb : (s.entry i).body = some b)
    (hr : b.run = .armed due) (late : Bool) (missed : Nat) :
    Fires true i b due late missed s.line s.digest s.port s (s.fire i late missed) := by
  have within := State.fireWithin_fires hb hr late missed
  have ow := s.fireWithin_only i late missed
  have og := State.endGone_only (s.fireWithin i late missed) s
  have of := s.fire_only i late missed
  obtain ⟨ended, records⟩ := State.endGone_spec (s.fireWithin i late missed) s
  unfold Fires at within ⊢
  dsimp only at within ⊢
  rw [ow.stamp, ow.now] at within
  rw [of.stamp, of.now]
  obtain ⟨entry, quotas, rise, -, lines, ports⟩ := within
  have gone := State.sourceGone_of_entryBecomes entry (by rw [hb]; rfl) fun c => ow.channel c
  unfold State.fire
  refine ⟨⟨(og.entry i).trans entry.1, fun j hj => (og.entry j).trans (entry.2 j hj)⟩, ?_, ?_, ?_, ?_, ?_⟩
  · rw [og.schedule, quotas]
  · unfold GenerationsRise at rise ⊢
    rw [og.schedule, og.digest]; exact rise
  · intro j
    rw [ended j, ow.sub j]
    simp only [gone, Bool.true_and]
  · intro l
    exact (og.line l).trans (lines l)
  · intro q
    rw [records q, ports q, ow.stamp, State.attached_eq, ports q, PortUnit.storesIf_state, ← State.attached_eq,
      ← PortUnit.storesIf_append]
    rw [State.endedRecords_none s (test := fun u => false && _ && _) fun u => rfl, List.append_nil,
      State.endedRecords_congr (fun j => ow.sub j) fun u => gone u.source]
    simp only [Bool.true_and]

/-! ## Firings one after the other -/

/-- A fold whose step acts where a test of the state holds, and whose action leaves the test at the other indices as it
was, acts in order on those for which the test holds at the start. -/
theorem inOrder_foldl {α : Type} {happens : α → State → State → Prop} {f : State → α → State}
    {active : State → α → Bool} (idle : ∀ t i, active t i = false → f t i = t)
    (acts : ∀ t i, active t i = true → happens i t (f t i))
    (others : ∀ t i j, j ≠ i → active (f t i) j = active t j) (l : List α) (nodup : l.Nodup) (s : State) :
    InOrder happens (l.filter (active s)) s (l.foldl f s) := by
  induction l generalizing s with
  | nil => rfl
  | cons i is ih =>
    rw [List.nodup_cons] at nodup
    have rest := ih nodup.2 (f s i)
    rw [List.filter_congr fun j hj => others s i j fun e => nodup.1 (e ▸ hj)] at rest
    rw [List.foldl_cons, List.filter_cons]
    cases h : active s i with
    | true => exact ⟨f s i, acts s i h, rest⟩
    | false => rw [idle s i h] at rest ⊢; exact rest

theorem finRange_entries : List.finRange 64 = allEntries := by unfold allEntries; rfl

/-- A firing leaves the other entries as they were. -/
theorem State.fire_others (s : State) (i j : EntryIx) (hj : j ≠ i) (late : Bool) (missed : Nat) :
    (s.fire i late missed).entry j = s.entry j := by
  refine ((State.endGone_only _ s).entry j).trans ?_
  cases h : (s.entry i).armedDue with
  | none => rw [State.fireWithin_not_armed h]
  | some d =>
    obtain ⟨b, hb, hr⟩ := Entry.armedDue_eq_some.1 h
    exact (State.fireWithin_fires hb hr late missed).1.2 j hj

/-- The entries whose due times satisfy a test fire on time, in ascending order of index (R98). -/
theorem State.fireWhere_inOrder (s : State) (test : Nat → Bool) :
    FiresInOrder false (allEntries.filter fun i => (s.entry i).armedDue.any test) s (s.fireWhere test) := by
  refine inOrder_foldl (active := fun t i => (t.entry i).armedDue.any test) (fun t i h => ?_) (fun t i h => ?_)
    (fun t i j hj => ?_) allEntries nodup_allEntries s
  · rw [h]; rfl
  · rw [if_pos h]
    obtain ⟨d, hd, -⟩ := (Option.any_eq_true ..).1 h
    obtain ⟨b, hb, hr⟩ := Entry.armedDue_eq_some.1 hd
    exact ⟨b, d, hb, hr, t.fire_only i false 0, State.fire_fires hb hr false 0⟩
  · split
    · rw [t.fire_others i j hj]
    · rfl

/-- Entries that are not among those that fire stay as they were. -/
theorem FiresInOrder.entry_of_not_mem {late : Bool} {l : List EntryIx} {s t : State} (h : FiresInOrder late l s t)
    {j : EntryIx} (hj : j ∉ l) : t.entry j = s.entry j := by
  induction l generalizing s with
  | nil => rw [show t = s from h]
  | cons i is ih =>
    obtain ⟨u, ⟨b, due, -, -, -, fires⟩, rest⟩ := h
    rw [List.mem_cons, not_or] at hj
    rw [ih rest hj.2, fires.1.2 j hj.1]

/-- Each of the entries that fire becomes what its firing leaves of it (R102, R103). -/
theorem FiresInOrder.entry_of_mem {late : Bool} {l : List EntryIx} (nodup : l.Nodup) {s t : State}
    (h : FiresInOrder late l s t) {j : EntryIx} (hj : j ∈ l) :
    ∃ b due missed, (s.entry j).body = some b ∧ b.run = .armed due ∧
      t.entry j = { inst := (s.entry j).inst,
                    body := b.afterFiring (b.nextRun late due s.now) late missed s.stamp } := by
  induction l generalizing s with
  | nil => cases hj
  | cons i is ih =>
    rw [List.nodup_cons] at nodup
    obtain ⟨u, ⟨b, due, hb, hr, only, fires⟩, rest⟩ := h
    rcases List.mem_cons.1 hj with rfl | hj
    · refine ⟨b, due, if late = true then b.missedAt due s.now else 0, hb, hr, ?_⟩
      rw [FiresInOrder.entry_of_not_mem rest nodup.1, fires.1.1, only.stamp, only.now]
    · obtain ⟨b', due', missed, hb', hr', entry⟩ := ih nodup.2 rest hj
      rw [fires.1.2 j fun e => nodup.1 (e ▸ hj)] at hb' entry
      exact ⟨b', due', missed, hb', hr', by rw [entry, only.stamp, only.now]⟩

/-! ## The next due time of an entry that fires -/

theorem Pattern.le_firstTime {p : Pattern} {lo x : Nat} (h : p.firstTime lo = some x) : lo ≤ x := by
  unfold Pattern.firstTime at h
  obtain ⟨hour, -, h⟩ := List.exists_of_findSome?_eq_some h
  split at h
  · obtain ⟨minute, -, h⟩ := List.exists_of_findSome?_eq_some h
    split at h
    · obtain ⟨second, -, h⟩ := List.exists_of_findSome?_eq_some h
      split at h
      next c =>
        simp only [Bool.and_eq_true, decide_eq_true_eq] at c
        cases h
        exact c.2
      · cases h
    · cases h
  · cases h

theorem Pattern.le_firstSecond {p : Pattern} {days day lo x : Nat} (h : p.firstSecond days day lo = some x) :
    day * 86400 + lo ≤ x ∨ (day + 1) * 86400 ≤ x := by
  induction days generalizing day lo with
  | zero => cases h
  | succ n ih =>
    unfold Pattern.firstSecond at h
    split at h
    next sod e =>
      split at e
      · cases h; have := Pattern.le_firstTime e; omega
      · cases e
    next =>
      obtain k | k := ih h
      · exact .inr (Nat.le_trans (Nat.le_add_right ..) k)
      · exact .inr (Nat.le_trans (Nat.mul_le_mul_right _ (Nat.le_succ _)) k)

/-- The next match lies after the instant it is asked for (R93). -/
theorem lt_of_nextMatch {p : Pattern} {offset t m : Nat} (h : nextMatch p offset t = some m) : t < m := by
  unfold nextMatch at h
  dsimp only at h
  rw [Option.map_eq_some_iff] at h
  obtain ⟨x, found, rfl⟩ := h
  have le := Pattern.le_firstSecond found
  unfold dayNumber secondOfDay at le
  unfold secondsOf microsOf at le
  split at le <;> rename_i c <;> omega

theorem lt_firstGridAfter {anchor period now : Nat} (h : 0 < period) : now < firstGridAfter anchor period now := by
  unfold firstGridAfter
  split
  · assumption
  next c =>
    have := Nat.lt_mul_div_succ (now - anchor) h
    rw [Nat.mul_comm] at this
    omega

/-- A point of an EVERY grid. -/
theorem firstGridAfter_onGrid (anchor period now : Nat) : ∃ k, firstGridAfter anchor period now = anchor + k * period := by
  unfold firstGridAfter
  split
  · exact ⟨0, by omega⟩
  · exact ⟨_, rfl⟩

/-- What an entry can be ARMED for by a firing: the next point of its grid, or its next match (R91, R103, R105). -/
theorem Body.nextRun_armed {b : Body} {late : Bool} {due now d : Nat} (h : b.nextRun late due now = some (.armed d)) :
    (∃ a p, b.defn = .every a p ∧ d = if late = false then due + p else firstGridAfter a p now) ∨
      ∃ pat off, b.defn = .calendar pat off ∧ nextMatch pat off now = some d := by
  unfold Body.nextRun at h
  split at h
  · cases h
  · split at h
    next => cases h
    next a p e =>
      cases h
      exact .inl ⟨a, p, e, by cases late <;> rfl⟩
    next pat off e =>
      rw [Option.map_eq_some_iff] at h
      obtain ⟨m, hm, e'⟩ := h
      cases e'
      exact .inr ⟨pat, off, e, hm⟩
    next => cases h

/-- A firing arms no entry for an instant that has come: what is due at now or at the value before it fires once. -/
theorem Body.lt_of_nextRun {b : Body} (period : ∀ a p, b.defn = .every a p → 100 ≤ p) {late : Bool} {due now d : Nat}
    (near : late = false → now ≤ due + 1) (h : b.nextRun late due now = some (.armed d)) : now < d := by
  obtain ⟨a, p, e, rfl⟩ | ⟨pat, off, -, hm⟩ := Body.nextRun_armed h
  · have := period a p e
    split
    next c => have := near c; omega
    · exact lt_firstGridAfter (by omega)
  · exact lt_of_nextMatch hm

/-- The state an entry is in after a firing, if it has one. -/
theorem Body.afterFiring_run {b x : Body} {run : Option RunState} {late : Bool} {missed : Nat} {st : Timestamp}
    (h : b.afterFiring run late missed st = some x) : run = some x.run ∨ x.run = .spent := by
  unfold Body.afterFiring at h
  dsimp only at h
  split at h
  · cases h; exact .inl rfl
  · split at h
    · cases h; exact .inr rfl
    · cases h

/-- The due time of an entry that has fired is one that its firing gave it. -/
theorem armedDue_of_afterFiring {b : Body} {late : Bool} {missed due now d : Nat} {st : Timestamp} {inst : BitVec 8}
    (h : Entry.armedDue { inst := inst, body := b.afterFiring (b.nextRun late due now) late missed st } = some d) :
    b.nextRun late due now = some (.armed d) := by
  obtain ⟨x, hx, hr⟩ := Entry.armedDue_eq_some.1 h
  obtain e | e := Body.afterFiring_run hx
  · rw [e, hr]
  · rw [hr] at e; cases e

/-! ## The firings of an advance, and of a step -/

/-- No firing of an entry that is due now or has been passed over would arm it for now or before. -/
def State.FiresOnce (s : State) : Prop :=
  ∀ i b due d, (s.entry i).body = some b → b.run = .armed due → b.nextRun false due s.now = some (.armed d) → s.now < d

/-- An advance fires the entries of the value it has passed over, and then those due at now (R98). -/
theorem State.fireReached_inOrder {s : State} (once : s.FiresOnce) :
    FiresInOrder false (s.passed ++ s.dueAt s.now) s s.fireReached := by
  have first := s.fireWhere_inOrder fun d => decide (d < s.now)
  have second := (s.fireWhere fun d => decide (d < s.now)).fireWhere_inOrder fun d => decide (d ≤ s.now)
  have passed : s.passed = allEntries.filter fun i => (s.entry i).armedDue.any fun d => decide (d < s.now) := by
    unfold State.passed; rw [finRange_entries]
  refine FiresInOrder.append (by rw [passed]; exact first) ?_
  have due : s.dueAt s.now = allEntries.filter fun i =>
      ((s.fireWhere fun d => decide (d < s.now)).entry i).armedDue.any fun d => decide (d ≤ s.now) := by
    unfold State.dueAt
    rw [finRange_entries]
    refine List.filter_congr fun i _ => ?_
    by_cases h : (s.entry i).armedDue.any (fun d => decide (d < s.now)) = true
    · have mem : i ∈ allEntries.filter fun i => (s.entry i).armedDue.any fun d => decide (d < s.now) :=
        List.mem_filter.2 ⟨mem_allEntries i, h⟩
      obtain ⟨b, d, missed, hb, hr, entry⟩ := first.entry_of_mem (nodup_allEntries.filter _) mem
      rw [entry]
      rw [Entry.armedDue_of hb hr] at h ⊢
      simp only [Option.any_some, decide_eq_true_eq] at h
      rw [show decide (some d = some s.now) = false by simp; omega, Eq.comm, Option.any_eq_false]
      intro d' hd'
      have := once i b d d' hb hr (armedDue_of_afterFiring hd')
      simp; omega
    · rw [first.entry_of_not_mem fun mem => h (List.mem_filter.1 mem).2]
      cases e : (s.entry i).armedDue with
      | none => rfl
      | some d =>
        rw [e] at h
        simp only [Option.any_some, decide_eq_true_eq, Option.some.injEq] at h ⊢
        exact decide_eq_decide.2 (by omega)
  rw [due]
  have only : OnlyChanges [.schedule, .lines, .subs, .digest, .ports] s _ := s.fireWhere_only fun d => decide (d < s.now)
  exact second

/-- The subscriptions to the entries that an event has freed end together (R159), where no channel is given up in it. -/
theorem State.endGone_freedEnd {s v : State} (channels : ∀ c, v.channel c = s.channel c) : FreedEnd s v (v.endGone s) := by
  have gone : ∀ u : Subscription, v.sourceGone s u.source = s.freedUntil v u := fun u => by
    unfold State.sourceGone State.freedUntil
    cases u.source with
    | channel c => simp [channels]
    | entry i inst => rfl
  obtain ⟨ended, records⟩ := State.endGone_spec v s
  simp only [gone] at ended records
  exact ⟨State.endGone_only v s, ended, records⟩

/-- What overdue resolution does to an entry: nothing, or its late firing (R105, R106). -/
theorem State.resolveWithin_idle {t : State} {i : EntryIx}
    (h : (t.entry i).armedDue.any (fun d => decide (d ≤ t.now)) = false) : t.resolveWithin i = t := by
  unfold Entry.armedDue at h
  unfold State.resolveWithin
  cases hb : (t.entry i).body with
  | none => rfl
  | some b => rw [hb] at h; cases hr : b.run <;> simp_all

theorem State.resolveWithin_overdue {t : State} {i : EntryIx} {b : Body} {due : Nat} (hb : (t.entry i).body = some b)
    (hr : b.run = .armed due) (past : due ≤ t.now) :
    t.resolveWithin i = t.fireWithin i true (b.missedAt due t.now) := by
  unfold State.resolveWithin
  rw [hb]
  dsimp only
  rw [hr]
  dsimp only
  rw [if_pos past]
  unfold missedCount Body.missedAt missedLimit
  cases b.defn <;> rfl

/-- Overdue resolution leaves the other entries as they were. -/
theorem State.resolveWithin_others (s : State) (i j : EntryIx) (hj : j ≠ i) :
    (s.resolveWithin i).entry j = s.entry j := by
  cases h : (s.entry i).armedDue.any fun d => decide (d ≤ s.now) with
  | false => rw [State.resolveWithin_idle h]
  | true =>
    obtain ⟨d, hd, past⟩ := (Option.any_eq_true ..).1 h
    obtain ⟨b, hb, hr⟩ := Entry.armedDue_eq_some.1 hd
    rw [State.resolveWithin_overdue hb hr (of_decide_eq_true past)]
    exact (State.fireWithin_fires hb hr _ _).1.2 j hj

/-- The resolutions of a forward step: the overdue entries, in ascending order of index (R107). -/
theorem State.resolutions_inOrder (s : State) :
    FiresInOrder true s.overdue s (allEntries.foldl State.resolveWithin s) := by
  have h := inOrder_foldl (happens := fun i s t => ∃ b due, (s.entry i).body = some b ∧ b.run = .armed due ∧
      OnlyChanges [.schedule, .lines, .subs, .digest, .ports] s t ∧
      Fires (!true) i b due true (if true = true then b.missedAt due s.now else 0) s.line s.digest s.port s t)
    (f := State.resolveWithin)
    (active := fun t i => (t.entry i).armedDue.any fun d => decide (d ≤ t.now)) (fun t i h => State.resolveWithin_idle h)
    (fun t i h => ?_) (fun t i j hj => ?_) allEntries nodup_allEntries s
  · unfold State.overdue
    rw [finRange_entries]
    exact h
  · obtain ⟨d, hd, past⟩ := (Option.any_eq_true ..).1 h
    obtain ⟨b, hb, hr⟩ := Entry.armedDue_eq_some.1 hd
    refine ⟨b, d, hb, hr, (t.resolveWithin_only i).mono (by decide), ?_⟩
    rw [State.resolveWithin_overdue hb hr (of_decide_eq_true past)]
    exact State.fireWithin_fires hb hr _ _
  · rw [t.resolveWithin_others i j hj, (t.resolveWithin_only i).now]

end Sys2Proof.Machine
end

section
/-! What each command leaves unchanged: the parts of the state that it can change at most, once for every command. -/

namespace Sys2Proof.Machine

/-! ## The checks that a request begins with -/

section Checks

variable {ps : List Part} {s : State}

@[simp] theorem State.refuse_fst (s : State) (x : Status) : (s.refuse x).1 = s := rfl

@[simp] theorem State.answer_fst (s : State) (x : Status) (f : List Byte) : (s.answer x f).1 = s := rfl

theorem OnlyChanges.ite_fst {t u : State × Option Response} {c : Prop} [Decidable c] (h : OnlyChanges ps s t.1)
    (k : OnlyChanges ps s u.1) : OnlyChanges ps s (if c then t else u).1 := by
  split <;> assumption

theorem State.withLine_only {line : Byte} {go : LineNo → State × Option Response}
    (h : ∀ l, OnlyChanges ps s (go l).1) : OnlyChanges ps s (s.withLine line go).1 := by
  unfold State.withLine; split
  · exact OnlyChanges.refl ..
  · exact h _

theorem State.withOwnLine_only {p : Port} {line : Byte} {go : LineNo → State × Option Response}
    (h : ∀ l, OnlyChanges ps s (go l).1) : OnlyChanges ps s (s.withOwnLine p line go).1 :=
  State.withLine_only fun l => OnlyChanges.ite_fst (h l) (OnlyChanges.refl ..)

theorem State.withChannel_only {channel : Byte} {go : ChanNo → State × Option Response}
    (h : ∀ c, OnlyChanges ps s (go c).1) : OnlyChanges ps s (s.withChannel channel go).1 := by
  unfold State.withChannel; split
  · exact OnlyChanges.refl ..
  · exact h _

theorem State.withOwnChannel_only {p : Port} {channel : Byte} {go : ChanNo → State × Option Response}
    (h : ∀ c, OnlyChanges ps s (go c).1) : OnlyChanges ps s (s.withOwnChannel p channel go).1 :=
  State.withChannel_only fun c => OnlyChanges.ite_fst (h c) (OnlyChanges.refl ..)

theorem State.withHandle_only {index inst : Byte} {go : EntryIx → Body → State × Option Response}
    (h : ∀ i b, OnlyChanges ps s (go i b).1) : OnlyChanges ps s (s.withHandle index inst go).1 := by
  unfold State.withHandle; split
  · exact OnlyChanges.refl ..
  · split
    · exact OnlyChanges.refl ..
    · exact OnlyChanges.ite_fst (h ..) (OnlyChanges.refl ..)

theorem State.withOwned_only {p : Port} {index inst : Byte} {go : EntryIx → Body → State × Option Response}
    (h : ∀ i b, OnlyChanges ps s (go i b).1) : OnlyChanges ps s (s.withOwned p index inst go).1 :=
  State.withHandle_only fun i b => OnlyChanges.ite_fst (h i b) (OnlyChanges.refl ..)

end Checks

/-! ## The requests of the authority and adjustment unit, of the clock supervisor and of the timebase -/

theorem State.claim_only (s : State) (p : Port) (key : Option (BitVec 64)) :
    OnlyChanges [.slew, .authority, .ports] s (s.claim p key).1 := by
  unfold State.claim; split
  · exact State.changeHolder_only ..
  · refine OnlyChanges.ite_fst (OnlyChanges.refl ..) ?_
    split
    · exact OnlyChanges.refl ..
    · exact OnlyChanges.ite_fst (State.changeHolder_only ..) (OnlyChanges.refl ..)

theorem blockClaimAuthority_only (p : Port) (key : OptField 64) (s : State) :
    OnlyChanges [.slew, .authority, .ports] s (blockClaimAuthority p key s).1 := by
  unfold blockClaimAuthority; split
  · exact OnlyChanges.refl ..
  · exact s.claim_only ..

theorem blockReleaseAuthority_only (p : Port) (s : State) :
    OnlyChanges [.slew, .authority, .ports] s (blockReleaseAuthority p s).1 :=
  OnlyChanges.ite_fst (OnlyChanges.refl ..) (s.changeHolder_only ..)

theorem State.setKey_only (s : State) (k : Option (BitVec 64)) : OnlyChanges [.backup] s (s.setKey k) := by
  exact ⟨fun q hq => by cases q <;> first | rfl | exact absurd (by decide) hq⟩

theorem blockSetKey_only (p : Port) (key : OptField 64) (s : State) :
    OnlyChanges [.backup] s (blockSetKey p key s).1 := by
  refine OnlyChanges.ite_fst (OnlyChanges.refl ..) ?_
  split
  · exact OnlyChanges.refl ..
  · exact s.setKey_only _

theorem State.enqueue_only (s : State) (k : AdjustKind) : OnlyChanges [.authority] s (s.enqueue k) := by
  exact ⟨fun q hq => by cases q <;> first | rfl | exact absurd (by decide) hq⟩

theorem State.takeNumber_only (s : State) : OnlyChanges [.authority] s s.takeNumber := by
  exact ⟨fun q hq => by cases q <;> first | rfl | exact absurd (by decide) hq⟩

theorem State.applyAnswer_only (s : State) (v : Option Nat) :
    OnlyChanges [.backup, .schedule, .lines, .subs, .digest, .ports] s (s.applyAnswer v).1 := by
  unfold State.applyAnswer; split
  · exact OnlyChanges.refl ..
  · exact s.applyTime_only _

theorem blockSetTime_only (p : Port) (sec : BitVec 32) (us : BitVec 24) (s : State) :
    OnlyChanges [.backup, .authority, .schedule, .lines, .subs, .digest, .ports] s (blockSetTime p sec us s).1 :=
  OnlyChanges.ite_fst (OnlyChanges.refl ..) <| OnlyChanges.ite_fst (OnlyChanges.refl ..) <|
    OnlyChanges.ite_fst (OnlyChanges.refl ..) <| OnlyChanges.ite_fst ((s.enqueue_only _).mono (by decide))
      ((s.applyAnswer_only _).mono (by decide))

theorem blockStep_only (p : Port) (amount : BitVec 32) (s : State) :
    OnlyChanges [.backup, .authority, .schedule, .lines, .subs, .digest, .ports] s (blockStep p amount s).1 :=
  OnlyChanges.ite_fst (OnlyChanges.refl ..) <| OnlyChanges.ite_fst (OnlyChanges.refl ..) <|
    OnlyChanges.ite_fst (OnlyChanges.refl ..) <| OnlyChanges.ite_fst (OnlyChanges.refl ..) <|
      OnlyChanges.ite_fst ((s.enqueue_only _).mono (by decide)) ((s.applyAnswer_only _).mono (by decide))

theorem blockSlew_only (p : Port) (amount : BitVec 32) (s : State) :
    OnlyChanges [.slew, .authority, .ports] s (blockSlew p amount s).1 :=
  OnlyChanges.ite_fst (OnlyChanges.refl ..) <| OnlyChanges.ite_fst (OnlyChanges.refl ..) <|
    OnlyChanges.ite_fst (OnlyChanges.refl ..) <| OnlyChanges.ite_fst (OnlyChanges.refl ..) <|
      OnlyChanges.ite_fst ((s.enqueue_only _).mono (by decide))
        ((s.takeNumber_only.mono (by decide)).trans (State.beginSlew_only ..))

theorem blockCancelAdjust_only (p : Port) (s : State) :
    OnlyChanges [.slew, .authority, .ports] s (blockCancelAdjust p s).1 :=
  OnlyChanges.ite_fst (OnlyChanges.refl ..) (s.discardQueue_only _)

theorem State.chooseSource_only (s : State) (sel : SourceSelection) :
    OnlyChanges [.backup, .monitor] s (s.chooseSource sel) := by
  exact ⟨fun q hq => by cases q <;> first | rfl | exact absurd (by decide) hq⟩

theorem blockSelectSource_only (p : Port) (sel : Byte) (s : State) :
    OnlyChanges [.backup, .monitor] s (blockSelectSource p sel s).1 := by
  refine OnlyChanges.ite_fst (OnlyChanges.refl ..) ?_
  split
  · exact OnlyChanges.refl ..
  · exact OnlyChanges.ite_fst (OnlyChanges.refl ..) (s.chooseSource_only _)

theorem blockResumeReference_only (p : Port) (s : State) :
    OnlyChanges [.backup, .ports] s (blockResumeReference p s).1 :=
  OnlyChanges.ite_fst (OnlyChanges.refl ..) <| OnlyChanges.ite_fst (OnlyChanges.refl ..) <|
    OnlyChanges.ite_fst (OnlyChanges.refl ..) s.beginTracking_only

theorem State.causeAttached_only (s : State) (c : ResetCause) : OnlyChanges [.ports] s (s.causeAttached c) :=
  OnlyChanges.foldl (fun _ _ => OnlyChanges.ite (State.setPort_only ..) (OnlyChanges.refl ..)) _ _

theorem State.clearBackup_only (s : State) : OnlyChanges [.backup, .monitor, .ports] s s.clearBackup := by
  refine OnlyChanges.trans (OnlyChanges.trans (t := { s with backup := Backup.reset, monitor := Monitor.off }) ?_
    ((State.raiseAll_only ..).mono (by decide))) ((State.causeAttached_only ..).mono (by decide))
  exact ⟨fun q hq => by cases q <;> first | rfl | exact absurd (by decide) hq⟩

theorem blockClearBackup_only (p : Port) (s : State) :
    OnlyChanges [.backup, .monitor, .ports] s (blockClearBackup p s).1 :=
  OnlyChanges.ite_fst (OnlyChanges.refl ..) <| OnlyChanges.ite_fst (OnlyChanges.refl ..) <|
    OnlyChanges.ite_fst (OnlyChanges.refl ..) s.clearBackup_only

/-! ## The requests of the schedule unit and of the digest engine -/

theorem State.allocate_only (s : State) (i : EntryIx) (b : Body) :
    OnlyChanges [.schedule, .digest] s (s.allocate i b) := by
  refine OnlyChanges.trans (t := s.setEntry i _) ?_ (State.bumpBoth_only _)
  exact ⟨fun q hq => by cases q <;> first | rfl | exact absurd (by decide) hq⟩

theorem State.armInto_only (s : State) (p : Port) (a : ArmRequest) (i : EntryIx) :
    OnlyChanges [.schedule, .lines, .subs, .digest, .ports] s (s.armInto p a i).1 := by
  unfold State.armInto; split
  · exact OnlyChanges.refl ..
  · exact OnlyChanges.refl ..
  · exact (s.allocate_only ..).mono (by decide)
  · exact (s.allocate_only ..).mono (by decide)
  · exact ((s.allocate_only ..).mono (by decide)).trans (State.fire_only ..)

theorem blockArmEntry_only (p : Port) (f : ArmFields) (s : State) :
    OnlyChanges [.schedule, .lines, .subs, .digest, .ports] s (blockArmEntry p f s).1 := by
  unfold blockArmEntry; split
  · exact OnlyChanges.refl ..
  · refine OnlyChanges.ite_fst (OnlyChanges.refl ..) <| OnlyChanges.ite_fst (OnlyChanges.refl ..) <|
      OnlyChanges.ite_fst (OnlyChanges.refl ..) ?_
    split
    · exact OnlyChanges.refl ..
    · exact s.armInto_only ..

theorem State.retimed_only (s : State) (i : EntryIx) (b : Body) (d : Definition) (r : RunState) :
    OnlyChanges [.schedule, .digest] s (s.retimed i b d r) :=
  ((State.setBody_only ..).mono (by decide)).trans (State.bumpBoth_only _)

theorem State.retimeArmed_only (s : State) (i : EntryIx) (b : Body) (due : Nat) (d : Definition) (late : Bool) :
    OnlyChanges [.schedule, .lines, .subs, .digest, .ports] s (s.retimeArmed i b due d late).1 := by
  unfold State.retimeArmed; split
  · exact OnlyChanges.refl ..
  · exact OnlyChanges.refl ..
  · exact (s.retimed_only ..).mono (by decide)
  · exact (s.retimed_only ..).mono (by decide)
  · exact ((s.retimed_only ..).mono (by decide)).trans (State.fire_only ..)

theorem State.retimeHeld_only (s : State) (i : EntryIx) (b : Body) (due : Nat) (d : Definition) (late : Bool) :
    OnlyChanges [.schedule, .digest] s (s.retimeHeld i b due d late).1 := by
  unfold State.retimeHeld; split
  · exact OnlyChanges.refl ..
  · exact OnlyChanges.refl ..
  all_goals exact s.retimed_only ..

theorem blockRetimeEntry_only (p : Port) (index inst : Byte) (block : DefBlock) (late : Byte) (s : State) :
    OnlyChanges [.schedule, .lines, .subs, .digest, .ports] s (blockRetimeEntry p index inst block late s).1 := by
  unfold blockRetimeEntry; split
  · exact OnlyChanges.refl ..
  all_goals
    refine State.withOwned_only fun i b => ?_
    split
    · refine OnlyChanges.ite_fst (OnlyChanges.refl ..) ?_
      split
      · exact s.retimeArmed_only ..
      · exact (s.retimeHeld_only ..).mono (by decide)
      · exact (s.retimed_only ..).mono (by decide)
      all_goals exact OnlyChanges.refl ..
    all_goals exact OnlyChanges.refl ..

theorem State.setRun_only (s : State) (i : EntryIx) (b : Body) (r : RunState) :
    OnlyChanges [.schedule, .digest] s (s.setRun i b r) :=
  ((State.setBody_only ..).mono (by decide)).trans (State.bumpFull_only _)

theorem blockHoldEntry_only (p : Port) (index inst : Byte) (s : State) :
    OnlyChanges [.schedule, .digest] s (blockHoldEntry p index inst s).1 := by
  refine State.withOwned_only fun i b => ?_
  split
  · exact s.setRun_only ..
  · exact s.setRun_only ..
  all_goals exact OnlyChanges.refl ..

theorem blockUnholdEntry_only (p : Port) (index inst : Byte) (s : State) :
    OnlyChanges [.schedule, .lines, .subs, .digest, .ports] s (blockUnholdEntry p index inst s).1 := by
  refine State.withOwned_only fun i b => ?_
  split
  · exact (s.setRun_only ..).mono (by decide)
  · exact ((s.setRun_only ..).mono (by decide)).trans (State.resolve_only ..)
  all_goals exact OnlyChanges.refl ..

theorem blockCancelEntry_only (p : Port) (index inst : Byte) (s : State) :
    OnlyChanges [.schedule, .subs, .digest, .ports] s (blockCancelEntry p index inst s).1 :=
  State.withOwned_only fun i _ => s.freeEntry_only i

theorem blockReadEntry_only (index inst : Byte) (s : State) : OnlyChanges [] s (blockReadEntry index inst s).1 :=
  State.withHandle_only fun _ _ => OnlyChanges.refl ..

theorem blockListEntries_only (p : Port) (scope start : Byte) (s : State) :
    OnlyChanges [] s (blockListEntries p scope start s).1 := by
  unfold blockListEntries; split <;> exact OnlyChanges.refl ..

theorem State.setQuota_only (s : State) (p : Port) (q : Nat) : OnlyChanges [.schedule] s (s.setQuota p q) := by
  exact ⟨fun q hq => by cases q <;> first | rfl | exact absurd (by decide) hq⟩

theorem blockSetQuota_only (p : Port) (target quota : Byte) (s : State) :
    OnlyChanges [.schedule] s (blockSetQuota p target quota s).1 := by
  refine OnlyChanges.ite_fst (OnlyChanges.refl ..) ?_
  split
  · exact OnlyChanges.refl ..
  · exact OnlyChanges.ite_fst (OnlyChanges.refl ..) (s.setQuota_only ..)

theorem State.beginWalk_only (s : State) (p : Port) (sc : Scope) (ct : Content) :
    OnlyChanges [.digest, .ports] s (s.beginWalk p sc ct).1 := by
  exact ⟨fun q hq => by cases q <;> first | rfl | exact absurd (by decide) hq⟩

theorem blockDigest_only (p : Port) (scope content : Byte) (s : State) :
    OnlyChanges [.digest, .ports] s (blockDigest p scope content s).1 := by
  unfold blockDigest; split
  · exact OnlyChanges.ite_fst (OnlyChanges.refl ..) (s.beginWalk_only ..)
  all_goals exact OnlyChanges.refl ..

/-! ## The requests of the trigger and the capture unit -/

theorem blockClaimLine_only (p : Port) (line : Byte) (s : State) : OnlyChanges [.lines] s (blockClaimLine p line s).1 := by
  refine State.withLine_only fun l => ?_
  split
  · exact s.setLine_only ..
  · exact OnlyChanges.ite_fst (OnlyChanges.refl ..) (OnlyChanges.refl ..)

theorem blockReleaseLine_only (p : Port) (line : Byte) (s : State) :
    OnlyChanges [.lines] s (blockReleaseLine p line s).1 :=
  State.withOwnLine_only fun _ => OnlyChanges.ite_fst (OnlyChanges.refl ..) <|
    OnlyChanges.ite_fst (OnlyChanges.refl ..) (s.setLine_only ..)

theorem blockPinLine_only (p : Port) (line : Byte) (s : State) : OnlyChanges [.lines] s (blockPinLine p line s).1 :=
  State.withOwnLine_only fun _ => s.setLine_only ..

theorem blockConfigureLine_only (p : Port) (line idle : Byte) (w h : BitVec 16) (s : State) :
    OnlyChanges [.lines] s (blockConfigureLine p line idle w h s).1 := by
  unfold blockConfigureLine; split
  · refine OnlyChanges.ite_fst (OnlyChanges.refl ..) (State.withOwnLine_only fun l => ?_)
    unfold State.configureLine; split
    · exact s.setLine_only ..
    all_goals exact OnlyChanges.refl ..
  all_goals exact OnlyChanges.refl ..

theorem blockDriveLine_only (p : Port) (line action : Byte) (s : State) :
    OnlyChanges [.lines] s (blockDriveLine p line action s).1 := by
  unfold blockDriveLine; split
  · exact State.withOwnLine_only fun l => s.applyAction_only ..
  all_goals exact OnlyChanges.refl ..

theorem blockReadLine_only (line : Byte) (s : State) : OnlyChanges [] s (blockReadLine line s).1 :=
  State.withLine_only fun _ => OnlyChanges.refl ..

theorem blockClaimChannel_only (p : Port) (channel : Byte) (s : State) :
    OnlyChanges [.channels] s (blockClaimChannel p channel s).1 := by
  refine State.withChannel_only fun c => ?_
  split
  · exact s.setChannel_only ..
  · exact OnlyChanges.ite_fst (OnlyChanges.refl ..) (OnlyChanges.refl ..)

theorem blockReleaseChannel_only (p : Port) (channel : Byte) (s : State) :
    OnlyChanges [.channels, .subs, .ports] s (blockReleaseChannel p channel s).1 :=
  State.withOwnChannel_only fun c => OnlyChanges.ite_fst (OnlyChanges.refl ..) (s.releaseChannel_only c)

theorem State.shareChannel_only (s : State) (p : Port) (c : ChanNo) (share : Bool) :
    OnlyChanges [.channels, .subs, .ports] s (s.shareChannel p c share) :=
  OnlyChanges.ite ((s.setChannel_only ..).mono (by decide)) <|
    OnlyChanges.ite (((s.setChannel_only ..).mono (by decide)).trans ((State.endSubs_only ..).mono (by decide)))
      (OnlyChanges.refl ..)

theorem blockShareChannel_only (p : Port) (channel flag : Byte) (s : State) :
    OnlyChanges [.channels, .subs, .ports] s (blockShareChannel p channel flag s).1 := by
  unfold blockShareChannel; split
  · exact State.withOwnChannel_only fun c => s.shareChannel_only ..
  all_goals exact OnlyChanges.refl ..

theorem blockConfigureChannel_only (p : Port) (c m e src l : Byte) (s : State) :
    OnlyChanges [.channels] s (blockConfigureChannel p c m e src l s).1 := by
  unfold blockConfigureChannel; split
  · exact OnlyChanges.refl ..
  · exact OnlyChanges.ite_fst (OnlyChanges.refl ..) <| OnlyChanges.ite_fst (OnlyChanges.refl ..) <|
      OnlyChanges.ite_fst (OnlyChanges.refl ..) (s.setChannel_only ..)

theorem blockStartChannel_only (p : Port) (channel : Byte) (s : State) :
    OnlyChanges [.channels] s (blockStartChannel p channel s).1 :=
  State.withOwnChannel_only fun _ => s.setChannel_only ..

theorem blockStopChannel_only (p : Port) (channel : Byte) (s : State) :
    OnlyChanges [.channels] s (blockStopChannel p channel s).1 :=
  State.withOwnChannel_only fun _ => s.setChannel_only ..

theorem blockSetReload_only (p : Port) (channel : Byte) (reload : BitVec 16) (s : State) :
    OnlyChanges [.channels] s (blockSetReload p channel reload s).1 :=
  OnlyChanges.ite_fst (OnlyChanges.refl ..) <| State.withOwnChannel_only fun _ => s.setChannel_only ..

theorem blockReadChannel_only (channel : Byte) (s : State) : OnlyChanges [] s (blockReadChannel channel s).1 :=
  State.withChannel_only fun _ => OnlyChanges.refl ..

/-! ## The requests of the delivery unit and of the port units -/

theorem blockSubscribe_only (p : Port) (k a b ks l : Byte) (s : State) :
    OnlyChanges [.subs] s (blockSubscribe p k a b ks l s).1 := by
  unfold blockSubscribe; split
  · refine OnlyChanges.ite_fst (OnlyChanges.refl ..) <| OnlyChanges.ite_fst (OnlyChanges.refl ..) ?_
    unfold State.placeSub; split
    · exact OnlyChanges.refl ..
    · exact s.setSub_only ..
  all_goals exact OnlyChanges.refl ..

theorem blockUnsubscribe_only (p : Port) (index : Byte) (s : State) :
    OnlyChanges [.subs] s (blockUnsubscribe p index s).1 := by
  unfold blockUnsubscribe; split
  · exact OnlyChanges.refl ..
  · split
    · exact OnlyChanges.refl ..
    · exact OnlyChanges.ite_fst (s.setSub_only ..) (OnlyChanges.refl ..)

theorem blockTakeRecord_only (p : Port) (s : State) : OnlyChanges [.ports] s (blockTakeRecord p s).1 := by
  unfold blockTakeRecord; split
  · exact OnlyChanges.refl ..
  · exact s.setPort_only ..

theorem blockAckConditions_only (p : Port) (c : Byte) (s : State) :
    OnlyChanges [.ports] s (blockAckConditions p c s).1 :=
  OnlyChanges.ite_fst (OnlyChanges.refl ..) (s.setPort_only ..)

theorem blockSetMask_only (p : Port) (m : Byte) (s : State) : OnlyChanges [.ports] s (blockSetMask p m s).1 :=
  OnlyChanges.ite_fst (OnlyChanges.refl ..) (s.setPort_only ..)

theorem blockDetach_only (p : Port) (s : State) :
    OnlyChanges [.slew, .authority, .schedule, .lines, .channels, .subs, .digest, .ports] s (blockDetach p s).1 :=
  (s.detached_only p).trans ((State.setPort_only ..).mono (by decide))

/-! ## Transactions, resets and supplies -/

theorem State.fetchAt_only (s : State) (p : Port) (n : Nat) : OnlyChanges [.ports] s (s.fetchAt p n) := by
  refine OnlyChanges.ite (s.setPort_only ..) ?_
  split <;> exact s.setPort_only ..

theorem State.refuseFrame_only (s : State) (p : Port) (n : Nat) (x : Status) :
    OnlyChanges [.ports] s (s.refuseFrame p n x) := by
  unfold State.refuseFrame; split
  · exact s.setPort_only ..
  · exact s.setPort_only ..
  · exact (s.setPort_only ..).trans (State.setPort_only ..)

theorem State.setPrst_only (s : State) (p : Port) (x : PinLevel) : OnlyChanges [.pins] s (s.setPrst p x) := by
  exact ⟨fun q hq => by cases q <;> first | rfl | exact absurd (by decide) hq⟩

theorem State.leaveHold_only (s : State) (p : Port) : OnlyChanges [.ports] s (s.leaveHold p) :=
  (s.setPort_only ..).trans (State.setPort_only ..)

theorem State.holdReset_only (s : State) (x : Bool) : OnlyChanges [.pins] s (s.holdReset x) := by
  exact ⟨fun q hq => by cases q <;> first | rfl | exact absurd (by decide) hq⟩

/-- The parts of the main domain that a reset puts at their reset values. -/
def mainParts : List Part :=
  [.slew, .monitor, .authority, .schedule, .unfired, .lines, .channels, .subs, .digest, .ports]

theorem State.resetMain_only (s : State) : OnlyChanges mainParts s s.resetMain := by
  exact ⟨fun q hq => by cases q <;> first | rfl | exact absurd (by decide) hq⟩

theorem State.takeReset_only (s : State) :
    OnlyChanges (mainParts ++ [.backup, .pins, .leaveCauses]) s s.takeReset := by
  exact ⟨fun q hq => by cases q <;> first | rfl | exact absurd (by decide) hq⟩

theorem State.powerOn_only (s : State) (straps : BitVec 3) (causes : BitVec 5) :
    OnlyChanges (mainParts ++ [.pins, .leaveCauses]) s (s.powerOn straps causes) := by
  have up : OnlyChanges (mainParts ++ [.pins, .leaveCauses]) s
      { s.resetMain with pins := { s.pins with mainSupply := true }, leaveCauses := causes } := by
    exact ⟨fun q hq => by cases q <;> first | rfl | exact absurd (by decide) hq⟩
  exact OnlyChanges.ite up (up.trans ((State.leaveReset_only ..).mono (by decide)))

theorem State.losePower_only (s : State) : OnlyChanges (mainParts ++ [.backup, .pins]) s s.losePower := by
  exact ⟨fun q hq => by cases q <;> first | rfl | exact absurd (by decide) hq⟩

theorem State.setBackupSupply_only (s : State) (x : Bool) : OnlyChanges [.pins] s (s.setBackupSupply x) := by
  exact ⟨fun q hq => by cases q <;> first | rfl | exact absurd (by decide) hq⟩

theorem State.setRetention_only (s : State) (x : Bool) : OnlyChanges [.backup] s (s.setRetention x) := by
  exact ⟨fun q hq => by cases q <;> first | rfl | exact absurd (by decide) hq⟩

theorem State.renewBackup_only (s : State) : OnlyChanges [.backup, .freeCount] s s.renewBackup := by
  exact ⟨fun q hq => by cases q <;> first | rfl | exact absurd (by decide) hq⟩

theorem State.setRaw_only (s : State) (c : ChanNo) (x : PinLevel) : OnlyChanges [.pins] s (s.setRaw c x) := by
  exact ⟨fun q hq => by cases q <;> first | rfl | exact absurd (by decide) hq⟩

theorem State.filterRaw_only (s : State) (c : ChanNo) (x : PinLevel) :
    OnlyChanges [.schedule, .lines, .channels, .subs, .digest, .ports, .pins] s (s.filterRaw c x) := by
  have taken : OnlyChanges [.schedule, .lines, .channels, .subs, .digest, .ports, .pins] s
      (if s.rawLevel c = x then s else s.takeEdge c) :=
    OnlyChanges.ite (OnlyChanges.refl ..) ((s.takeEdge_only c).mono (by decide))
  exact (taken.trans ((State.setRaw_only ..).mono (by decide))).trans ((State.setChannel_only ..).mono (by decide))

/-! ## Every command -/

/-- The parts that one microsecond of the rate source can change. -/
def microParts : List Part :=
  [.backup, .slew, .monitor, .authority, .schedule, .unfired, .lines, .channels, .subs, .digest, .ports, .freeCount]

/-- The parts that a request can change: no request changes a pin, and none makes or leaves firings of an advance. -/
def requestParts : List Part :=
  [.backup, .slew, .monitor, .authority, .schedule, .lines, .channels, .subs, .digest, .ports]

/-- The parts of the state that a command can change at most. -/
def commandParts : Instr → List Part
  | .readTime _ | .readCalendar _ | .readAdjust _ | .readClock _ | .readEntry _ _ _ | .listEntries _ _ _
  | .readLine _ _ | .readChannel _ _ | .takeRecord _ | .readConditions _ | .ackConditions _ _ | .setMask _ _
  | .readResetCause _ | .identify _ | .fetch _ _ => [.ports]
  | .claimAuthority _ _ | .releaseAuthority _ | .slew _ _ | .cancelAdjust _ => [.slew, .authority, .ports]
  | .setKey _ _ | .resumeReference _ => [.backup, .ports]
  | .setTime _ _ _ | .step _ _ => [.backup, .authority, .schedule, .lines, .subs, .digest, .ports]
  | .selectSource _ _ | .clearBackup _ => [.backup, .monitor, .ports]
  | .armEntry _ _ | .retimeEntry _ _ _ _ _ | .unholdEntry _ _ _ => [.schedule, .lines, .subs, .digest, .ports]
  | .holdEntry _ _ _ => [.schedule, .digest, .ports]
  | .cancelEntry _ _ _ => [.schedule, .subs, .digest, .ports]
  | .setQuota _ _ _ => [.schedule, .ports]
  | .digest _ _ _ | .digestExamineIndex => [.digest, .ports]
  | .claimLine _ _ | .releaseLine _ _ | .pinLine _ _ | .configureLine _ _ _ _ _ | .driveLine _ _ _ | .pulseEnd _
  | .holdExpiry _ => [.lines, .ports]
  | .claimChannel _ _ | .configureChannel _ _ _ _ _ _ | .startChannel _ _ | .stopChannel _ _ | .setReload _ _ _ =>
    [.channels, .ports]
  | .releaseChannel _ _ | .shareChannel _ _ _ => [.channels, .subs, .ports]
  | .subscribe _ _ _ _ _ _ | .unsubscribe _ _ => [.subs, .ports]
  | .detach _ => [.slew, .authority, .schedule, .lines, .channels, .subs, .digest, .ports]
  | .badRequest _ _ _ => requestParts
  | .portReset _ => [.slew, .authority, .schedule, .lines, .channels, .subs, .digest, .ports, .pins]
  | .portLeavesResetHold _ => [.ports, .pins]
  | .deviceReset => mainParts ++ [.backup, .pins, .leaveCauses]
  | .partLeavesReset _ => [.monitor, .authority, .channels, .ports, .pins, .leaveCauses]
  | .powerOnRetained _ | .powerOnBackupLost _ => mainParts ++ [.backup, .pins, .leaveCauses]
  | .mainSupplyLoss => mainParts ++ [.backup, .pins]
  | .backupSupplyLoss => [.backup, .pins]
  | .backupSupplyReturn => [.backup, .pins, .freeCount]
  | .timebaseAdvance _ | .slewBlockEnd _ | .slewEnd _ => microParts
  | .referenceEdge _ | .referenceLoss => [.backup, .monitor, .ports]
  | .windowEnd => [.backup, .monitor, .ports, .freeCount]
  | .capturePinChange _ _ => [.schedule, .lines, .channels, .subs, .digest, .ports, .pins]
  | .edgeTaken _ | .measurementOverflow _ | .counterExpiry _ => [.schedule, .lines, .channels, .subs, .digest, .ports]

/-- A request changes what its block changes, and its port. -/
theorem State.request_changes {s : State} {p : Port} {n : Nat} {block : State → State × Option Response} {ps : List Part}
    {t : State} (h : Host.Outcome.next (φ := Fault) (ρ := Refusal) (s.request p n block) = .next t) (qs : List Part)
    (hb : ∀ u, OnlyChanges qs u (block u).1) (sub : ∀ q ∈ qs, q ∈ ps) (hp : Part.ports ∈ ps) : OnlyChanges ps s t := by
  cases h
  exact State.request_only s p n block ps hp fun u => (hb u).mono sub

/-- A frame that passes the frame checks is the request it spells (R180). -/
theorem dispatchRequest_cases (i : Instr) (s : State) :
    dispatchRequest i s = .next s ∨
      dispatchRequest i s = exec i s ∧ (∀ p bs inc, i ≠ .badRequest p bs inc) ∧
        ∀ q ∈ commandParts i, q ∈ requestParts := by
  cases i <;> first
    | exact .inl rfl
    | exact .inr ⟨rfl, nofun, by dsimp only [commandParts]; decide⟩

/-- What a transaction can do: change its port alone, or run a request (R180). -/
theorem execBadRequest_cases {p : Port} {bs : List Byte} {inc : Bool} {s t : State}
    (h : exec (.badRequest p bs inc) s = .next t) :
    OnlyChanges [.ports] s t ∨
      ∃ i, exec i s = .next t ∧ (∀ p bs inc, i ≠ .badRequest p bs inc) ∧ ∀ q ∈ commandParts i, q ∈ requestParts := by
  change s.transact p bs.length (decodeFrame p bs inc) = .next t at h
  cases e : decodeFrame p bs inc with
  | nothing => rw [e] at h; cases h; exact .inl (s.setPort_only ..)
  | fetch k => rw [e] at h; cases h; exact .inl (s.fetchAt_only ..)
  | frameError => rw [e] at h; cases h; exact .inl (s.refuseFrame_only ..)
  | badRequest => rw [e] at h; cases h; exact .inl (s.refuseFrame_only ..)
  | badArg => rw [e] at h; cases h; exact .inl (s.refuseFrame_only ..)
  | request i =>
    rw [e] at h
    obtain k | ⟨k, proper, sub⟩ := dispatchRequest_cases i s
    · cases k.symm.trans h; exact .inl (OnlyChanges.refl ..)
    · exact .inr ⟨i, k.symm.trans h, proper, sub⟩

/-- Every command but a transaction's bytes changes at most the parts that commandParts gives it. -/
theorem exec_changes_proper {i : Instr} {s t : State} (h : exec i s = .next t)
    (proper : ∀ p bs inc, i ≠ .badRequest p bs inc) : OnlyChanges (commandParts i) s t := by
  cases i
  all_goals dsimp only [commandParts]
  case badRequest p bs inc => exact absurd rfl (proper p bs inc)
  case claimAuthority => exact State.request_changes h _ (blockClaimAuthority_only _ _) (by decide) (by decide)
  case releaseAuthority => exact State.request_changes h _ (blockReleaseAuthority_only _) (by decide) (by decide)
  case setKey => exact State.request_changes h _ (blockSetKey_only _ _) (by decide) (by decide)
  case setTime => exact State.request_changes h _ (blockSetTime_only _ _ _) (by decide) (by decide)
  case step => exact State.request_changes h _ (blockStep_only _ _) (by decide) (by decide)
  case slew => exact State.request_changes h _ (blockSlew_only _ _) (by decide) (by decide)
  case cancelAdjust => exact State.request_changes h _ (blockCancelAdjust_only _) (by decide) (by decide)
  case selectSource => exact State.request_changes h _ (blockSelectSource_only _ _) (by decide) (by decide)
  case resumeReference => exact State.request_changes h _ (blockResumeReference_only _) (by decide) (by decide)
  case clearBackup => exact State.request_changes h _ (blockClearBackup_only _) (by decide) (by decide)
  case armEntry => exact State.request_changes h _ (blockArmEntry_only _ _) (by decide) (by decide)
  case retimeEntry => exact State.request_changes h _ (blockRetimeEntry_only _ _ _ _ _) (by decide) (by decide)
  case holdEntry => exact State.request_changes h _ (blockHoldEntry_only _ _ _) (by decide) (by decide)
  case unholdEntry => exact State.request_changes h _ (blockUnholdEntry_only _ _ _) (by decide) (by decide)
  case cancelEntry => exact State.request_changes h _ (blockCancelEntry_only _ _ _) (by decide) (by decide)
  case readEntry => exact State.request_changes h _ (blockReadEntry_only _ _) (by decide) (by decide)
  case listEntries => exact State.request_changes h _ (blockListEntries_only _ _ _) (by decide) (by decide)
  case setQuota => exact State.request_changes h _ (blockSetQuota_only _ _ _) (by decide) (by decide)
  case digest => exact State.request_changes h _ (blockDigest_only _ _ _) (by decide) (by decide)
  case claimLine => exact State.request_changes h _ (blockClaimLine_only _ _) (by decide) (by decide)
  case releaseLine => exact State.request_changes h _ (blockReleaseLine_only _ _) (by decide) (by decide)
  case pinLine => exact State.request_changes h _ (blockPinLine_only _ _) (by decide) (by decide)
  case configureLine => exact State.request_changes h _ (blockConfigureLine_only _ _ _ _ _) (by decide) (by decide)
  case driveLine => exact State.request_changes h _ (blockDriveLine_only _ _ _) (by decide) (by decide)
  case readLine => exact State.request_changes h _ (blockReadLine_only _) (by decide) (by decide)
  case claimChannel => exact State.request_changes h _ (blockClaimChannel_only _ _) (by decide) (by decide)
  case releaseChannel => exact State.request_changes h _ (blockReleaseChannel_only _ _) (by decide) (by decide)
  case shareChannel => exact State.request_changes h _ (blockShareChannel_only _ _ _) (by decide) (by decide)
  case configureChannel =>
    exact State.request_changes h _ (blockConfigureChannel_only _ _ _ _ _ _) (by decide) (by decide)
  case startChannel => exact State.request_changes h _ (blockStartChannel_only _ _) (by decide) (by decide)
  case stopChannel => exact State.request_changes h _ (blockStopChannel_only _ _) (by decide) (by decide)
  case setReload => exact State.request_changes h _ (blockSetReload_only _ _ _) (by decide) (by decide)
  case readChannel => exact State.request_changes h _ (blockReadChannel_only _) (by decide) (by decide)
  case subscribe => exact State.request_changes h _ (blockSubscribe_only _ _ _ _ _ _) (by decide) (by decide)
  case unsubscribe => exact State.request_changes h _ (blockUnsubscribe_only _ _) (by decide) (by decide)
  case takeRecord => exact State.request_changes h _ (blockTakeRecord_only _) (by decide) (by decide)
  case ackConditions => exact State.request_changes h _ (blockAckConditions_only _ _) (by decide) (by decide)
  case setMask => exact State.request_changes h _ (blockSetMask_only _ _) (by decide) (by decide)
  case detach => exact State.request_changes h _ (blockDetach_only _) (by decide) (by decide)
  case readResetCause =>
    exact State.request_changes h [.ports] (fun _ => State.setPort_only ..) (by decide) (by decide)
  case fetch => cases h; exact s.fetchAt_only ..
  case portReset p =>
    cases h
    exact OnlyChanges.ite (((s.setPrst_only ..).mono (by decide)).trans ((State.portGone_only ..).mono (by decide)))
      ((s.setPrst_only ..).mono (by decide))
  case portLeavesResetHold p =>
    cases h
    exact OnlyChanges.ite (((s.setPrst_only ..).mono (by decide)).trans ((State.leaveHold_only ..).mono (by decide)))
      ((s.setPrst_only ..).mono (by decide))
  case deviceReset => cases h; exact OnlyChanges.ite s.takeReset_only ((s.holdReset_only _).mono (by decide))
  case partLeavesReset =>
    cases h
    exact OnlyChanges.ite (OnlyChanges.ite
      (((s.holdReset_only _).mono (by decide)).trans ((State.leaveReset_only ..).mono (by decide)))
      ((s.holdReset_only _).mono (by decide))) (OnlyChanges.refl ..)
  case powerOnRetained =>
    cases h
    exact OnlyChanges.ite (((s.setQuality_only _).mono (by decide)).trans ((State.powerOn_only ..).mono (by decide)))
      (OnlyChanges.refl ..)
  case powerOnBackupLost =>
    cases h
    refine OnlyChanges.ite (OnlyChanges.trans (t := s.resetBackup) ?_ ((State.powerOn_only ..).mono (by decide)))
      (OnlyChanges.refl ..)
    exact ⟨fun q hq => by cases q <;> first | rfl | exact absurd (by decide) hq⟩
  case mainSupplyLoss => cases h; exact OnlyChanges.ite s.losePower_only (OnlyChanges.refl ..)
  case backupSupplyLoss =>
    cases h
    exact OnlyChanges.ite ((s.setBackupSupply_only _).mono (by decide))
      (((s.setBackupSupply_only _).mono (by decide)).trans ((State.setRetention_only ..).mono (by decide)))
  case backupSupplyReturn =>
    cases h
    exact OnlyChanges.ite (((s.setBackupSupply_only _).mono (by decide)).trans
      ((State.renewBackup_only _).mono (by decide))) ((s.setBackupSupply_only _).mono (by decide))
  case timebaseAdvance part =>
    cases h
    cases part
    · exact s.micro_only ..
    · exact s.micro_only ..
    · exact (s.finishAdvance_only _).mono (by decide)
  case slewBlockEnd part =>
    cases h
    cases part
    · exact OnlyChanges.ite (s.runMicro_only ..) (OnlyChanges.refl ..)
    · exact OnlyChanges.ite (s.runMicro_only ..) (OnlyChanges.refl ..)
    · exact (s.finishAdvance_only _).mono (by decide)
  case slewEnd part =>
    cases h
    cases part
    · exact OnlyChanges.ite (s.runMicro_only ..) (OnlyChanges.refl ..)
    · exact OnlyChanges.ite (s.runMicro_only ..) (OnlyChanges.refl ..)
    · exact (s.finishAdvance_only _).mono (by decide)
  case referenceEdge => cases h; exact OnlyChanges.ite (s.takeReferenceEdge_only _) (OnlyChanges.refl ..)
  case windowEnd => cases h; exact OnlyChanges.ite s.endWindow_only (OnlyChanges.refl ..)
  case referenceLoss => cases h; exact OnlyChanges.ite s.loseReference_only (OnlyChanges.refl ..)
  case pulseEnd => cases h; exact OnlyChanges.ite ((s.endPulse_only _).mono (by decide)) (OnlyChanges.refl ..)
  case holdExpiry => cases h; exact OnlyChanges.ite (s.expireHold_only _) (OnlyChanges.refl ..)
  case capturePinChange =>
    cases h
    exact OnlyChanges.ite (s.filterRaw_only ..) ((s.setRaw_only ..).mono (by decide))
  case edgeTaken => cases h; exact OnlyChanges.ite (s.takeEdge_only _) (OnlyChanges.refl ..)
  case measurementOverflow => cases h; exact OnlyChanges.ite (s.overflowMeasure_only _) (OnlyChanges.refl ..)
  case counterExpiry => cases h; exact OnlyChanges.ite (s.countEvent_only _) (OnlyChanges.refl ..)
  case digestExamineIndex => cases h; exact OnlyChanges.ite s.examineNext_only (OnlyChanges.refl ..)
  all_goals exact State.request_changes h [] (fun _ => OnlyChanges.refl ..) (by decide) (by decide)

/-- Every command changes at most the parts that commandParts gives it. -/
theorem exec_changes {i : Instr} {s t : State} (h : exec i s = .next t) : OnlyChanges (commandParts i) s t := by
  by_cases frame : ∃ p bs inc, i = .badRequest p bs inc
  · obtain ⟨p, bs, inc, rfl⟩ := frame
    change OnlyChanges requestParts s t
    obtain only | ⟨j, run, proper, sub⟩ := execBadRequest_cases h
    · exact only.mono (by decide)
    · exact (exec_changes_proper run proper).mono sub
  · exact exec_changes_proper h fun p bs inc e => frame ⟨p, bs, inc, e⟩

/-- What every command but a transaction's bytes keeps, and a change of the ports alone keeps, every command keeps. -/
theorem exec_keeps {P Q : State → Prop} (ports : ∀ s t, OnlyChanges [.ports] s t → P s → P t)
    (proper : ∀ i s t, (∀ p bs inc, i ≠ .badRequest p bs inc) → exec i s = .next t → Q s → P s → P t) {i : Instr}
    {s t : State} (h : exec i s = .next t) (hq : Q s) (hp : P s) : P t := by
  by_cases frame : ∃ p bs inc, i = .badRequest p bs inc
  · obtain ⟨p, bs, inc, rfl⟩ := frame
    obtain only | ⟨j, run, ok, -⟩ := execBadRequest_cases h
    · exact ports s t only hp
    · exact proper j s t ok run hq hp
  · exact proper i s t (fun p bs inc e => frame ⟨p, bs, inc, e⟩) h hq hp

end Sys2Proof.Machine
end

section
/-! What the operations do to the time: the count, the quality, the slew and the adjustment queue. On them rests that every
step keeps the count in its range, and the slew with its slot in the queue (R1, R5, R7, R14, R16, R46, R52). -/

namespace Sys2Proof.Machine

/-! ## Changes of the quality (section 2.3) -/

/-- Of the backup domain at most the quality has changed, and it has not become UNSET or left UNSET. -/
def QualityMoves (s t : State) : Prop :=
  ∃ q, t.backup = { s.backup with quality := q } ∧ (q = .unset ↔ s.backup.quality = .unset)

theorem QualityMoves.of_eq {s t : State} (h : t.backup = s.backup) : QualityMoves s t := ⟨_, h, Iff.rfl⟩

theorem QualityMoves.trans {s t u : State} (h : QualityMoves s t) (k : QualityMoves t u) : QualityMoves s u := by
  obtain ⟨q, hq, hu⟩ := h
  obtain ⟨r, hr, hv⟩ := k
  refine ⟨r, by rw [hr, hq], hv.trans ?_⟩
  rw [hq]; exact hu

theorem OnlyChanges.qualityMoves {ps : List Part} {s t : State} (h : OnlyChanges ps s t)
    (n : Part.backup ∉ ps := by decide) : QualityMoves s t := QualityMoves.of_eq (h.backup n)

theorem QualityMoves.of_setQuality {s : State} {q : Quality} {k : Condition} (hq : q ≠ .unset)
    (hs : s.backup.quality ≠ .unset) : QualityMoves s ((s.setQuality q).raiseAll k) :=
  ⟨q, (State.raiseAll_only ..).backup, iff_of_false hq hs⟩

theorem State.refGoodReached_quality (s : State) : QualityMoves s s.refGoodReached := by
  unfold State.refGoodReached
  split <;> rename_i e
  · exact QualityMoves.of_eq rfl
  · exact QualityMoves.of_setQuality nofun (by rw [e]; nofun)
  · exact (s.raiseAtHolder_only _).qualityMoves
  · exact QualityMoves.of_eq rfl

theorem State.refGoodLeft_quality (s : State) : QualityMoves s s.refGoodLeft := by
  unfold State.refGoodLeft
  split <;> rename_i e
  · exact QualityMoves.of_setQuality nofun (by rw [e]; nofun)
  all_goals exact QualityMoves.of_eq rfl

theorem State.endWindow_quality (s : State) : QualityMoves s s.endWindow := by
  have drawn : QualityMoves s s.windowErrorNow.1 := s.windowErrorNow_only.qualityMoves
  unfold State.endWindow
  split
  · split
    · refine drawn.trans ?_
      unfold State.judgeQualifying
      dsimp only
      split
      · split
        · exact QualityMoves.of_eq rfl
        · exact (QualityMoves.of_eq rfl).trans (State.refGoodReached_quality _)
      · exact QualityMoves.of_eq rfl
    · refine drawn.trans ?_
      unfold State.judgeGood
      dsimp only
      split
      · exact QualityMoves.of_eq rfl
      · exact (QualityMoves.of_eq rfl).trans (State.refGoodLeft_quality _)
    all_goals exact QualityMoves.of_eq rfl
  · exact QualityMoves.of_eq rfl

theorem State.loseReference_quality (s : State) : QualityMoves s s.loseReference := by
  unfold State.loseReference
  split
  · exact QualityMoves.of_eq rfl
  · exact (QualityMoves.of_eq rfl).trans (State.refGoodLeft_quality _)
  all_goals exact QualityMoves.of_eq rfl

theorem State.takeReferenceEdge_quality (s : State) (gap : Nat) : QualityMoves s (s.takeReferenceEdge gap) := by
  unfold State.takeReferenceEdge State.takeEdgeAfter
  split
  · exact QualityMoves.of_eq rfl
  · exact QualityMoves.of_eq rfl
  all_goals
    split
    · exact s.loseReference_quality.trans (QualityMoves.of_eq rfl)
    · exact QualityMoves.of_eq rfl

/-- No event of the part's own clocks touches the time but by the quality of a monitor's window or loss. -/
theorem State.takeDue_quality (s : State) (d : DueEvent) : QualityMoves s (s.takeDue d) := by
  cases d with
  | pulseEnd l => exact (s.endPulse_only l).qualityMoves
  | holdExpiry l => exact (s.expireHold_only l).qualityMoves
  | overflow c => exact (s.overflowMeasure_only c).qualityMoves
  | edge c => exact (s.takeEdge_only c).qualityMoves
  | windowEnd => exact s.endWindow_quality
  | loss =>
    change QualityMoves s (if 2 ≤ s.monitor.sinceEdge then s.loseReference else s)
    split
    · exact s.loseReference_quality
    · exact QualityMoves.of_eq rfl
  | examine => exact s.examineNext_only.qualityMoves
  | firing => exact s.fireOne_only.qualityMoves

theorem State.takeDues_quality (s : State) (l : List DueEvent) : QualityMoves s (l.foldl State.takeDue s) :=
  foldl_keeps (P := QualityMoves s) (fun t d h => h.trans (t.takeDue_quality d)) l s (QualityMoves.of_eq rfl)

theorem State.settle_quality (s : State) : QualityMoves s s.settle :=
  s.fireUnfired_only.qualityMoves.trans (State.takeDues_quality ..)

/-- Up to the advance, one microsecond of a part that runs touches the time by the quality alone. -/
theorem State.beforeAdvance_quality (s : State) (first : List DueEvent) :
    QualityMoves s (first.foldl State.takeDue s.settle.countTimers) :=
  (s.settle_quality.trans s.settle.countTimers_only.qualityMoves).trans (State.takeDues_quality ..)

/-! ## Applying a set or a step (R50, R51) -/

theorem State.applyTime_backup (s : State) (v : Nat) :
    (s.applyTime v).backup = { s.backup with
      count := v, rangeHeld := false, epoch := s.backup.epoch + 1,
      quality := if s.backup.quality = .unset then
          (if s.backup.source = .reference ∧ s.monitor.state = .refGood then .tracking else .freeRun)
        else s.backup.quality } := by
  unfold State.applyTime
  dsimp only
  rw [(State.raiseAll_only ..).backup, (State.stepTable_only ..).backup]
  split
  · unfold State.leaveUnset
    dsimp only
    split
    · exact (State.raiseAll_only ..).backup
    · rfl
  · rfl

theorem State.applyTime_set (s : State) (v : Nat) : (s.applyTime v).backup.quality ≠ .unset := by
  rw [State.applyTime_backup]
  dsimp only
  split
  · split <;> nofun
  · assumption

theorem State.applyTime_inRange (s : State) {v : Nat} (h : v ≤ Config.endOfRange) :
    TimeInRange (s.applyTime v).backup := by
  refine ⟨?_, fun e => absurd e (s.applyTime_set v), ?_⟩ <;> rw [State.applyTime_backup]
  · exact h
  · nofun

theorem stepTarget_le {now v : Nat} {amount : Int} (h : stepTarget now amount = some v) : v ≤ Config.endOfRange := by
  unfold stepTarget at h
  dsimp only at h
  split at h
  · cases h; omega
  · cases h

theorem setTarget_le {target v : Nat} (h : setTarget target = some v) : v ≤ Config.endOfRange := by
  unfold setTarget at h
  split at h
  · cases h; assumption
  · cases h

/-! ## The beginning and the end of a slew (R14, R16, R53) -/

/-- The slew that is ACTIVE leaves with its report (R58) and its record to the holder (R54). -/
theorem State.completeSlew_active {s : State} {a : ActiveSlew} (h : s.authority.active = some a) (n : Nat) :
    s.completeSlew n =
      (s.slewLeaves a.number .completed n).deliverTo s.authority.holder 3
        (adjustDoneRecord a.number .completed none s.stamp) := by
  unfold State.completeSlew
  rw [h]
  rfl

theorem State.completeSlew_slew {s : State} {a : ActiveSlew} (h : s.authority.active = some a) (n : Nat) :
    (s.completeSlew n).slew = SlewState.idle := by
  rw [State.completeSlew_active h, (State.deliverTo_only ..).slew]; rfl

theorem State.completeSlew_authority {s : State} {a : ActiveSlew} (h : s.authority.active = some a) (n : Nat) :
    (s.completeSlew n).authority = { s.authority with
      active := none, report := some { number := a.number, outcome := .completed, unapplied := n } } := by
  rw [State.completeSlew_active h, (State.deliverTo_only ..).authority]; rfl

/-- A slew begins where the range is not held (R14). -/
theorem State.beginSlew_begins {s : State} (h : s.backup.rangeHeld = false) (number : BitVec 8) (amount : Int) :
    s.beginSlew number amount = { s with
      slew := { direction := if 0 ≤ amount then .positive else .negative, remaining := amount.natAbs, blockElapsed := 0 }
      authority := { s.authority with active := some { number := number, amount := amount } } } := by
  unfold State.beginSlew
  dsimp only
  rw [h]
  rfl

/-- A slew that becomes ACTIVE while the range is held ends at once (R16). -/
theorem State.beginSlew_held {s : State} (h : s.backup.rangeHeld = true) (number : BitVec 8) (amount : Int) :
    s.beginSlew number amount = State.completeSlew { s with
      slew := { direction := if 0 ≤ amount then .positive else .negative, remaining := amount.natAbs, blockElapsed := 0 }
      authority := { s.authority with active := some { number := number, amount := amount } } } amount.natAbs := by
  unfold State.beginSlew
  dsimp only
  rw [if_pos h]

/-! ## The time stays consistent -/

/-- Nothing of what TimeConsistent speaks of has changed but the quality, which is UNSET exactly where it was. -/
structure SameTime (s t : State) : Prop where
  quality : QualityMoves s t
  slew : t.slew = s.slew
  authority : t.authority = s.authority

theorem OnlyChanges.sameTime {ps : List Part} {s t : State} (h : OnlyChanges ps s t)
    (n : Part.backup ∉ ps ∧ Part.slew ∉ ps ∧ Part.authority ∉ ps := by decide) : SameTime s t :=
  ⟨h.qualityMoves n.1, h.slew n.2.1, h.authority n.2.2⟩

theorem TimeInRange.of_quality {s t : State} (h : TimeInRange s.backup) (k : QualityMoves s t) : TimeInRange t.backup := by
  obtain ⟨q, e, unset⟩ := k
  obtain ⟨range, zero, held⟩ := h
  rw [e]
  exact ⟨range, fun u => zero (unset.1 u), held⟩

theorem TimeConsistent.of_same {s t : State} (h : TimeConsistent s) (k : SameTime s t) : TimeConsistent t := by
  obtain ⟨range, slew, waiting⟩ := h
  refine ⟨range.of_quality k.quality, ?_, ?_⟩
  · obtain ⟨q, e, unset⟩ := k.quality
    unfold SlewConsistent at slew ⊢
    rw [k.authority, k.slew, e]
    simp only [ne_eq, unset]
    exact slew
  · unfold WaitingSlewInRange
    rw [k.authority]
    exact waiting

/-- The time is consistent with no slew and nothing waiting. -/
theorem TimeConsistent.of_idle {s : State} (range : TimeInRange s.backup) (slew : s.slew = SlewState.idle)
    (active : s.authority.active = none) (waiting : s.authority.waiting = none) : TimeConsistent s := by
  refine ⟨range, ?_, fun w h => by rw [waiting] at h; cases h⟩
  unfold SlewConsistent
  rw [slew, active, waiting]
  exact ⟨by decide, fun _ => ⟨rfl, rfl⟩, fun h => absurd rfl h, nofun⟩

/-- With no slew in progress nothing is in the queue. -/
theorem SlewConsistent.queue_empty {s : State} (h : SlewConsistent s) (none : s.slew.direction = .none) :
    s.authority.active = .none ∧ s.authority.waiting = .none := by
  obtain ⟨iff, -, -, behind⟩ := h
  have active : s.authority.active.isSome = false := by
    rw [Bool.eq_false_iff]; exact fun k => iff.1 k none
  refine ⟨Option.isSome_eq_false_iff.1 active |> Option.isNone_iff_eq_none.1, ?_⟩
  have waiting : s.authority.waiting.isSome = false := by
    rw [Bool.eq_false_iff]; exact fun k => by rw [behind k] at active; cases active
  exact Option.isSome_eq_false_iff.1 waiting |> Option.isNone_iff_eq_none.1

theorem SlewConsistent.idle {s : State} (h : SlewConsistent s) (none : s.slew.direction = .none) :
    s.slew = SlewState.idle := by
  obtain ⟨-, zero, -⟩ := h
  have := zero none
  cases e : s.slew
  rw [e] at none this
  simp_all [SlewState.idle]

/-- A slew begun by a request or from the queue leaves the time consistent (R14, R16, R52). -/
theorem State.beginSlew_timeConsistent {s : State} (range : TimeInRange s.backup) (set : s.backup.quality ≠ .unset)
    (holder : s.authority.holder.isSome = true) (waiting : s.authority.waiting = none) (number : BitVec 8) {amount : Int}
    (size : 1 ≤ amount.natAbs ∧ amount.natAbs ≤ 1000000) : TimeConsistent (s.beginSlew number amount) := by
  cases held : s.backup.rangeHeld with
  | true =>
    rw [State.beginSlew_held held]
    refine TimeConsistent.of_idle ?_ (State.completeSlew_slew rfl _) ?_ ?_
    · rw [(State.completeSlew_only ..).backup]; exact range
    · rw [State.completeSlew_authority rfl]
    · rw [State.completeSlew_authority rfl]; exact waiting
  | false =>
    rw [State.beginSlew_begins held]
    refine ⟨range, ?_, fun w h => by rw [waiting] at h; cases h⟩
    have dir : (if 0 ≤ amount then SlewDirection.positive else .negative) ≠ .none := by split <;> nofun
    exact ⟨iff_of_true rfl dir, fun h => absurd h dir,
      fun _ => ⟨size.1, size.2, (by decide : 0 < 1000), set, held, holder⟩,
      fun h => by rw [waiting] at h; cases h⟩

theorem State.applyWaiting_timeConsistent {s : State} (range : TimeInRange s.backup) (slew : s.slew = SlewState.idle)
    (active : s.authority.active = none) (waiting : s.authority.waiting = none) (number : BitVec 8) {value : Option Nat}
    (within : ∀ v, value = some v → v ≤ Config.endOfRange) : TimeConsistent (s.applyWaiting number value) := by
  have only := s.applyWaiting_only number value
  refine TimeConsistent.of_idle ?_ (only.slew.trans slew) (by rw [only.authority]; exact active)
    (by rw [only.authority]; exact waiting)
  unfold State.applyWaiting
  split
  next v =>
    rw [(State.adjustDone_only ..).backup]
    exact s.applyTime_inRange (within v rfl)
  next => rw [(State.adjustDone_only ..).backup]; exact range

/-- The end of the ACTIVE slew, and what then follows it from the queue, leave the time consistent (R53). -/
theorem State.slewEnded_timeConsistent {s : State} {a : ActiveSlew} (range : TimeInRange s.backup)
    (set : s.backup.quality ≠ .unset) (holder : s.authority.holder.isSome = true) (active : s.authority.active = some a)
    (waiting : WaitingSlewInRange s) (n : Nat) : TimeConsistent (s.slewEnded n) := by
  have backup : (s.completeSlew n).backup = s.backup := (s.completeSlew_only n).backup
  have slew := State.completeSlew_slew active n
  have authority := State.completeSlew_authority active n
  unfold State.slewEnded
  dsimp only
  rw [← backup] at range set
  split <;> rename_i e
  · exact TimeConsistent.of_idle range slew (by rw [authority]) e
  next w =>
    have next : ∀ u : State, u.backup = (s.completeSlew n).backup → u.slew = SlewState.idle →
        u.authority = { (s.completeSlew n).authority with waiting := none } →
        TimeConsistent (match w.what with
          | .slew amount => u.beginSlew w.number amount
          | .set target => u.applyWaiting w.number (setTarget target)
          | .step amount => u.applyWaiting w.number (stepTarget u.now amount)) := by
      intro u ub us ua
      rw [authority] at ua e
      rw [← ub] at range set
      split <;> rename_i what
      · exact State.beginSlew_timeConsistent range set (by rw [ua]; exact holder) (by rw [ua]) _ (waiting w e _ what)
      · exact State.applyWaiting_timeConsistent range us (by rw [ua]) (by rw [ua]) _ fun v => setTarget_le
      · exact State.applyWaiting_timeConsistent range us (by rw [ua]) (by rw [ua]) _ fun v => stepTarget_le
    exact next _ rfl slew rfl

/-! ## The advance of the count (Chapter 1) -/

theorem State.advanceTo_backup (s : State) (v : Nat) (fires : Bool) :
    (s.advanceTo v fires).backup = { s.backup with count := v } := by
  unfold State.advanceTo
  dsimp only
  split
  · exact (State.fireReached_only _).backup
  · rfl

/-- The state at the end of range before a slew in progress ends (R16, R112). -/
theorem State.heldAtEnd_backup (s : State) :
    ((s.holdRange.fireDue Config.endOfRange).raiseAll .rangeEnd).backup =
      { s.backup with count := Config.endOfRange, rangeHeld := true } := by
  rw [(State.raiseAll_only ..).backup, (State.fireDue_only ..).backup]; rfl

theorem State.counting_iff (s : State) :
    s.counting = true ↔ s.backup.quality ≠ .unset ∧ s.backup.rangeHeld = false := by
  unfold State.counting
  simp

/-- The end of range reached leaves the time consistent (R16). -/
theorem State.reachEnd_timeConsistent {s : State} (set : s.backup.quality ≠ .unset) (slew : SlewConsistent s)
    (waiting : WaitingSlewInRange s) : TimeConsistent s.reachEnd := by
  have only : OnlyChanges [.backup, .schedule, .lines, .subs, .digest, .ports] s
      ((s.holdRange.fireDue Config.endOfRange).raiseAll .rangeEnd) :=
    ((s.holdRange_only.mono (by decide)).trans ((State.fireDue_only ..).mono (by decide))).trans
      ((State.raiseAll_only ..).mono (by decide))
  have backup := s.heldAtEnd_backup
  have range : TimeInRange ((s.holdRange.fireDue Config.endOfRange).raiseAll .rangeEnd).backup := by
    rw [backup]; exact ⟨Nat.le_refl _, fun u => absurd u set, fun _ => rfl⟩
  unfold State.reachEnd State.endSlewAtRange
  rw [only.slew]
  split <;> rename_i dir
  · have ⟨active, waiting⟩ := slew.queue_empty dir
    exact TimeConsistent.of_idle range (only.slew.trans (slew.idle dir)) (by rw [only.authority]; exact active)
      (by rw [only.authority]; exact waiting)
  · obtain ⟨iff, -, progress, -⟩ := slew
    obtain ⟨-, -, -, -, -, holder⟩ := progress dir
    obtain ⟨a, active⟩ := Option.isSome_iff_exists.1 (iff.2 dir)
    refine State.slewEnded_timeConsistent range (by rw [backup]; exact set) (by rw [only.authority]; exact holder)
      (by rw [only.authority]; exact active) ?_ _
    unfold WaitingSlewInRange
    rw [only.authority]; exact waiting

theorem State.advanceOne_timeConsistent {s : State} (h : TimeConsistent s) (fires : Bool) :
    TimeConsistent (s.advanceOne fires) := by
  obtain ⟨range, slew, waiting⟩ := h
  unfold State.advanceOne
  split
  next c =>
    obtain ⟨set, held⟩ := s.counting_iff.1 c
    split
    next room =>
      have only := s.advanceTo_only (s.now + 1) fires
      have backup := s.advanceTo_backup (s.now + 1) fires
      refine ⟨?_, ?_, ?_⟩
      · rw [backup]; exact ⟨room, fun u => absurd u set, fun k => by rw [held] at k; cases k⟩
      · unfold SlewConsistent at slew ⊢
        rw [only.authority, only.slew, backup]; exact slew
      · unfold WaitingSlewInRange
        rw [only.authority]; exact waiting
    · exact State.reachEnd_timeConsistent set slew waiting
  · exact ⟨range, slew, waiting⟩

/-- A block counted with something of the slew remaining, or the end of the slew (R14, R53). -/
theorem State.endSlewIfDone_timeConsistent {s t : State} (h : TimeConsistent s) (dir : s.slew.direction ≠ .none)
    (range : TimeInRange t.backup) (quality : t.backup.quality = s.backup.quality)
    (held : t.backup.rangeHeld = s.backup.rangeHeld)
    (slew : t.slew = { s.slew with remaining := s.slew.remaining - 1, blockElapsed := 0 })
    (authority : t.authority = s.authority) : TimeConsistent t.endSlewIfDone := by
  obtain ⟨-, ⟨iff, -, progress, behind⟩, waiting⟩ := h
  obtain ⟨left, most, -, set, notHeld, holder⟩ := progress dir
  have waits : WaitingSlewInRange t := by unfold WaitingSlewInRange; rw [authority]; exact waiting
  unfold State.endSlewIfDone
  rw [slew]
  dsimp only
  split
  · obtain ⟨a, active⟩ := Option.isSome_iff_exists.1 (iff.2 dir)
    exact State.slewEnded_timeConsistent range (by rw [quality]; exact set) (by rw [authority]; exact holder)
      (by rw [authority]; exact active) waits 0
  next more =>
    have rest : s.slew.remaining - 1 ≠ 0 := fun e => more ⟨dir, e⟩
    refine ⟨range, ?_, waits⟩
    unfold SlewConsistent
    rw [authority, slew, quality, held]
    exact ⟨iff, fun k => absurd k dir, fun _ => ⟨by dsimp only; omega, by dsimp only; omega, by dsimp only; omega, set, notHeld, holder⟩,
      behind⟩

theorem State.blockEnd_timeConsistent {s : State} (h : TimeConsistent s) (fires : Bool) :
    TimeConsistent (s.blockEnd fires) := by
  obtain ⟨range, slew, waiting⟩ := h
  unfold State.blockEnd
  split <;> rename_i e
  · have dir : s.slew.direction ≠ .none := by rw [e]; nofun
    have ⟨_, _, progress, _⟩ := slew
    obtain ⟨-, -, -, set, held, -⟩ := progress dir
    split
    next room =>
      have only := s.countBlock.advanceTo_only (s.now + 2) fires
      have backup := s.countBlock.advanceTo_backup (s.now + 2) fires
      refine State.endSlewIfDone_timeConsistent (s := s) ⟨range, slew, waiting⟩ dir ?_ (by rw [backup]; rfl)
        (by rw [backup]; rfl) only.slew only.authority
      rw [backup]
      exact ⟨room, fun u => absurd u set, fun k => by rw [show s.countBlock.backup.rangeHeld = false from held] at k; cases k⟩
    · exact State.reachEnd_timeConsistent set slew waiting
  · exact State.endSlewIfDone_timeConsistent (s := s) ⟨range, slew, waiting⟩ (by rw [e]; nofun) range rfl rfl rfl rfl
  · exact ⟨range, slew, waiting⟩

theorem State.atBlockEnd_iff (s : State) :
    s.atBlockEnd = true ↔ s.slew.direction ≠ .none ∧ s.slew.blockElapsed = 999 := by
  unfold State.atBlockEnd
  simp

/-- One device microsecond at the timebase leaves the time consistent (R2, R14, R16). -/
theorem State.timebaseMicro_timeConsistent {s : State} (h : TimeConsistent s) (fires : Bool) :
    TimeConsistent (s.timebaseMicro fires) := by
  unfold State.timebaseMicro
  split
  · exact State.blockEnd_timeConsistent h fires
  next within =>
    split
    · exact State.advanceOne_timeConsistent h fires
    next dir =>
      refine State.advanceOne_timeConsistent ?_ fires
      obtain ⟨range, ⟨iff, -, progress, behind⟩, waiting⟩ := h
      obtain ⟨left, most, block, set, held, holder⟩ := progress dir
      have : s.slew.blockElapsed ≠ 999 := fun e => within (s.atBlockEnd_iff.2 ⟨dir, e⟩)
      exact ⟨range, ⟨iff, fun k => absurd k dir,
        fun _ => ⟨left, most, by dsimp only; omega, set, held, holder⟩, behind⟩, waiting⟩

theorem State.beforeAdvance_sameTime (s : State) (first : List DueEvent) :
    SameTime s (first.foldl State.takeDue s.settle.countTimers) := by
  have dues : OnlyChanges [.backup, .monitor, .schedule, .unfired, .lines, .channels, .subs, .digest, .ports, .freeCount] s
      (first.foldl State.takeDue s.settle.countTimers) :=
    (s.settle_only.trans (s.settle.countTimers_only.mono (by decide))).trans
      (OnlyChanges.foldl (fun t d => t.takeDue_only d) _ _)
  exact ⟨s.beforeAdvance_quality first, dues.slew, dues.authority⟩

theorem State.runMicro_timeConsistent {s : State} (h : TimeConsistent s) (first : List DueEvent) (fires : Bool) :
    TimeConsistent (s.runMicro first fires) :=
  State.timebaseMicro_timeConsistent (h.of_same (s.beforeAdvance_sameTime first)) fires

theorem State.finishAdvance_timeConsistent {s : State} (h : TimeConsistent s) (first : List DueEvent) :
    TimeConsistent (s.finishAdvance first) := by
  unfold State.finishAdvance
  split
  · have dues := OnlyChanges.foldl (fun t d => State.takeDue_only t d) first s
    have fired := (first.foldl State.takeDue s).fireUnfired_only
    exact h.of_same ⟨(s.takeDues_quality first).trans fired.qualityMoves, fired.slew.trans dues.slew,
      fired.authority.trans dues.authority⟩
  · exact h

theorem Backup.silentAdvance_inRange {b : Backup} (h : TimeInRange b) : TimeInRange b.silentAdvance := by
  unfold Backup.silentAdvance
  split
  next c =>
    split
    next room => exact ⟨room, fun u => absurd u c.1, fun k => by rw [show b.rangeHeld = true from k] at c; cases c.2⟩
    · exact ⟨Nat.le_refl _, fun u => absurd u c.1, fun _ => rfl⟩
  · exact h

end Sys2Proof.Machine
end

section
/-! Every step keeps the time consistent: the count in its range, and the slew with its slot in the queue. -/

namespace Sys2Proof.Machine

/-- The queue of s is discarded in t: nothing is ACTIVE, nothing waits, and a slew that was ACTIVE has stopped (R15, R55). -/
structure QueueDiscarded (s t : State) : Prop where
  active : t.authority.active = none
  waiting : t.authority.waiting = none
  idle : s.authority.active.isSome = true → t.slew = SlewState.idle
  same : s.authority.active = none → t.slew = s.slew

/-- With nothing ACTIVE no slew is in progress. -/
theorem SlewConsistent.idle_of_not_active {s : State} (h : SlewConsistent s) (none : s.authority.active = none) :
    s.slew = SlewState.idle := by
  have ⟨iff, _⟩ := h
  refine h.idle (Classical.byContradiction fun dir => ?_)
  have := iff.2 dir
  rw [none] at this; cases this

/-- With the queue discarded no slew is in progress (R15). -/
theorem QueueDiscarded.slew_idle {s t : State} (h : QueueDiscarded s t)
    (none : s.authority.active = none → s.slew = SlewState.idle) : t.slew = SlewState.idle := by
  cases e : s.authority.active with
  | some a => exact h.idle (by rw [e]; rfl)
  | none => exact (h.same e).trans (none e)

/-! ## The requests that touch the time -/

theorem State.discardQueue_discarded (s : State) (dest : Option Port) : QueueDiscarded s (s.discardQueue dest) := by
  have first : (s.cancelActive dest).authority.active = none ∧
      (s.authority.active.isSome = true → (s.cancelActive dest).slew = SlewState.idle) ∧
      (s.authority.active = none → (s.cancelActive dest).slew = s.slew) := by
    unfold State.cancelActive
    cases e : s.authority.active with
    | none => exact ⟨e, nofun, fun _ => rfl⟩
    | some a =>
      dsimp only
      have only := (s.slewLeaves a.number .cancelled s.slew.remaining).adjustDone_only dest a.number .cancelled
        (some s.slew.remaining)
      exact ⟨by rw [only.authority]; rfl, fun _ => only.slew, nofun⟩
  have second : ∀ u : State, u.authority.active = none → (u.cancelWaiting dest).authority.active = none ∧
      (u.cancelWaiting dest).authority.waiting = none := fun u h => by
    unfold State.cancelWaiting
    cases e : u.authority.waiting with
    | none => exact ⟨h, e⟩
    | some w =>
      dsimp only
      have only := State.adjustDone_only { u with authority := { u.authority with waiting := none } } dest w.number
        .cancelled w.what.unbegun
      exact ⟨by rw [only.authority]; exact h, by rw [only.authority]⟩
  obtain ⟨active, idle, same⟩ := first
  obtain ⟨active', waiting⟩ := second _ active
  have only := (s.cancelActive dest).cancelWaiting_only dest
  exact ⟨active', waiting, fun h => only.slew.trans (idle h), fun h => only.slew.trans (same h)⟩

theorem State.discardQueue_timeConsistent {s : State} (h : TimeConsistent s) (dest : Option Port) :
    TimeConsistent (s.discardQueue dest) := by
  obtain ⟨range, slew, -⟩ := h
  have discarded := s.discardQueue_discarded dest
  exact TimeConsistent.of_idle (by rw [(s.discardQueue_only dest).backup]; exact range) (discarded.slew_idle slew.idle_of_not_active)
    discarded.active discarded.waiting

/-- A change of holder leaves no slew in progress, so that a slew needs no holder then (R42). -/
theorem State.changeHolder_timeConsistent {s : State} (h : TimeConsistent s) (new dest : Option Port) :
    TimeConsistent (s.changeHolder new dest) := by
  obtain ⟨range, slew, -⟩ := h
  have discarded := State.discardQueue_discarded { s with authority := { s.authority with holder := new } } dest
  have only := State.discardQueue_only { s with authority := { s.authority with holder := new } } dest
  refine TimeConsistent.of_same ?_ (((State.raiseAll_only _ .authorityChanged).trans
    (State.offerReference_only _)).sameTime)
  exact TimeConsistent.of_idle (by rw [only.backup]; exact range) (discarded.slew_idle slew.idle_of_not_active) discarded.active
    discarded.waiting

theorem State.claim_timeConsistent {s : State} (h : TimeConsistent s) (p : Port) (key : Option (BitVec 64)) :
    TimeConsistent (s.claim p key).1 := by
  unfold State.claim
  split
  · exact State.changeHolder_timeConsistent h ..
  · split
    · exact h
    · split
      · exact h
      · split
        · exact State.changeHolder_timeConsistent h ..
        · exact h

/-- A request that is queued behind the ACTIVE slew (R46): one for a slew asks for an amount within R52's range. -/
theorem State.enqueue_timeConsistent {s : State} (h : TimeConsistent s) (active : s.authority.active.isSome = true)
    {k : AdjustKind} (size : ∀ a, k = .slew a → 1 ≤ a.natAbs ∧ a.natAbs ≤ 1000000) : TimeConsistent (s.enqueue k) := by
  obtain ⟨range, ⟨iff, zero, progress, -⟩, -⟩ := h
  refine ⟨range, ⟨iff, zero, progress, fun _ => active⟩, fun w hw a ha => ?_⟩
  cases hw
  exact size a ha

theorem SlewConsistent.not_waiting {s : State} (h : SlewConsistent s) (active : s.authority.active.isSome = false) :
    s.slew = SlewState.idle ∧ s.authority.active = none ∧ s.authority.waiting = none := by
  have ⟨iff, _⟩ := h
  have none : s.slew.direction = .none := Classical.byContradiction fun dir => by
    rw [iff.2 dir] at active; cases active
  exact ⟨h.idle none, h.queue_empty none⟩

theorem State.applyAnswer_timeConsistent {s : State} (h : TimeConsistent s) (active : s.authority.active.isSome = false)
    {value : Option Nat} (within : ∀ v, value = some v → v ≤ Config.endOfRange) :
    TimeConsistent (s.applyAnswer value).1 := by
  unfold State.applyAnswer
  split
  · exact h
  next v =>
    obtain ⟨-, slew, -⟩ := h
    obtain ⟨idle, none, waits⟩ := slew.not_waiting active
    have only := s.applyTime_only v
    exact TimeConsistent.of_idle (s.applyTime_inRange (within v rfl)) (only.slew.trans idle)
      (by rw [State.answer_fst, only.authority]; exact none) (by rw [State.answer_fst, only.authority]; exact waits)

theorem blockSetTime_timeConsistent {s : State} (h : TimeConsistent s) (p : Port) (sec : BitVec 32) (us : BitVec 24) :
    TimeConsistent (blockSetTime p sec us s).1 := by
  unfold blockSetTime
  split
  · exact h
  · split
    · exact h
    · split
      · exact h
      · split
        next active => exact State.enqueue_timeConsistent h active nofun
        next idle => exact State.applyAnswer_timeConsistent h (Bool.eq_false_iff.2 idle) fun v => setTarget_le

theorem blockStep_timeConsistent {s : State} (h : TimeConsistent s) (p : Port) (amount : BitVec 32) :
    TimeConsistent (blockStep p amount s).1 := by
  unfold blockStep
  split
  · exact h
  · split
    · exact h
    · split
      · exact h
      · split
        · exact h
        · split
          next active => exact State.enqueue_timeConsistent h active nofun
          next idle => exact State.applyAnswer_timeConsistent h (Bool.eq_false_iff.2 idle) fun v => stepTarget_le

theorem blockSlew_timeConsistent {s : State} (h : TimeConsistent s) (p : Port) (amount : BitVec 32) :
    TimeConsistent (blockSlew p amount s).1 := by
  unfold blockSlew
  split
  · exact h
  next holder =>
    split
    · exact h
    next size =>
      have within : 1 ≤ amount.toInt.natAbs ∧ amount.toInt.natAbs ≤ 1000000 := by omega
      split
      · exact h
      next set =>
        split
        · exact h
        · split
          next active => exact State.enqueue_timeConsistent h active fun a e => by cases e; exact within
          next idle =>
            obtain ⟨range, slew, -⟩ := h
            obtain ⟨-, -, waits⟩ := slew.not_waiting (Bool.eq_false_iff.2 idle)
            have held : s.authority.holder = some p := of_decide_eq_true (Bool.eq_true_of_not_eq_false holder)
            exact State.beginSlew_timeConsistent (s := s.takeNumber) range set
              (by rw [show s.takeNumber.authority.holder = some p from held]; rfl) waits _ within

theorem blockResumeReference_sameTime (s : State) (p : Port) : SameTime s (blockResumeReference p s).1 := by
  have only := blockResumeReference_only p s
  refine ⟨?_, only.slew, only.authority⟩
  unfold blockResumeReference
  split
  · exact QualityMoves.of_eq rfl
  · split
    · exact QualityMoves.of_eq rfl
    next q =>
      split
      · exact QualityMoves.of_eq rfl
      · exact QualityMoves.of_setQuality nofun (by rw [not_not.1 q]; nofun)

theorem State.clearBackup_backup (s : State) : s.clearBackup.backup = Backup.reset := by
  unfold State.clearBackup
  rw [(State.causeAttached_only ..).backup, (State.raiseAll_only ..).backup]

theorem blockClearBackup_timeConsistent {s : State} (h : TimeConsistent s) (p : Port) :
    TimeConsistent (blockClearBackup p s).1 := by
  unfold blockClearBackup
  split
  · exact h
  · split
    · exact h
    · split
      · exact h
      next idle =>
        obtain ⟨-, slew, -⟩ := h
        rw [Bool.or_eq_true, not_or] at idle
        obtain ⟨rest, none, waits⟩ := slew.not_waiting (Bool.eq_false_iff.2 idle.1)
        have only := s.clearBackup_only
        refine TimeConsistent.of_idle ?_ (only.slew.trans rest) (by rw [State.answer_fst, only.authority]; exact none)
          (by rw [State.answer_fst, only.authority]; exact waits)
        rw [State.answer_fst, State.clearBackup_backup]
        exact ⟨by decide, fun _ => ⟨rfl, rfl, rfl⟩, nofun⟩

/-! ## The resets -/

theorem State.giveUp_timeConsistent {s : State} (h : TimeConsistent s) (p : Port) : TimeConsistent (s.giveUp p) := by
  have only : OnlyChanges [.schedule, .lines, .channels, .subs, .digest, .ports] s
      (((((s.freeEntriesOf p).releaseLines p).releaseChannels p).endGone s).dropSubs p) :=
    (((((State.freeEntriesOf_only ..).mono (by decide)).trans ((State.releaseLines_only ..).mono (by decide))).trans
      ((State.releaseChannels_only ..).mono (by decide))).trans ((State.endGone_only ..).mono (by decide))).trans
      ((State.dropSubs_only ..).mono (by decide))
  have kept := h.of_same only.sameTime
  unfold State.giveUp State.releaseAuthorityOf
  split
  · exact State.changeHolder_timeConsistent kept ..
  · exact kept

theorem State.portGone_timeConsistent {s : State} (h : TimeConsistent s) (p : Port) : TimeConsistent (s.portGone p) := by
  have gone : TimeConsistent (s.setPortState p .resetHold) := h.of_same (s.setPort_only ..).sameTime
  refine (State.giveUp_timeConsistent gone p).of_same (OnlyChanges.sameTime (ps := [.digest, .ports]) ?_)
  exact ((State.abandonWalk_only ..).mono (by decide)).trans ((State.setPort_only ..).mono (by decide))

theorem blockDetach_timeConsistent {s : State} (h : TimeConsistent s) (p : Port) : TimeConsistent (blockDetach p s).1 := by
  have gone : TimeConsistent (s.setPortState p .resetHold) := h.of_same (s.setPort_only ..).sameTime
  refine (State.giveUp_timeConsistent gone p).of_same (OnlyChanges.sameTime (ps := [.ports]) ?_)
  exact ((State.setPort_only ..).trans (State.setPort_only ..)).trans (State.setPort_only ..)

/-- No slew is in progress, and the queue is empty. -/
structure NoSlew (s : State) : Prop where
  slew : s.slew = SlewState.idle
  active : s.authority.active = none
  waiting : s.authority.waiting = none

/-- A part that does not run has no slew in progress: no port is attached, and so none holds the authority. -/
theorem TimeConsistent.noSlew_of_not_running {s : State} (h : TimeConsistent s) (ports : PortsConsistent s)
    (off : s.running = false) : NoSlew s := by
  obtain ⟨-, slew, -⟩ := h
  obtain ⟨holds, -, -, resting, -⟩ := ports
  have ⟨_, _, progress, _⟩ := slew
  have none : s.slew.direction = .none := Classical.byContradiction fun dir => by
    obtain ⟨-, -, -, -, -, holder⟩ := progress dir
    obtain ⟨p, hp⟩ := Option.isSome_iff_exists.1 holder
    exact (holds p (resting off p)).2 hp
  obtain ⟨active, waiting⟩ := slew.queue_empty none
  exact ⟨slew.idle none, active, waiting⟩

/-- As the part leaves reset the authority takes the holder that the straps name (R39). -/
theorem State.leaveReset_authority (s : State) (straps : BitVec 3) :
    (s.leaveReset straps).authority =
      { s.authority with holder := s.leaveChannels.leavePorts.strapHolder straps } := by
  have before : OnlyChanges [.channels, .ports] s s.leaveChannels.leavePorts :=
    ((OnlyChanges.foldl (fun t c => State.setChannel_only ..) _ _).mono (by decide)).trans
      ((OnlyChanges.foldl (fun t c => State.setPort_only ..) _ _).mono (by decide))
  have after : OnlyChanges [.ports] (s.leaveChannels.leavePorts.leaveUnits straps) (s.leaveReset straps) :=
    OnlyChanges.ite (State.raiseAll_only ..) (OnlyChanges.refl ..)
  rw [after.authority, ← before.authority]
  rfl

theorem State.leaveReset_timeConsistent {s : State} (range : TimeInRange s.backup) (h : NoSlew s) (straps : BitVec 3) :
    TimeConsistent (s.leaveReset straps) := by
  have only := s.leaveReset_only straps
  exact TimeConsistent.of_idle (by rw [only.backup]; exact range) (only.slew.trans h.slew)
    (by rw [State.leaveReset_authority]; exact h.active) (by rw [State.leaveReset_authority]; exact h.waiting)

theorem State.powerOn_timeConsistent {s : State} (range : TimeInRange s.backup) (straps : BitVec 3) (causes : BitVec 5) :
    TimeConsistent (s.powerOn straps causes) := by
  unfold State.powerOn
  dsimp only
  split
  · exact TimeConsistent.of_idle range rfl rfl rfl
  · exact State.leaveReset_timeConsistent
      (s := { s.resetMain with pins := { s.pins with mainSupply := true }, leaveCauses := causes }) range ⟨rfl, rfl, rfl⟩ _

theorem Quality.examined_unset (q : Quality) : q.examined = .unset ↔ q = .unset := by cases q <;> decide

theorem Quality.unpowered_unset (q : Quality) : q.unpowered = .unset ↔ q = .unset := by cases q <;> decide

theorem State.examineQuality_quality (s : State) : QualityMoves s s.examineQuality :=
  ⟨_, rfl, Quality.examined_unset _⟩

theorem State.takeReset_timeConsistent {s : State} (range : TimeInRange s.backup) : TimeConsistent s.takeReset :=
  TimeConsistent.of_idle (range.of_quality s.examineQuality_quality) rfl rfl rfl

theorem State.losePower_timeConsistent {s : State} (range : TimeInRange s.backup) : TimeConsistent s.losePower := by
  have moved : QualityMoves s (s.setQuality s.backup.quality.unpowered) := ⟨_, rfl, Quality.unpowered_unset _⟩
  have kept : TimeInRange (s.setQuality s.backup.quality.unpowered).backup := range.of_quality moved
  exact TimeConsistent.of_idle kept rfl rfl rfl

/-- The contents of a backup domain that comes back lie within the ranges that always hold of it (R1, R5, R7, R16). -/
theorem freeBackup_inRange (n : Nat) : TimeInRange (freeBackup n) := by
  have bound : ∀ m, Config.freeValue m % (Config.endOfRange + 1) ≤ Config.endOfRange := fun m =>
    Nat.le_of_lt_succ (Nat.mod_lt _ (Nat.succ_pos _))
  have agreed : ∀ b : Backup, b.count ≤ Config.endOfRange → TimeInRange b.agreed := fun b h => by
    unfold Backup.agreed
    cases q : b.quality with
    | unset => exact ⟨Nat.zero_le _, fun _ => ⟨rfl, rfl, rfl⟩, nofun⟩
    | freeRun | tracking | holdover =>
      dsimp only
      split <;> rename_i held
      · exact ⟨Nat.le_refl _, fun u => (by cases u), fun _ => rfl⟩
      · exact ⟨h, fun u => absurd (q.symm.trans u) nofun, fun k => absurd k held⟩
  exact agreed _ (bound n)

/-! ## Every command -/

/-- Every command but a transaction's bytes keeps the time consistent: the requests that touch the time by their own
lemmas, the rest by what they leave unchanged. -/
theorem exec_timeConsistent_proper (i : Instr) (s t : State) (proper : ∀ p bs inc, i ≠ .badRequest p bs inc)
    (h : exec i s = .next t) (ports : PortsConsistent s) (time : TimeConsistent s) : TimeConsistent t := by
  have frame := exec_changes_proper h proper
  have asked : ∀ {p n block}, (∀ u, TimeConsistent u → TimeConsistent (block u).1) →
      TimeConsistent (s.request p n block) := fun {p n block} keeps => by
    have shifted : ∀ bs, TimeConsistent (s.shiftOut p bs) := fun bs => time.of_same (s.setPort_only ..).sameTime
    unfold State.request
    split
    · exact shifted _
    · exact shifted _
    · have kept := keeps _ (shifted ((s.port p).requestMiso (n + 3)))
      split <;> rename_i e <;> rw [e] at kept
      · exact kept.of_same (State.setPort_only ..).sameTime
      · exact kept
  have ⟨range, _, _⟩ := time
  cases i
  all_goals dsimp only [commandParts] at frame
  case claimAuthority p key =>
    cases h
    refine asked fun u hu => ?_
    unfold blockClaimAuthority
    split
    · exact hu
    · exact State.claim_timeConsistent hu ..
  case releaseAuthority p =>
    cases h
    refine asked fun u hu => ?_
    unfold blockReleaseAuthority
    split
    · exact hu
    · exact State.changeHolder_timeConsistent hu ..
  case setKey p key =>
    cases h
    refine asked fun u hu => ?_
    unfold blockSetKey
    split
    · exact hu
    · split <;> exact hu
  case setTime p sec us => cases h; exact asked fun u hu => blockSetTime_timeConsistent hu p sec us
  case step p amount => cases h; exact asked fun u hu => blockStep_timeConsistent hu p amount
  case slew p amount => cases h; exact asked fun u hu => blockSlew_timeConsistent hu p amount
  case cancelAdjust p =>
    cases h
    refine asked fun u hu => ?_
    unfold blockCancelAdjust
    split
    · exact hu
    · exact State.discardQueue_timeConsistent hu _
  case selectSource p sel =>
    cases h
    refine asked fun u hu => ?_
    unfold blockSelectSource
    split
    · exact hu
    · split
      · exact hu
      · split <;> exact hu
  case resumeReference p => cases h; exact asked fun u hu => hu.of_same (blockResumeReference_sameTime u p)
  case clearBackup p => cases h; exact asked fun u hu => blockClearBackup_timeConsistent hu p
  case detach p => cases h; exact asked fun u hu => blockDetach_timeConsistent hu p
  case portReset p =>
    cases h
    have low : TimeConsistent (s.setPrst p .low) := time.of_same (s.setPrst_only ..).sameTime
    split
    · exact State.portGone_timeConsistent low p
    · exact low
  case deviceReset =>
    cases h
    split
    · exact State.takeReset_timeConsistent range
    · exact time.of_same (s.holdReset_only _).sameTime
  case partLeavesReset straps =>
    cases h
    split
    next held =>
      split
      · have off : s.running = false := by unfold State.running; rw [held]; simp
        have ⟨slew, active, waiting⟩ := time.noSlew_of_not_running ports off
        exact State.leaveReset_timeConsistent (s := s.holdReset false) range ⟨slew, active, waiting⟩ straps
      · exact time.of_same (s.holdReset_only _).sameTime
    · exact time
  case powerOnRetained straps =>
    cases h
    split
    · exact State.powerOn_timeConsistent (range.of_quality s.examineQuality_quality) ..
    · exact time
  case powerOnBackupLost straps =>
    cases h
    split
    · exact State.powerOn_timeConsistent (s := s.resetBackup) ⟨Nat.zero_le _, fun _ => ⟨rfl, rfl, rfl⟩, nofun⟩ ..
    · exact time
  case mainSupplyLoss =>
    cases h
    split
    · exact State.losePower_timeConsistent range
    · exact time
  case backupSupplyLoss => cases h; split <;> exact time
  case backupSupplyReturn =>
    cases h
    split
    next absent =>
      have off : s.running = false := by unfold State.running; rw [absent.1]; rfl
      have ⟨slew, active, waiting⟩ := time.noSlew_of_not_running ports off
      exact TimeConsistent.of_idle (freeBackup_inRange _) slew active waiting
    · exact time
  case timebaseAdvance part =>
    have micro : ∀ first fires, TimeConsistent (s.micro first fires) := fun first fires => by
      unfold State.micro
      split
      · exact State.runMicro_timeConsistent time ..
      next off =>
        split
        · obtain ⟨slew, active, waiting⟩ := time.noSlew_of_not_running ports (Bool.eq_false_iff.2 off)
          exact TimeConsistent.of_idle (Backup.silentAdvance_inRange range) slew active waiting
        · exact time
    cases h
    cases part
    · exact micro ..
    · exact micro ..
    · exact State.finishAdvance_timeConsistent time _
  case slewBlockEnd part | slewEnd part =>
    cases h
    cases part
    · exact iteInduction (fun _ => State.runMicro_timeConsistent time ..) fun _ => time
    · exact iteInduction (fun _ => State.runMicro_timeConsistent time ..) fun _ => time
    · exact State.finishAdvance_timeConsistent time _
  case referenceEdge gap =>
    cases h
    split
    · exact time.of_same ⟨s.takeReferenceEdge_quality gap, (s.takeReferenceEdge_only gap).slew,
        (s.takeReferenceEdge_only gap).authority⟩
    · exact time
  case windowEnd =>
    cases h
    split
    · exact time.of_same ⟨s.endWindow_quality, s.endWindow_only.slew, s.endWindow_only.authority⟩
    · exact time
  case referenceLoss =>
    cases h
    split
    · exact time.of_same ⟨s.loseReference_quality, s.loseReference_only.slew, s.loseReference_only.authority⟩
    · exact time
  case badRequest p bs inc => exact absurd rfl (proper p bs inc)
  all_goals exact time.of_same frame.sameTime

/-- Every command keeps the time consistent (R1, R5, R7, R14, R16, R46, R52). -/
theorem exec_timeConsistent {i : Instr} {s t : State} (h : exec i s = .next t) (ports : PortsConsistent s)
    (time : TimeConsistent s) : TimeConsistent t :=
  exec_keeps (fun _ _ only time => time.of_same only.sameTime) exec_timeConsistent_proper h ports time

/-- What every command keeps, every step keeps: the queue of commands is no part of it. -/
theorem step_keeps {P Q : State → Prop} (queue : ∀ s q, P s → P (s.withPending q)) (queue' : ∀ s q, Q s → Q (s.withPending q))
    (run : ∀ i s t, exec i s = .next t → Q s → P s → P t) {s t : State} (h : step s = .next t) (hq : Q s) (hp : P s) :
    P t := by
  unfold step at h
  split at h
  · cases h; exact hp
  next i rest _ => exact run i _ t h (queue' s rest hq) (queue s rest hp)

/-- Settles O55. -/
theorem stepsKeepTimeConsistent : Obligations.StepsKeepTimeConsistent := by
  intro s t ports time h
  exact step_keeps (P := TimeConsistent) (Q := PortsConsistent) (fun _ _ k => k) (fun _ _ k => k)
    (fun _ _ _ h => exec_timeConsistent h) h ports time

end Sys2Proof.Machine
end

section
/-! The schedule table stays consistent, with every due time ahead of now: the property of one entry, and the operations
over the table that keep it (R60 to R62, R65, R88, R91, R95, R98, R103 to R110, R113). -/

namespace Sys2Proof.Machine

/-! ## The property of one entry, and of the table -/

/-- What holds of an entry that is not FREE, in a state: it is consistent, the quality is not UNSET, the part runs, and a
due time it is ARMED for lies ahead, as DueAhead says. -/
structure Body.Ok (s : State) (b : Body) : Prop where
  consistent : b.Consistent
  set : s.backup.quality ≠ .unset
  running : s.running = true
  ahead : ∀ d, b.run = .armed d →
    (s.backup.rangeHeld = false → if s.unfired = true then s.now ≤ d + 1 else s.now < d) ∧
    (s.backup.rangeHeld = true → Config.endOfRange ≤ d)

/-- Every entry is as it should be, and the range is held at its end alone. -/
structure TableOk (s : State) : Prop where
  held : s.backup.rangeHeld = true → s.now = Config.endOfRange
  entries : ∀ i b, (s.entry i).body = some b → b.Ok s

theorem TableOk.intro {s : State} (range : TimeInRange s.backup) (table : TableConsistent s) (ahead : DueAhead s) :
    TableOk s := by
  obtain ⟨-, -, held⟩ := range
  refine ⟨held, fun i b hb => ?_⟩
  obtain ⟨consistent, set, running⟩ := table i b hb
  exact ⟨consistent, set, running, fun d hr => ahead i d (Entry.armedDue_of hb hr)⟩

theorem TableOk.tableConsistent {s : State} (h : TableOk s) : TableConsistent s := fun i b hb =>
  ⟨(h.entries i b hb).consistent, (h.entries i b hb).set, (h.entries i b hb).running⟩

theorem TableOk.dueAhead {s : State} (h : TableOk s) : DueAhead s := fun i d hd => by
  obtain ⟨b, hb, hr⟩ := Entry.armedDue_eq_some.1 hd
  exact (h.entries i b hb).ahead d hr

/-- A due time after now lies ahead, whatever is left of an advance. -/
theorem ahead_of_lt {s : State} {d : Nat} (held : s.backup.rangeHeld = true → s.now = Config.endOfRange)
    (h : s.now < d) :
    (s.backup.rangeHeld = false → if s.unfired = true then s.now ≤ d + 1 else s.now < d) ∧
      (s.backup.rangeHeld = true → Config.endOfRange ≤ d) :=
  ⟨fun _ => by split <;> omega, fun k => by rw [← held k]; omega⟩

/-- A due time that lies ahead is at most one value behind now. -/
theorem TableOk.near {s : State} (h : TableOk s) {i : EntryIx} {b : Body} {d : Nat} (hb : (s.entry i).body = some b)
    (hr : b.run = .armed d) : s.now ≤ d + 1 := by
  obtain ⟨free, atEnd⟩ := (h.entries i b hb).ahead d hr
  cases held : s.backup.rangeHeld with
  | false =>
    have := free held
    split at this <;> omega
  | true =>
    have := atEnd held
    have := h.held held
    omega

/-- What the table's property depends on beside the entries. -/
structure SameClock (s t : State) : Prop where
  now : t.now = s.now
  held : t.backup.rangeHeld = s.backup.rangeHeld
  unset : t.backup.quality = .unset ↔ s.backup.quality = .unset
  unfired : t.unfired = s.unfired
  running : t.running = s.running

theorem OnlyChanges.sameClock {ps : List Part} {s t : State} (h : OnlyChanges ps s t)
    (n : Part.backup ∉ ps ∧ Part.unfired ∉ ps ∧ Part.pins ∉ ps := by decide) : SameClock s t :=
  ⟨h.now n.1, by rw [h.backup n.1], by rw [h.backup n.1], h.unfired n.2.1, h.running n.2.2⟩

theorem Body.Ok.of_clock {s t : State} {b : Body} (h : b.Ok s) (k : SameClock s t) : b.Ok t := by
  obtain ⟨consistent, set, running, ahead⟩ := h
  refine ⟨consistent, fun u => set (k.unset.1 u), k.running.trans running, ?_⟩
  rw [k.now, k.held, k.unfired]
  exact ahead

/-- Where each entry is as before or as it should be, the table is as it should be. -/
theorem TableOk.of_clock {s t : State} (h : TableOk s) (k : SameClock s t)
    (entries : ∀ i b, (t.entry i).body = some b → (s.entry i).body = some b ∨ b.Ok s) : TableOk t := by
  refine ⟨fun e => ?_, fun i b hb => ?_⟩
  · rw [k.now]; exact h.held (k.held ▸ e)
  · obtain old | ok := entries i b hb
    · exact (h.entries i b old).of_clock k
    · exact ok.of_clock k

theorem TableOk.of_change {ps : List Part} {s t : State} (h : TableOk s) (only : OnlyChanges ps s t)
    (entries : ∀ i b, (t.entry i).body = some b → (s.entry i).body = some b ∨ b.Ok s)
    (n : Part.backup ∉ ps ∧ Part.unfired ∉ ps ∧ Part.pins ∉ ps := by decide) : TableOk t :=
  h.of_clock (only.sameClock n) entries

theorem TableOk.of_only {ps : List Part} {s t : State} (h : TableOk s) (only : OnlyChanges ps s t)
    (n : Part.schedule ∉ ps ∧ Part.backup ∉ ps ∧ Part.unfired ∉ ps ∧ Part.pins ∉ ps := by decide) : TableOk t :=
  h.of_change only (fun i b hb => .inl (by rw [← only.entry i n.1]; exact hb)) n.2

theorem TableOk.of_quality {ps : List Part} {s t : State} (h : TableOk s) (moves : QualityMoves s t)
    (only : OnlyChanges ps s t) (n : Part.schedule ∉ ps ∧ Part.unfired ∉ ps ∧ Part.pins ∉ ps := by decide) :
    TableOk t := by
  obtain ⟨q, e, unset⟩ := moves
  refine h.of_clock ⟨?_, ?_, ?_, only.unfired n.2.1, only.running n.2.2⟩
    fun i b hb => .inl (by rw [← only.entry i n.1]; exact hb)
  · unfold State.now; rw [e]
  · rw [e]
  · rw [e]; exact unset

/-- An empty table is as it should be. -/
theorem TableOk.of_empty {s : State} (range : TimeInRange s.backup) (empty : ∀ i, (s.entry i).body = none) : TableOk s := by
  obtain ⟨-, -, held⟩ := range
  exact ⟨held, fun i b hb => by rw [empty i] at hb; cases hb⟩

theorem TableOk.empty_of_not_running {s : State} (h : TableOk s) (off : s.running = false) (i : EntryIx) :
    (s.entry i).body = none := by
  cases hb : (s.entry i).body with
  | none => rfl
  | some b => have := (h.entries i b hb).running; rw [off] at this; cases this

theorem TableOk.bumpFull {s : State} (h : TableOk s) : TableOk s.bumpFull :=
  h.of_change s.bumpFull_only fun i b hb => .inl (by rw [← State.entry_bumpFull s i]; exact hb)

theorem TableOk.bumpBoth {s : State} (h : TableOk s) : TableOk s.bumpBoth :=
  h.of_change s.bumpBoth_only fun i b hb => .inl (by rw [← State.entry_bumpBoth s i]; exact hb)

theorem TableOk.setBody {s : State} (h : TableOk s) (i : EntryIx) {b : Body} (ok : b.Ok s) :
    TableOk (s.setBody i (some b)) := by
  refine h.of_change (s.setBody_only i _) fun j x hx => ?_
  rw [State.entry_setBody] at hx
  split at hx
  · cases hx; exact .inr ok
  · exact .inl hx

theorem TableOk.vacate {s : State} (h : TableOk s) (i : EntryIx) : TableOk (s.vacate i) := by
  refine h.of_change (s.vacate_only i) fun j x hx => ?_
  rw [State.entry_vacate] at hx
  split at hx
  · cases hx
  · exact .inl hx

theorem TableOk.endGone {s : State} (h : TableOk s) (b : State) : TableOk (s.endGone b) := h.of_only (s.endGone_only b)

/-! ## Firings -/

/-- The definition, the actions and the owner of an entry that stays after a firing are what they were (R102). -/
theorem Body.afterFiring_fields {b x : Body} {run : Option RunState} {late : Bool} {missed : Nat} {st : Timestamp}
    (h : b.afterFiring run late missed st = some x) :
    x.defn = b.defn ∧ x.line = b.line ∧ x.record = b.record ∧ x.keep = b.keep ∧
      x.remaining = (b.remaining.map fun n => n - 1) ∧ x.fireCount ≤ 65535 ∧
      (run = some x.run ∨ run = none ∧ x.run = .spent ∧ b.keep = true) := by
  unfold Body.afterFiring at h
  dsimp only at h
  split at h
  · cases h; exact ⟨rfl, rfl, rfl, rfl, rfl, Nat.min_le_left .., .inl rfl⟩
  · split at h
    next keep => cases h; exact ⟨rfl, rfl, rfl, rfl, rfl, Nat.min_le_left .., .inr ⟨rfl, rfl, keep⟩⟩
    · cases h

/-- The next state of an entry that stays in its round: ARMED as nextRun_armed says, or WAITING for an AFTER entry. -/
theorem Body.nextRun_cases {b : Body} {late : Bool} {due now : Nat} {r : RunState}
    (h : b.nextRun late due now = some r) :
    (b.remaining.map fun n => n - 1) ≠ some 0 ∧
      ((∃ d, r = .armed d) ∨ r = .waiting ∧ ∃ c k d pol, b.defn = .after c k d pol) := by
  unfold Body.nextRun at h
  split at h
  · cases h
  next more =>
    refine ⟨more, ?_⟩
    split at h
    next => cases h
    next => cases h; exact .inl ⟨_, rfl⟩
    next =>
      rw [Option.map_eq_some_iff] at h
      obtain ⟨m, -, e⟩ := h
      exact .inl ⟨m, e.symm⟩
    next c k d pol e => cases h; exact .inr ⟨rfl, c, k, d, pol, e⟩

/-- A due time that a firing gives an entry is one that its definition allows (R88, R91, R105). -/
theorem Body.allows_of_nextRun {b : Body} (h : b.Consistent) {late : Bool} {due now d : Nat} (hr : b.run = .armed due)
    (next : b.nextRun late due now = some (.armed d)) : b.defn.allows d := by
  obtain ⟨a, p, e, rfl⟩ | ⟨pat, off, e, -⟩ := Body.nextRun_armed next
  · have allowed := h.dueAllowed due (by rw [hr]; rfl)
    rw [e] at allowed ⊢
    obtain ⟨k, rfl⟩ := allowed
    split
    · exact ⟨k + 1, by ring⟩
    · exact firstGridAfter_onGrid a p now
  · rw [e]; trivial

/-- What a firing leaves of an entry is as it should be (R102, R103, R105). -/
theorem Body.afterFiring_ok {s : State} {b x : Body} {due : Nat} {late : Bool} {missed : Nat} {st : Timestamp}
    (h : b.Consistent) (set : s.backup.quality ≠ .unset) (running : s.running = true)
    (held : s.backup.rangeHeld = true → s.now = Config.endOfRange) (hr : b.run = .armed due)
    (near : late = false → s.now ≤ due + 1)
    (fired : b.afterFiring (b.nextRun late due s.now) late missed st = some x) : x.Ok s := by
  obtain ⟨defn, line, record, keep, remaining, count, run⟩ := Body.afterFiring_fields fired
  have armed : ∀ d, x.run = .armed d → b.nextRun late due s.now = some (.armed d) := fun d e => by
    obtain next | ⟨-, spent, -⟩ := run
    · rw [next, e]
    · rw [e] at spent; cases spent
  refine ⟨⟨?_, ?_, ?_, ?_, ?_, ?_, ?_, count⟩, set, running, fun d e => ?_⟩
  · rw [line, record]; exact h.acts
  · intro d hd
    rw [defn]
    obtain next | ⟨-, spent, -⟩ := run
    · obtain ⟨-, ⟨e, he⟩ | ⟨he, -⟩⟩ := Body.nextRun_cases next
      · rw [he] at hd; cases hd
        exact Body.allows_of_nextRun h hr (armed _ he)
      · rw [he] at hd; cases hd
    · rw [spent] at hd; cases hd
  · intro waits
    rw [defn]
    obtain next | ⟨-, spent, -⟩ := run
    · obtain ⟨-, ⟨e, he⟩ | ⟨-, after⟩⟩ := Body.nextRun_cases next
      · rw [he] at waits; obtain w | w := waits <;> cases w
      · exact after
    · rw [spent] at waits; obtain w | w := waits <;> cases w
  · rw [defn]; exact h.period
  · intro at'
    rw [remaining, h.single (by rw [← defn]; exact at')]; rfl
  · intro zero
    obtain next | ⟨-, spent, -⟩ := run
    · exact absurd (remaining ▸ zero) (Body.nextRun_cases next).1
    · exact spent
  · intro spent
    obtain next | ⟨-, -, kept⟩ := run
    · obtain ⟨-, ⟨e, he⟩ | ⟨he, -⟩⟩ := Body.nextRun_cases next <;> rw [he] at spent <;> cases spent
    · rw [keep]; exact kept
  · exact ahead_of_lt held (Body.lt_of_nextRun h.period near (armed d e))

/-- A firing of one entry keeps the table as it should be; of that entry no more is asked than that it is consistent and,
where it fires on time, due now or at the value before. -/
theorem State.fireWithin_ok {s : State} {i : EntryIx} {b : Body} {due : Nat} {late : Bool}
    (held : s.backup.rangeHeld = true → s.now = Config.endOfRange) (hb : (s.entry i).body = some b)
    (hr : b.run = .armed due) (others : ∀ j x, j ≠ i → (s.entry j).body = some x → x.Ok s) (consistent : b.Consistent)
    (set : s.backup.quality ≠ .unset) (running : s.running = true) (near : late = false → s.now ≤ due + 1)
    (missed : Nat) : TableOk (s.fireWithin i late missed) := by
  have only := s.fireWithin_only i late missed
  have fires := State.fireWithin_fires hb hr late missed
  unfold Fires at fires
  dsimp only at fires
  rw [only.now, only.stamp] at fires
  obtain ⟨⟨here, rest⟩, -⟩ := fires
  refine ⟨?_, fun j x hx => ?_⟩
  · rw [only.backup, only.now]; exact held
  · refine Body.Ok.of_clock (s := s) ?_ only.sameClock
    by_cases e : j = i
    · subst e
      rw [here] at hx
      exact Body.afterFiring_ok consistent set running held hr near hx
    · rw [rest j e] at hx
      exact others j x e hx

theorem TableOk.fireWithin {s : State} (h : TableOk s) (i : EntryIx) (late : Bool) (missed : Nat) :
    TableOk (s.fireWithin i late missed) := by
  cases e : (s.entry i).armedDue with
  | none => rw [State.fireWithin_not_armed e]; exact h
  | some due =>
    obtain ⟨b, hb, hr⟩ := Entry.armedDue_eq_some.1 e
    obtain ⟨consistent, set, running, -⟩ := h.entries i b hb
    exact State.fireWithin_ok h.held hb hr (fun j x _ hx => h.entries j x hx) consistent set running
      (fun _ => h.near hb hr) missed

theorem TableOk.fire {s : State} (h : TableOk s) (i : EntryIx) (late : Bool) (missed : Nat) :
    TableOk (s.fire i late missed) := (h.fireWithin i late missed).endGone s

theorem TableOk.fireDue {s : State} (h : TableOk s) (v : Nat) : TableOk (s.fireDue v) :=
  foldl_keeps (P := TableOk) (fun _ i k => iteInduction (fun _ => k.fire i false 0) fun _ => k) allEntries s h

/-! ## The firings of an advance, made or left -/

/-- The table as it should be while firings of an advance are left, whether any are left in s or not. -/
def TableLeft (s : State) : Prop := TableOk { s with unfired := true }

theorem TableLeft.firesOnce {s : State} (h : TableLeft s) : s.FiresOnce := fun i b _ _ hb hr =>
  Body.lt_of_nextRun (h.entries i b hb).consistent.period fun _ => h.near hb hr

theorem TableLeft.of_unfired {s : State} (h : TableOk s) (u : s.unfired = true) : TableLeft s := by
  unfold TableLeft
  rw [← u]
  exact h

/-- An entry of which no due time has come is as it should be with no firing left. -/
theorem Body.Ok.of_left {s t : State} {b : Body} (h : b.Ok { s with unfired := true })
    (held : s.backup.rangeHeld = true → s.now = Config.endOfRange)
    (same : t.backup = s.backup ∧ t.running = s.running) (later : ∀ d, b.run = .armed d → s.now < d) : b.Ok t := by
  obtain ⟨consistent, set, running, -⟩ := h
  obtain ⟨backup, on⟩ := same
  refine ⟨consistent, by rw [backup]; exact set, on.trans running, fun d hr => ?_⟩
  have now : t.now = s.now := congrArg Backup.count backup
  exact ahead_of_lt (by rw [backup, now]; exact held) (by rw [now]; exact later d hr)

theorem State.mem_dueAt {s : State} {i : EntryIx} {d : Nat} : i ∈ s.dueAt d ↔ (s.entry i).armedDue = some d := by
  unfold State.dueAt
  rw [List.mem_filter]
  simp [List.mem_finRange]

theorem State.mem_passed {s : State} {i : EntryIx} : i ∈ s.passed ↔ ∃ d, (s.entry i).armedDue = some d ∧ d < s.now := by
  unfold State.passed
  rw [List.mem_filter]
  simp [List.mem_finRange, Option.any_eq_true]

theorem State.reached_nodup (s : State) : (s.passed ++ s.dueAt s.now).Nodup := by
  refine List.Nodup.append ((List.nodup_finRange 64).filter _) ((List.nodup_finRange 64).filter _) fun i hp hd => ?_
  obtain ⟨d, e, lt⟩ := State.mem_passed.1 hp
  rw [State.mem_dueAt.1 hd] at e
  cases e
  exact Nat.lt_irrefl _ lt

/-- An entry that an advance does not reach is ARMED for later, if it is ARMED. -/
theorem State.lt_of_not_reached {s : State} {i : EntryIx} (h : i ∉ s.passed ++ s.dueAt s.now) {b : Body} {d : Nat}
    (hb : (s.entry i).body = some b) (hr : b.run = .armed d) : s.now < d := by
  rw [List.mem_append, not_or, State.mem_passed, State.mem_dueAt, Entry.armedDue_of hb hr] at h
  obtain ⟨passed, due⟩ := h
  have : d ≠ s.now := fun e => due (by rw [e])
  have : ¬ d < s.now := fun lt => passed ⟨d, rfl, lt⟩
  omega

/-- The firings of an advance leave every due time ahead (R98). -/
theorem State.fireReached_ok {s : State} (h : TableLeft s) : TableOk s.fireReached := by
  have order := State.fireReached_inOrder h.firesOnce
  have only := s.fireReached_only
  have held : s.backup.rangeHeld = true → s.now = Config.endOfRange := h.held
  refine ⟨by rw [only.backup, only.now]; exact held, fun i x hx => ?_⟩
  by_cases mem : i ∈ s.passed ++ s.dueAt s.now
  · obtain ⟨b, due, missed, hb, hr, entry⟩ := order.entry_of_mem s.reached_nodup mem
    rw [entry] at hx
    obtain ⟨consistent, set, running, -⟩ := h.entries i b hb
    exact (Body.afterFiring_ok (s := s) consistent set running held hr (fun _ => h.near hb hr) hx).of_clock only.sameClock
  · rw [order.entry_of_not_mem mem] at hx
    exact (h.entries i x hx).of_left held ⟨only.backup, only.running⟩ fun d => State.lt_of_not_reached mem hx

theorem TableOk.fireUnfired {s : State} (h : TableOk s) : TableOk s.fireUnfired := by
  cases u : s.unfired with
  | false => rw [State.fireUnfired_none u]; exact h
  | true =>
    rw [State.fireUnfired_left u]
    have left : TableLeft s := TableLeft.of_unfired h u
    exact State.fireReached_ok (s := { s with unfired := false }) left

/-- One firing that is left, made alone: where it was the last one every due time is ahead (R98; log 30). -/
theorem TableOk.fireOne {s : State} (h : TableOk s) : TableOk s.fireOne := by
  cases u : s.unfired with
  | false => rw [State.fireOne_none u]; exact h
  | true =>
    have left := TableLeft.of_unfired h u
    have reached := s.reached_eq
    cases e : s.reached with
    | nil =>
      have : s.fireOne = { s with unfired := false } := by unfold State.fireOne; rw [if_pos u, e]
      rw [this]
      refine ⟨h.held, fun i b hb => (left.entries i b hb).of_left h.held ⟨rfl, rfl⟩ fun d => ?_⟩
      exact State.lt_of_not_reached (by rw [← reached, e]; exact List.not_mem_nil) hb
    | cons i rest =>
      rw [State.fireOne_cons u e]
      cases more : rest.isEmpty with
      | false => exact TableOk.fire (s := { s with unfired := true }) left i false 0
      | true =>
        refine TableOk.endGone ?_ _
        have last : s.passed ++ s.dueAt s.now = [i] := by rw [← reached, e, List.isEmpty_iff.1 more]
        have here : i ∈ s.passed ++ s.dueAt s.now := by rw [last]; exact List.mem_singleton_self i
        obtain ⟨due, hd⟩ : ∃ d, (s.entry i).armedDue = some d := by
          obtain mem | mem := List.mem_append.1 here
          · obtain ⟨d, hd, -⟩ := State.mem_passed.1 mem; exact ⟨d, hd⟩
          · exact ⟨_, State.mem_dueAt.1 mem⟩
        obtain ⟨b, hb, hr⟩ := Entry.armedDue_eq_some.1 hd
        obtain ⟨consistent, set, running, -⟩ := h.entries i b hb
        refine State.fireWithin_ok (s := { s with unfired := false }) h.held hb hr (fun j x hj hx => ?_) consistent set
          running (fun _ => h.near hb hr) 0
        refine (left.entries j x hx).of_left h.held ⟨rfl, rfl⟩ fun d => State.lt_of_not_reached ?_ hx
        rw [last, List.mem_singleton]
        exact hj

/-! ## A set or a step (R107, R110) -/

/-- A forward step resolves every entry whose due time it has reached, so that the rest lie ahead (R107). -/
theorem State.stepForward_ok {s : State} (held : s.backup.rangeHeld = true → s.now = Config.endOfRange)
    (table : TableConsistent s) : TableOk s.stepForward := by
  have order := s.resolutions_inOrder
  have only := order.only
  refine TableOk.endGone ⟨by rw [only.backup, only.now]; exact held, fun i x hx => ?_⟩ s
  by_cases mem : i ∈ s.overdue
  · obtain ⟨b, due, missed, hb, hr, entry⟩ := order.entry_of_mem ((List.nodup_finRange 64).filter _) mem
    rw [entry] at hx
    obtain ⟨consistent, set, running⟩ := table i b hb
    exact (Body.afterFiring_ok (s := s) (late := true) consistent set running held hr (fun k => by cases k) hx).of_clock only.sameClock
  · rw [order.entry_of_not_mem mem] at hx
    obtain ⟨consistent, set, running⟩ := table i x hx
    refine Body.Ok.of_clock (s := s) ⟨consistent, set, running, fun d hr => ahead_of_lt held ?_⟩ only.sameClock
    unfold State.overdue at mem
    rw [List.mem_filter, Entry.armedDue_of hx hr] at mem
    simpa [List.mem_finRange] using mem

/-- An entry as a backward step leaves it: the due time of a CALENDAR entry that has one is found again from now, and
where there is none it stays (R110; log 22). -/
def Body.found (now : Nat) (b : Body) : Body :=
  match b.defn with
  | .calendar pat off => { b with run := (match b.run with
      | .armed d => .armed ((nextMatch pat off now).getD d)
      | .heldArmed d => .heldArmed ((nextMatch pat off now).getD d)
      | .waiting => .waiting
      | .heldWaiting => .heldWaiting
      | .spent => .spent) }
  | .atTime _ => b
  | .every _ _ => b
  | .after _ _ _ _ => b

/-- Whether a backward step finds an entry's due time again (R110). -/
def Body.refinds (b : Body) : Bool := decide (b.defn.code = 2) && b.run.due.isSome

theorem Body.found_of_not_refinds {b : Body} (h : b.refinds = false) (now : Nat) : b.found now = b := by
  cases b with
  | mk _ defn run _ _ _ _ _ _ _ _ =>
    cases defn with
    | calendar _ _ => cases run <;> first | rfl | cases h
    | atTime _ | every _ _ | after _ _ _ _ => rfl

/-- What a backward step does at one index (R72, R110). -/
theorem State.recompute_eq (s : State) (i : EntryIx) :
    s.recompute i = if (s.entry i).body.any Body.refinds = true
      then (s.setBody i ((s.entry i).body.map (Body.found s.now))).bumpFull else s := by
  unfold State.recompute
  cases (s.entry i).body with
  | none => rfl
  | some b =>
    cases b with
    | mk _ defn run _ _ _ _ _ _ _ _ =>
      cases defn with
      | calendar _ _ => cases run <;> rfl
      | atTime _ | every _ _ | after _ _ _ _ => rfl

/-- A due time is found again of a CALENDAR entry that is ARMED or held from ARMED. -/
theorem Body.found_cases {b : Body} (h : b.refinds = true) (now : Nat) :
    ∃ pat off d, b.defn = .calendar pat off ∧
      (b.run = .armed d ∧ b.found now = { b with run := .armed ((nextMatch pat off now).getD d) } ∨
        b.run = .heldArmed d ∧ b.found now = { b with run := .heldArmed ((nextMatch pat off now).getD d) }) := by
  cases b with
  | mk _ defn run _ _ _ _ _ _ _ _ =>
    cases defn with
    | calendar pat off =>
      cases run with
      | armed d => exact ⟨pat, off, d, rfl, .inl ⟨rfl, rfl⟩⟩
      | heldArmed d => exact ⟨pat, off, d, rfl, .inr ⟨rfl, rfl⟩⟩
      | waiting | heldWaiting | spent => cases h
    | atTime _ | every _ _ | after _ _ _ _ => cases h

/-- An entry in its round stays consistent in another state of its round that its definition allows. -/
theorem Body.Consistent.withRun {b : Body} (h : b.Consistent) {r : RunState} (busy : b.run ≠ .spent)
    (allowed : ∀ d, r.due = some d → b.defn.allows d)
    (waits : r = .waiting ∨ r = .heldWaiting → ∃ c k d pol, b.defn = .after c k d pol) (round : r ≠ .spent) :
    Body.Consistent { b with run := r } where
  acts := h.acts
  dueAllowed := allowed
  waits := waits
  period := h.period
  single := h.single
  counted := fun zero => absurd (h.counted zero) busy
  kept := fun spent => absurd spent round
  fires := h.fires

theorem Body.Ok.found {s : State} {b : Body} (h : b.Ok s) (held : s.backup.rangeHeld = true → s.now = Config.endOfRange) :
    (b.found s.now).Ok s := by
  obtain ⟨consistent, set, running, ahead⟩ := h
  cases again : b.refinds with
  | false => rw [Body.found_of_not_refinds again]; exact ⟨consistent, set, running, ahead⟩
  | true =>
    obtain ⟨pat, off, d, hd, ⟨hr, e⟩ | ⟨hr, e⟩⟩ := Body.found_cases again s.now <;> rw [e]
    · refine ⟨consistent.withRun (by rw [hr]; nofun) (fun _ _ => by rw [hd]; trivial) ?_ nofun, set, running, ?_⟩
      · rintro (w | w) <;> cases w
      · rintro d' e
        cases e
        cases m : nextMatch pat off s.now with
        | none => exact ahead d hr
        | some m' => exact ahead_of_lt held (lt_of_nextMatch m)
    · refine ⟨consistent.withRun (by rw [hr]; nofun) (fun _ _ => by rw [hd]; trivial) ?_ nofun, set, running, nofun⟩
      rintro (w | w) <;> cases w

theorem TableOk.recompute {s : State} (h : TableOk s) (i : EntryIx) : TableOk (s.recompute i) := by
  rw [State.recompute_eq]
  refine iteInduction (fun _ => TableOk.bumpFull ?_) fun _ => h
  cases hb : (s.entry i).body with
  | none =>
    refine h.of_change (s.setBody_only i _) fun j x hx => ?_
    rw [State.entry_setBody] at hx
    split at hx
    · cases hx
    · exact .inl hx
  | some b => exact h.setBody i ((h.entries i b hb).found h.held)

theorem TableOk.stepBackward {s : State} (h : TableOk s) : TableOk s.stepBackward :=
  foldl_keeps (P := TableOk) (fun _ i k => k.recompute i) allEntries s h

/-- A SET or STEP applied leaves the table as it should be: the due times that a forward one reaches are resolved, and a
backward one leaves them all ahead (R50, R107, R110). -/
theorem State.applyTime_ok {s : State} (h : TableOk s) (v : Nat) : TableOk (s.applyTime v) := by
  unfold State.applyTime
  dsimp only
  set counted : State := { s with backup :=
    { s.backup with count := v, rangeHeld := false, epoch := s.backup.epoch + 1 } } with hc
  set kept := if s.backup.quality = .unset then counted.leaveUnset else counted with hk
  have only : OnlyChanges [.backup, .ports] counted kept :=
    OnlyChanges.ite (State.leaveUnset_only _) (OnlyChanges.refl ..)
  have backup : kept.backup.rangeHeld = false ∧ kept.now = v := by
    rw [hk]
    split
    · unfold State.leaveUnset
      split
      · unfold State.now State.beginTracking; rw [(State.raiseAll_only ..).backup]; exact ⟨rfl, rfl⟩
      · exact ⟨rfl, rfl⟩
    · exact ⟨rfl, rfl⟩
  have old : ∀ i b, (kept.entry i).body = some b → b.Ok s := fun i b hb => by
    rw [only.entry i] at hb
    exact h.entries i b hb
  have set : ∀ i b, (kept.entry i).body = some b → kept.backup.quality = s.backup.quality := fun i b hb => by
    rw [hk, if_neg (old i b hb).set]
  have on : kept.running = s.running := only.running
  have left : kept.unfired = s.unfired := only.unfired
  have heldOff : kept.backup.rangeHeld = true → kept.now = Config.endOfRange := fun e => by rw [backup.1] at e; cases e
  refine TableOk.of_only ?_ (State.raiseAll_only ..)
  unfold State.stepTable
  split
  next forward =>
    refine State.stepForward_ok heldOff fun i b hb => ?_
    obtain ⟨consistent, q, running, -⟩ := old i b hb
    exact ⟨consistent, by rw [set i b hb]; exact q, on.trans running⟩
  next backward =>
    refine TableOk.stepBackward ⟨heldOff, fun i b hb => ?_⟩
    obtain ⟨consistent, q, running, ahead⟩ := old i b hb
    refine ⟨consistent, by rw [set i b hb]; exact q, on.trans running, fun d hr => ?_⟩
    rw [left]
    refine ⟨fun _ => ?_, fun e => by rw [backup.1] at e; cases e⟩
    obtain ⟨free, atEnd⟩ := ahead d hr
    cases held : s.backup.rangeHeld with
    | false =>
      have := free held
      split at this <;> split <;> omega
    | true =>
      have := atEnd held
      have := h.held held
      split <;> omega

end Sys2Proof.Machine
end

section
/-! Every step keeps the schedule table consistent and every due time ahead of now: capture records, the requests of the
schedule unit, the microseconds of the rate source, the resets. -/

namespace Sys2Proof.Machine

/-- What holds of the fields of an ARM_ENTRY that have passed step 1 of R74. -/
structure ArmRequest.Sound (a : ArmRequest) : Prop where
  period : ∀ x p, a.defn = .every x p → 100 ≤ p
  nonzero : a.remaining ≠ some 0
  single : a.defn.isAt = true → a.remaining = none
  acts : a.line.isSome = true ∨ a.record.isSome = true

/-! ## Capture records at the table (R94 to R96, R142) -/

/-- An AFTER entry armed by a capture record of now, with its firing at a delay of 0 (R95, R113). -/
theorem TableOk.armAt {s : State} (h : TableOk s) {i : EntryIx} {b : Body} (hb : (s.entry i).body = some b)
    (busy : b.run ≠ .spent) (after : ∃ c k d pol, b.defn = .after c k d pol) (delay : Nat) :
    TableOk (s.armAt i b (s.now + delay)) := by
  obtain ⟨consistent, set, running, -⟩ := h.entries i b hb
  have armed : Body.Consistent { b with run := .armed (s.now + delay) } := by
    obtain ⟨c, k, d, pol, e⟩ := after
    refine consistent.withRun busy (fun _ _ => by rw [e]; trivial) ?_ nofun
    rintro (w | w) <;> cases w
  have entry : ((s.setBody i (some { b with run := .armed (s.now + delay) })).bumpFull.entry i).body =
      some { b with run := .armed (s.now + delay) } := by
    rw [State.entry_bumpFull, State.entry_setBody, if_pos rfl]
  have only : OnlyChanges [.schedule, .digest] s
      (s.setBody i (some { b with run := .armed (s.now + delay) })).bumpFull :=
    ((s.setBody_only i _).mono (by decide)).trans (State.bumpFull_only _)
  unfold State.armAt
  split
  next now =>
    refine State.fireWithin_ok (by rw [only.backup, only.now]; exact h.held) entry rfl (fun j x hj hx => ?_) armed
      (by rw [only.backup]; exact set) (only.running.trans running) (fun _ => by rw [only.now]; omega) 0
    rw [State.entry_bumpFull, State.entry_setBody, if_neg hj] at hx
    exact (h.entries j x hx).of_clock only.sameClock
  next later =>
    refine (h.setBody i ⟨armed, set, running, fun d e => ?_⟩).bumpFull
    cases e
    refine ⟨fun free => ?_, fun held => by rw [h.held held]; omega⟩
    have : ¬ s.now + delay ≤ s.now := fun le => later ⟨le, free⟩
    split <;> omega

theorem TableOk.captureAt {s : State} (h : TableOk s) (c : ChanNo) (k : RecordKind) (i : EntryIx) :
    TableOk (s.captureAt c k s.now i) := by
  unfold State.captureAt
  cases hb : (s.entry i).body with
  | none => exact h
  | some b =>
    dsimp only
    split
    next ch kinds delay pol hd =>
      have after : ∃ c k d pol, b.defn = .after c k d pol := ⟨ch, kinds, delay, pol, hd⟩
      split
      · split <;> rename_i hr
        · exact h.armAt hb (by rw [hr]; nofun) after delay
        · exact iteInduction (fun _ => h.armAt hb (by rw [hr]; nofun) after delay) fun _ => h
        all_goals exact h
      · exact h
    all_goals exact h

theorem TableOk.captureAll {s : State} (h : TableOk s) (c : ChanNo) (k : RecordKind) : TableOk (s.captureAll c k s.now) := by
  have keep : ∀ (t : State) i, t.now = s.now ∧ TableOk t → (t.captureAt c k s.now i).now = s.now ∧
      TableOk (t.captureAt c k s.now i) := fun t i ⟨now, ok⟩ => by
    refine ⟨(t.captureAt_only ..).now.trans now, ?_⟩
    rw [← now]
    exact ok.captureAt c k i
  exact (foldl_keeps keep allEntries s ⟨rfl, h⟩).2

/-- A capture record handed on, with the EXPIRY records of the channels that count it (R142, R148). -/
theorem TableOk.handOn (depth : Nat) {s : State} (h : TableOk s) (c : ChanNo) (k : RecordKind) (value : Nat) :
    TableOk (State.handOn depth s c k value) := by
  induction depth generalizing s c k value with
  | zero => exact h
  | succ n ih =>
    have delivered := s.deliverCapture_only c k value
    have acted : TableOk ((s.deliverCapture c k value).captureAll c k s.now) := by
      rw [← delivered.now]
      exact (h.of_only delivered).captureAll c k
    unfold State.handOn
    dsimp only
    refine iteInduction (fun _ => acted) fun _ => foldl_keeps (P := TableOk) (fun t d ok => ?_) _ _ acted
    have counted : TableOk (t.setChannel d (t.channel d).counted) := ok.of_only (t.setChannel_only ..)
    exact iteInduction (fun _ => iteInduction (fun _ => ih counted ..) fun _ => counted) fun _ => ok

theorem TableOk.produce {s : State} (h : TableOk s) (c : ChanNo) (k : RecordKind) (value : Nat) :
    TableOk (s.produce c k value) := (h.handOn 8 c k value).endGone s

theorem TableOk.setChannel {s : State} (h : TableOk s) (c : ChanNo) (x : Channel) : TableOk (s.setChannel c x) :=
  h.of_only (s.setChannel_only c x)

theorem TableOk.countEvent {s : State} (h : TableOk s) (c : ChanNo) : TableOk (s.countEvent c) :=
  iteInduction (fun _ => (h.setChannel c _).produce ..) fun _ => h.setChannel c _

theorem TableOk.measureEdge {s : State} (h : TableOk s) (c : ChanNo) (k : RecordKind) : TableOk (s.measureEdge c k) := by
  unfold State.measureEdge
  split
  · exact h.setChannel c _
  · exact TableOk.produce (h.setChannel c _) ..

theorem TableOk.actOnEdge {s : State} (h : TableOk s) (c : ChanNo) (x : PinLevel) : TableOk (s.actOnEdge c x) := by
  unfold State.actOnEdge
  split
  · exact iteInduction (fun _ => h.produce ..) fun _ => h
  · exact iteInduction (fun _ => h.measureEdge ..) fun _ => h
  · exact h.measureEdge ..
  · exact iteInduction (fun _ => h.countEvent c) fun _ => h

theorem TableOk.takeEdge {s : State} (h : TableOk s) (c : ChanNo) : TableOk (s.takeEdge c) := by
  unfold State.takeEdge
  split
  · exact iteInduction (fun _ => (h.setChannel c _).actOnEdge ..) fun _ => h.setChannel c _
  · exact h
  · exact h

theorem TableOk.overflowMeasure {s : State} (h : TableOk s) (c : ChanNo) : TableOk (s.overflowMeasure c) := by
  unfold State.overflowMeasure
  split
  · exact iteInduction (fun _ => (h.setChannel c _).produce ..) fun _ => h
  · exact h

theorem TableOk.filterRaw {s : State} (h : TableOk s) (c : ChanNo) (x : PinLevel) : TableOk (s.filterRaw c x) := by
  have taken : TableOk (if s.rawLevel c = x then s else s.takeEdge c) :=
    iteInduction (fun _ => h) fun _ => h.takeEdge c
  have raw : ∀ t : State, TableOk t → TableOk (t.setRaw c x) := fun t ok =>
    ok.of_clock ⟨rfl, rfl, Iff.rfl, rfl, rfl⟩ fun _ _ hb => .inl hb
  exact TableOk.setChannel (raw _ taken) c _

/-! ## Time passes (Chapter 1) -/

theorem TableOk.takeDue {s : State} (h : TableOk s) (d : DueEvent) : TableOk (s.takeDue d) := by
  cases d with
  | pulseEnd l => exact h.of_only (s.endPulse_only l)
  | holdExpiry l => exact h.of_only (s.expireHold_only l)
  | overflow c => exact h.overflowMeasure c
  | edge c => exact h.takeEdge c
  | windowEnd => exact h.of_quality s.endWindow_quality s.endWindow_only
  | loss => exact h.of_quality (s.takeDue_quality .loss) s.takeLoss_only
  | examine => exact h.of_only s.examineNext_only
  | firing => exact h.fireOne

/-- An event of the part's own clocks leaves no firing of an advance where none is left. -/
theorem State.takeDue_unfired {s : State} (h : s.unfired = false) (d : DueEvent) : (s.takeDue d).unfired = false := by
  cases d with
  | pulseEnd l => exact (s.endPulse_only l).unfired.trans h
  | holdExpiry l => exact (s.expireHold_only l).unfired.trans h
  | overflow c => exact (s.overflowMeasure_only c).unfired.trans h
  | edge c => exact (s.takeEdge_only c).unfired.trans h
  | windowEnd => exact s.endWindow_only.unfired.trans h
  | loss => exact s.takeLoss_only.unfired.trans h
  | examine => exact s.examineNext_only.unfired.trans h
  | firing => exact (congrArg State.unfired (State.fireOne_none h)).trans h

theorem TableOk.takeDues {s : State} (h : TableOk s) (l : List DueEvent) : TableOk (l.foldl State.takeDue s) :=
  foldl_keeps (P := TableOk) (fun _ d ok => ok.takeDue d) l s h

/-- What is done before an advance keeps the table, and leaves no firing of the advance before it. -/
theorem TableOk.beforeAdvance {s : State} (h : TableOk s) (first : List DueEvent) :
    TableOk (first.foldl State.takeDue s.settle.countTimers) ∧
      (first.foldl State.takeDue s.settle.countTimers).unfired = false := by
  have settled : TableOk s.settle := h.fireUnfired.takeDues dueOrder
  refine ⟨(settled.of_only s.settle.countTimers_only).takeDues first, ?_⟩
  exact foldl_keeps (P := fun t => State.unfired t = false) (fun _ d u => State.takeDue_unfired u d) first _
    (s.settle.countTimers_only.unfired.trans s.unfired_settle)

theorem TableOk.applyWaiting {s : State} (h : TableOk s) (n : BitVec 8) (v : Option Nat) :
    TableOk (s.applyWaiting n v) := by
  unfold State.applyWaiting
  split
  · exact TableOk.of_only (State.applyTime_ok h _) (State.adjustDone_only ..)
  · exact h.of_only (State.adjustDone_only ..)

theorem TableOk.slewEnded {s : State} (h : TableOk s) (n : Nat) : TableOk (s.slewEnded n) := by
  have done : TableOk (s.completeSlew n) := h.of_only (s.completeSlew_only n)
  have taken : TableOk { s.completeSlew n with
      authority := { (s.completeSlew n).authority with waiting := none } } :=
    done.of_clock ⟨rfl, rfl, Iff.rfl, rfl, rfl⟩ fun _ _ hb => .inl hb
  unfold State.slewEnded
  dsimp only
  split
  · exact done
  · split
    · exact taken.of_only (State.beginSlew_only ..)
    · exact taken.applyWaiting ..
    · exact taken.applyWaiting ..

/-- The end of range reached leaves the due times at the held value or beyond (R16, R112, R113). -/
theorem TableOk.reachEnd {s : State} (h : TableOk s) (unfired : s.unfired = false) (free : s.backup.rangeHeld = false)
    (last : Config.endOfRange ≤ s.now + 1) : TableOk s.reachEnd := by
  have held : TableOk s.holdRange := ⟨fun _ => rfl, fun i b hb => by
    obtain ⟨consistent, set, running, ahead⟩ := h.entries i b hb
    refine ⟨consistent, set, running, fun d hr => ⟨nofun, fun _ => ?_⟩⟩
    have := (ahead d hr).1 free
    rw [unfired] at this
    exact Nat.le_trans last this⟩
  have raised : TableOk ((s.holdRange.fireDue Config.endOfRange).raiseAll .rangeEnd) :=
    (held.fireDue _).of_only (State.raiseAll_only ..)
  exact iteInduction (fun _ => raised) fun _ => raised.slewEnded _

/-- An advance by 1, or by the 2 of a POSITIVE slew, with its firings or with these left (R8, R98; log 30). -/
theorem TableOk.advanceTo {s : State} (h : TableOk s) (unfired : s.unfired = false) (free : s.backup.rangeHeld = false)
    {v : Nat} (next : v ≤ s.now + 2) (fires : Bool) : TableOk (s.advanceTo v fires) := by
  have left : TableOk { s with backup := { s.backup with count := v }, unfired := true } := by
    refine ⟨fun e => absurd (free.symm.trans e) nofun, fun i b hb => ?_⟩
    obtain ⟨consistent, set, running, ahead⟩ := h.entries i b hb
    refine ⟨consistent, set, running, fun d hr => ⟨fun _ => ?_, fun e => ?_⟩⟩
    · have := (ahead d hr).1 free
      rw [unfired] at this
      exact Nat.le_trans next (Nat.succ_le_succ this)
    · rw [show s.backup.rangeHeld = true from e] at free; cases free
  cases fires with
  | true => exact State.fireReached_ok (s := { s with backup := { s.backup with count := v } }) left
  | false => exact left

theorem TableOk.advanceOne {s : State} (h : TableOk s) (unfired : s.unfired = false) (fires : Bool) :
    TableOk (s.advanceOne fires) := by
  unfold State.advanceOne
  split
  next c =>
    obtain ⟨-, free⟩ := s.counting_iff.1 c
    split
    · exact h.advanceTo unfired free (Nat.le_succ _) fires
    · exact h.reachEnd unfired free (by omega)
  · exact h

theorem TableOk.endSlewIfDone {s : State} (h : TableOk s) : TableOk s.endSlewIfDone :=
  iteInduction (fun _ => h.slewEnded 0) fun _ => h

theorem TableOk.timebaseMicro {s : State} (h : TableOk s) (unfired : s.unfired = false) (slew : SlewConsistent s)
    (fires : Bool) : TableOk (s.timebaseMicro fires) := by
  have block : TableOk (s.blockEnd fires) := by
    have ⟨_, _, progress, _⟩ := slew
    unfold State.blockEnd
    split <;> rename_i e
    · obtain ⟨-, -, -, -, free, -⟩ := progress (by rw [e]; nofun)
      have counted : TableOk s.countBlock := h.of_only s.countBlock_only
      split
      · exact (counted.advanceTo unfired free (Nat.le_refl _) fires).endSlewIfDone
      · exact h.reachEnd unfired free (by omega)
    · exact (h.of_only s.countBlock_only).endSlewIfDone
    · exact h
  unfold State.timebaseMicro
  refine iteInduction (fun _ => block) fun _ => iteInduction (fun _ => h.advanceOne unfired fires) fun _ => ?_
  have counted : TableOk { s with slew := { s.slew with blockElapsed := s.slew.blockElapsed + 1 } } :=
    h.of_clock ⟨rfl, rfl, Iff.rfl, rfl, rfl⟩ fun _ _ hb => .inl hb
  exact counted.advanceOne unfired fires

theorem TableOk.runMicro {s : State} (h : TableOk s) (time : TimeConsistent s) (first : List DueEvent) (fires : Bool) :
    TableOk (s.runMicro first fires) := by
  obtain ⟨ok, unfired⟩ := h.beforeAdvance first
  obtain ⟨-, slew, -⟩ := time.of_same (s.beforeAdvance_sameTime first)
  exact ok.timebaseMicro unfired slew fires

theorem TableOk.finishAdvance {s : State} (h : TableOk s) (first : List DueEvent) : TableOk (s.finishAdvance first) :=
  iteInduction (fun _ => (h.takeDues first).fireUnfired) fun _ => h

/-! ## The requests of the schedule unit (Chapter 4) -/

/-- A definition that has passed step 1 of R74 has a period of at least 100 microseconds (R61). -/
theorem definitionOf_period {block : DefBlock} {d : Definition} (h : definitionOf block = some d) :
    ∀ a p, d = .every a p → 100 ≤ p := by
  intro a p e
  subst e
  unfold definitionOf at h
  split at h
  · obtain ⟨_, -, e⟩ := Option.map_eq_some_iff.1 h; cases e
  · split at h
    · split at h
      · cases h; assumption
      · cases h
    · cases h
  · split at h
    · split at h <;> cases h
    · cases h
  · split at h
    · split at h <;> cases h
    · cases h
  · cases h

theorem remainingOf_ne_zero {o : OptField 16} {r : Option Nat} (h : remainingOf o = some r) : r ≠ some 0 := by
  unfold remainingOf at h
  split at h
  next v _ =>
    split at h
    · cases h
    next nz =>
      cases h
      intro e
      exact nz (BitVec.eq_of_toNat_eq (Option.some.inj e))
  · cases h; nofun
  · cases h

theorem ArmRequest.sound_of_armRequestOf {f : ArmFields} {a : ArmRequest} (h : armRequestOf f = some a) : a.Sound := by
  unfold armRequestOf at h
  simp only [Option.bind_eq_bind, Option.bind_eq_some_iff] at h
  obtain ⟨d, hd, late, -, r, hr, line, -, record, -, share, -, keep, -, h⟩ := h
  split at h
  · cases h
  next ok =>
    cases h
    rw [Bool.or_eq_true, Bool.or_eq_true, not_or, not_or] at ok
    obtain ⟨⟨single, -⟩, acts⟩ := ok
    refine ⟨definitionOf_period hd, remainingOf_ne_zero hr, fun isAt => ?_, ?_⟩
    · cases r with
      | none => rfl
      | some n => exact absurd (by rw [show d.isAt = true from isAt]; rfl) single
    · cases line with
      | some _ => exact .inl rfl
      | none =>
        cases record with
        | some _ => exact .inr rfl
        | none => exact absurd rfl acts

theorem ArmRequest.body_consistent {f : ArmFields} {a : ArmRequest} (h : armRequestOf f = some a) (p : Port)
    {run : RunState} (allowed : ∀ d, run.due = some d → a.defn.allows d)
    (waits : run = .waiting ∨ run = .heldWaiting → ∃ c k d pol, a.defn = .after c k d pol) (round : run ≠ .spent) :
    (a.body p run).Consistent := by
  obtain ⟨period, nonzero, single, acts⟩ := ArmRequest.sound_of_armRequestOf h
  exact { acts := acts, dueAllowed := allowed, waits := waits, period := period, single := single,
          counted := fun zero => absurd zero nonzero, kept := fun spent => absurd spent round, fires := Nat.zero_le _ }

/-- The first due time of a definition: one that it allows, after now but for a late AT (R74 step 6, R76, R89, R90, R93). -/
theorem firstDue_armed {d : Definition} (period : ∀ a p, d = .every a p → 100 ≤ p) {late : Bool} {now t : Nat}
    (h : firstDue d late now = .armed t) : d.allows t ∧ now < t := by
  unfold firstDue at h
  split at h
  · split at h
    · cases h; exact ⟨rfl, by assumption⟩
    · split at h <;> cases h
  next a p =>
    cases h
    have := period a p rfl
    exact ⟨firstGridAfter_onGrid a p now, lt_firstGridAfter (by omega)⟩
  · split at h
    next e => cases h; exact ⟨trivial, lt_of_nextMatch e⟩
    · cases h
  · cases h

theorem firstDue_late {d : Definition} {late : Bool} {now t : Nat} (h : firstDue d late now = .late t) : d = .atTime t := by
  unfold firstDue at h
  split at h
  · split at h
    · cases h
    · split at h <;> cases h
      rfl
  · cases h
  · split at h <;> cases h
  · cases h

theorem firstDue_waiting {d : Definition} {late : Bool} {now : Nat} (h : firstDue d late now = .waiting) :
    ∃ c k y pol, d = .after c k y pol := by
  unfold firstDue at h
  split at h
  · split at h
    · cases h
    · split at h <;> cases h
  · cases h
  · split at h <;> cases h
  next c k y pol => exact ⟨c, k, y, pol, rfl⟩

theorem State.entry_allocate (s : State) (i j : EntryIx) (b : Body) :
    (s.allocate i b).entry j = if j = i then { inst := (s.entry i).inst + 1, body := some b } else s.entry j :=
  (State.entry_bumpBoth _ j).trans (s.entry_setEntry i j _)

theorem TableOk.allocate {s : State} (h : TableOk s) (i : EntryIx) {b : Body} (ok : b.Ok s) :
    TableOk (s.allocate i b) := by
  refine h.of_change (s.allocate_only i b) fun j x hx => ?_
  rw [State.entry_allocate] at hx
  split at hx
  · cases hx; exact .inr ok
  · exact .inl hx

/-- An entry given a state in an event in which it fires late at once (R76, R78): the entries beside it are as they were. -/
theorem TableOk.firesLate {s t : State} (h : TableOk s) (only : OnlyChanges [.schedule, .digest] s t) {i : EntryIx}
    {b : Body} {due : Nat} (hb : (t.entry i).body = some b) (hr : b.run = .armed due) (consistent : b.Consistent)
    (set : s.backup.quality ≠ .unset) (running : s.running = true) (others : ∀ j, j ≠ i → t.entry j = s.entry j)
    (missed : Nat) : TableOk (t.fireWithin i true missed) :=
  State.fireWithin_ok (late := true) (by rw [only.backup, only.now]; exact h.held) hb hr
    (fun j x hj hx => (h.entries j x (others j hj ▸ hx)).of_clock only.sameClock) consistent
    (by rw [only.backup]; exact set) (only.running.trans running) (fun k => by cases k) missed

theorem TableOk.armInto {s : State} (h : TableOk s) (set : s.backup.quality ≠ .unset) (running : s.running = true)
    {f : ArmFields} {a : ArmRequest} (hf : armRequestOf f = some a) (p : Port) (i : EntryIx) :
    TableOk (s.armInto p a i).1 := by
  have period := (ArmRequest.sound_of_armRequestOf hf).period
  have armed : ∀ d, a.defn.allows d → (a.body p (.armed d)).Consistent := fun d allowed =>
    ArmRequest.body_consistent hf p (fun _ e => by cases e; exact allowed) (by rintro (w | w) <;> cases w) nofun
  unfold State.armInto
  split <;> rename_i e
  · exact h
  · exact h
  · obtain ⟨allowed, lt⟩ := firstDue_armed period e
    exact h.allocate i ⟨armed _ allowed, set, running, fun d hr => by cases hr; exact ahead_of_lt h.held lt⟩
  · exact h.allocate i ⟨ArmRequest.body_consistent hf p nofun (fun _ => firstDue_waiting e) nofun, set, running, nofun⟩
  next d =>
    have allowed : a.defn.allows d := by rw [firstDue_late e]; rfl
    have fired := h.firesLate (s.allocate_only i (a.body p (.armed d)))
      (by rw [State.entry_allocate, if_pos rfl]) rfl (armed d allowed) set running
      (fun j hj => by rw [State.entry_allocate, if_neg hj]) 0
    exact fired.endGone _

theorem TableOk.blockArmEntry {s : State} (h : TableOk s) (running : s.running = true) (p : Port) (f : ArmFields) :
    TableOk (blockArmEntry p f s).1 := by
  unfold Sys2Proof.Machine.blockArmEntry
  split
  · exact h
  next a hf =>
    split
    · exact h
    next set =>
      split
      · exact h
      · split
        · exact h
        · split
          · exact h
          · exact h.armInto set running hf p _

theorem State.entry_retimed (s : State) (i j : EntryIx) (b : Body) (d : Definition) (r : RunState) :
    (s.retimed i b d r).entry j =
      if j = i then { inst := (s.entry i).inst, body := some { b with defn := d, run := r } } else s.entry j :=
  (State.entry_bumpBoth _ j).trans (s.entry_setBody i j _)

/-- An entry stays consistent with a new definition of its kind, and a state in its round that this allows (R77 to R79). -/
theorem Body.Consistent.retimed {b : Body} (h : b.Consistent) {d : Definition} (kind : d.retimes b.defn = true)
    (period : ∀ a p, d = .every a p → 100 ≤ p) (busy : b.run ≠ .spent) {r : RunState}
    (allowed : ∀ t, r.due = some t → d.allows t) (waits : r = .waiting ∨ r = .heldWaiting → r = b.run)
    (round : r ≠ .spent) : Body.Consistent { b with defn := d, run := r } where
  acts := h.acts
  dueAllowed := allowed
  waits := fun w => by
    obtain ⟨c, k, y, pol, e⟩ := h.waits (waits w ▸ w)
    rw [e] at kind
    cases d with
    | after c k y pol => exact ⟨c, k, y, pol, rfl⟩
    | atTime _ | every _ _ | calendar _ _ => cases kind
  period := period
  single := fun isAt => h.single (by
    cases d with
    | atTime _ =>
      cases e : b.defn with
      | atTime _ => rfl
      | every _ _ | calendar _ _ | after _ _ _ _ => rw [e] at kind; cases kind
    | every _ _ | calendar _ _ | after _ _ _ _ => cases isAt)
  counted := fun zero => absurd (h.counted zero) busy
  kept := fun spent => absurd spent round
  fires := h.fires

theorem TableOk.retimed {s : State} (h : TableOk s) (i : EntryIx) {b : Body} {d : Definition} {r : RunState}
    (ok : Body.Ok s { b with defn := d, run := r }) : TableOk (s.retimed i b d r) := (h.setBody i ok).bumpBoth

/-- Of an AFTER definition any due time is allowed. -/
theorem Definition.allows_of_after {d : Definition} (h : ∃ c k y pol, d = .after c k y pol) (t : Nat) : d.allows t := by
  obtain ⟨c, k, y, pol, rfl⟩ := h
  trivial

theorem TableOk.retimeArmed {s : State} (h : TableOk s) {i : EntryIx} {b : Body} (hb : (s.entry i).body = some b)
    {due : Nat} (hr : b.run = .armed due) {d : Definition} (kind : d.retimes b.defn = true)
    (period : ∀ a p, d = .every a p → 100 ≤ p) (late : Bool) : TableOk (s.retimeArmed i b due d late).1 := by
  obtain ⟨consistent, set, running, ahead⟩ := h.entries i b hb
  have busy : b.run ≠ .spent := by rw [hr]; nofun
  have armed : ∀ t, d.allows t → Body.Consistent { b with defn := d, run := .armed t } := fun t allowed =>
    consistent.retimed kind period busy (fun _ e => by cases e; exact allowed) (by rintro (w | w) <;> cases w) nofun
  unfold State.retimeArmed
  split <;> rename_i e
  · exact h
  · exact h
  · obtain ⟨allowed, lt⟩ := firstDue_armed period e
    exact h.retimed i ⟨armed _ allowed, set, running, fun _ k => by cases k; exact ahead_of_lt h.held lt⟩
  · exact h.retimed i ⟨armed _ (Definition.allows_of_after (firstDue_waiting e) _), set, running,
      fun _ k => by cases k; exact ahead due hr⟩
  next t =>
    have allowed : d.allows t := by rw [firstDue_late e]; rfl
    have fired := h.firesLate (s.retimed_only i b d (.armed t)) (by rw [State.entry_retimed, if_pos rfl]) rfl
      (armed t allowed) set running (fun j hj => by rw [State.entry_retimed, if_neg hj]) 0
    exact fired.endGone _

theorem TableOk.retimeHeld {s : State} (h : TableOk s) {i : EntryIx} {b : Body} (hb : (s.entry i).body = some b)
    {due : Nat} (hr : b.run = .heldArmed due) {d : Definition} (kind : d.retimes b.defn = true)
    (period : ∀ a p, d = .every a p → 100 ≤ p) (late : Bool) : TableOk (s.retimeHeld i b due d late).1 := by
  obtain ⟨consistent, set, running, -⟩ := h.entries i b hb
  have busy : b.run ≠ .spent := by rw [hr]; nofun
  have held : ∀ t, d.allows t → TableOk (s.retimed i b d (.heldArmed t)) := fun t allowed =>
    h.retimed i ⟨consistent.retimed kind period busy (fun _ e => by cases e; exact allowed)
      (by rintro (w | w) <;> cases w) nofun, set, running, nofun⟩
  unfold State.retimeHeld
  split <;> rename_i e
  · exact h
  · exact h
  · exact held _ (firstDue_armed period e).1
  · exact held _ (Definition.allows_of_after (firstDue_waiting e) _)
  · exact held _ (by rw [firstDue_late e]; rfl)

/-- A request on a handle keeps the table where what it goes on to does, with the entry that the handle names. -/
theorem TableOk.withOwned {s : State} (h : TableOk s) {p : Port} {index inst : Byte}
    {go : EntryIx → Body → State × Option Response}
    (keeps : ∀ i b, (s.entry i).body = some b → TableOk (go i b).1) : TableOk (s.withOwned p index inst go).1 := by
  unfold State.withOwned State.withHandle
  split
  · exact h
  next i _ =>
    split
    · exact h
    next b hb =>
      refine iteInduction (motive := fun r : State × Option Response => TableOk r.1) (fun _ => ?_) fun _ => h
      exact iteInduction (motive := fun r : State × Option Response => TableOk r.1) (fun _ => keeps i b hb) fun _ => h

theorem TableOk.blockRetimeEntry {s : State} (h : TableOk s) (p : Port) (index inst : Byte) (block : DefBlock)
    (late : Byte) : TableOk (blockRetimeEntry p index inst block late s).1 := by
  unfold Sys2Proof.Machine.blockRetimeEntry
  split
  · exact h
  all_goals
    refine h.withOwned fun i b hb => ?_
    split
    next d lateOk hd _ =>
      have period := definitionOf_period hd
      split
      · exact h
      next ok =>
        have kind : d.retimes b.defn = true := Bool.eq_true_of_not_eq_false fun e => ok (.inl e)
        split <;> rename_i hr
        · exact h.retimeArmed hb hr kind period lateOk
        · exact h.retimeHeld hb hr kind period lateOk
        · obtain ⟨consistent, set, running, -⟩ := h.entries i b hb
          exact h.retimed i ⟨consistent.retimed kind period (by rw [hr]; nofun) nofun (fun _ => hr.symm) nofun, set,
            running, nofun⟩
        all_goals exact h
    all_goals exact h

theorem TableOk.setRun {s : State} (h : TableOk s) (i : EntryIx) {b : Body} {r : RunState}
    (ok : Body.Ok s { b with run := r }) : TableOk (s.setRun i b r) := (h.setBody i ok).bumpFull

theorem TableOk.blockHoldEntry {s : State} (h : TableOk s) (p : Port) (index inst : Byte) :
    TableOk (blockHoldEntry p index inst s).1 := by
  refine h.withOwned fun i b hb => ?_
  obtain ⟨consistent, set, running, -⟩ := h.entries i b hb
  split <;> rename_i hr
  · exact h.setRun i ⟨consistent.withRun (by rw [hr]; nofun)
      (fun _ e => by cases e; exact consistent.dueAllowed _ (by rw [hr]; rfl)) (by rintro (w | w) <;> cases w) nofun,
      set, running, nofun⟩
  · exact h.setRun i ⟨consistent.withRun (by rw [hr]; nofun) nofun (fun _ => consistent.waits (.inl hr)) nofun,
      set, running, nofun⟩
  all_goals exact h

/-- An entry taken out of its hold: resolved where its due time has come, and else ARMED for later (R81, R108). -/
theorem TableOk.unholds {s : State} (h : TableOk s) {i : EntryIx} {b : Body} (hb : (s.entry i).body = some b) {d : Nat}
    (hr : b.run = .heldArmed d) : TableOk ((s.setRun i b (.armed d)).resolve i) := by
  obtain ⟨consistent, set, running, -⟩ := h.entries i b hb
  have armed : Body.Consistent { b with run := .armed d } := consistent.withRun (by rw [hr]; nofun)
    (fun _ e => by cases e; exact consistent.dueAllowed _ (by rw [hr]; rfl)) (by rintro (w | w) <;> cases w) nofun
  have only := s.setRun_only i b (.armed d)
  have entry : ∀ j, (s.setRun i b (.armed d)).entry j =
      if j = i then { inst := (s.entry i).inst, body := some { b with run := .armed d } } else s.entry j := fun j =>
    (State.entry_bumpFull _ j).trans (s.entry_setBody i j _)
  have here : ((s.setRun i b (.armed d)).entry i).body = some { b with run := .armed d } := by rw [entry, if_pos rfl]
  unfold State.resolve
  refine TableOk.endGone ?_ _
  by_cases past : d ≤ (s.setRun i b (.armed d)).now
  · rw [State.resolveWithin_overdue here rfl past]
    exact h.firesLate only here rfl armed set running (fun j hj => by rw [entry, if_neg hj]) _
  · rw [State.resolveWithin_idle (by rw [Entry.armedDue_of here rfl]; simp [past])]
    rw [only.now] at past
    exact h.setRun i ⟨armed, set, running, fun _ e => by cases e; exact ahead_of_lt h.held (by omega)⟩

theorem TableOk.blockUnholdEntry {s : State} (h : TableOk s) (p : Port) (index inst : Byte) :
    TableOk (blockUnholdEntry p index inst s).1 := by
  refine h.withOwned fun i b hb => ?_
  obtain ⟨consistent, set, running, -⟩ := h.entries i b hb
  split <;> rename_i hr
  · exact h.setRun i ⟨consistent.withRun (by rw [hr]; nofun) nofun (fun _ => consistent.waits (.inr hr)) nofun,
      set, running, nofun⟩
  · exact h.unholds hb hr
  all_goals exact h

theorem TableOk.blockCancelEntry {s : State} (h : TableOk s) (p : Port) (index inst : Byte) :
    TableOk (blockCancelEntry p index inst s).1 := h.withOwned fun i _ _ => (h.vacate i).endGone s

end Sys2Proof.Machine
end

section
/-! Every command keeps the schedule table as it should be. -/

namespace Sys2Proof.Machine

/-- What the table's property is kept together with: the ports and the time are consistent. -/
structure PortsAndTime (s : State) : Prop where
  ports : PortsConsistent s
  time : TimeConsistent s

/-! ## The other requests that touch the table, the quality or the count -/

theorem TableOk.applyAnswer {s : State} (h : TableOk s) (v : Option Nat) : TableOk (s.applyAnswer v).1 := by
  unfold State.applyAnswer
  split
  · exact h
  · exact State.applyTime_ok h _

theorem TableOk.enqueue {s : State} (h : TableOk s) (k : AdjustKind) : TableOk (s.enqueue k) := h.of_only (s.enqueue_only k)

/-- A choice between two answers keeps the table where both do. -/
theorem TableOk.ite_fst {t u : State × Option Response} {c : Prop} [Decidable c] (h : c → TableOk t.1)
    (k : ¬ c → TableOk u.1) : TableOk (if c then t else u).1 := by
  split
  next c => exact h c
  next c => exact k c

theorem TableOk.blockSetTime {s : State} (h : TableOk s) (p : Port) (sec : BitVec 32) (us : BitVec 24) :
    TableOk (blockSetTime p sec us s).1 :=
  TableOk.ite_fst (fun _ => h) fun _ => TableOk.ite_fst (fun _ => h) fun _ => TableOk.ite_fst (fun _ => h) fun _ =>
    TableOk.ite_fst (fun _ => h.enqueue _) fun _ => h.applyAnswer _

theorem TableOk.blockStep {s : State} (h : TableOk s) (p : Port) (amount : BitVec 32) :
    TableOk (blockStep p amount s).1 :=
  TableOk.ite_fst (fun _ => h) fun _ => TableOk.ite_fst (fun _ => h) fun _ => TableOk.ite_fst (fun _ => h) fun _ =>
    TableOk.ite_fst (fun _ => h) fun _ => TableOk.ite_fst (fun _ => h.enqueue _) fun _ => h.applyAnswer _

theorem State.chooseSource_quality (s : State) (sel : SourceSelection) :
    (s.chooseSource sel).backup = { s.backup with source := sel } := rfl

/-- A change of the key or of the source selection is none of the table. -/
theorem TableOk.of_backup {s t : State} (h : TableOk s) (source : SourceSelection) (key : Option (BitVec 64))
    (backup : t.backup = { s.backup with source := source, key := key }) (schedule : t.schedule = s.schedule)
    (unfired : t.unfired = s.unfired) (pins : t.pins = s.pins) : TableOk t := by
  refine h.of_clock ⟨?_, ?_, ?_, unfired, ?_⟩ fun i b hb => .inl ?_
  · unfold State.now; rw [backup]
  · rw [backup]
  · rw [backup]
  · unfold State.running; rw [pins]
  · unfold State.entry at hb ⊢; rw [← schedule]; exact hb

theorem TableOk.blockSetKey {s : State} (h : TableOk s) (p : Port) (key : OptField 64) :
    TableOk (blockSetKey p key s).1 := by
  refine TableOk.ite_fst (fun _ => h) fun _ => ?_
  split
  · exact h
  · exact h.of_backup s.backup.source _ rfl rfl rfl rfl

theorem TableOk.blockSelectSource {s : State} (h : TableOk s) (p : Port) (sel : Byte) :
    TableOk (blockSelectSource p sel s).1 := by
  refine TableOk.ite_fst (fun _ => h) fun _ => ?_
  split
  · exact h
  · exact TableOk.ite_fst (fun _ => h) fun _ => h.of_backup _ s.backup.key rfl rfl rfl rfl

theorem TableOk.blockResumeReference {s : State} (h : TableOk s) (p : Port) : TableOk (blockResumeReference p s).1 :=
  h.of_quality (blockResumeReference_sameTime s p).quality (blockResumeReference_only p s)

theorem TableOk.blockSetQuota {s : State} (h : TableOk s) (p : Port) (target quota : Byte) :
    TableOk (blockSetQuota p target quota s).1 := by
  refine TableOk.ite_fst (fun _ => h) fun _ => ?_
  split
  · exact h
  · exact TableOk.ite_fst (fun _ => h) fun _ =>
      h.of_clock ⟨rfl, rfl, Iff.rfl, rfl, rfl⟩ fun _ _ hb => .inl hb

/-- No entry is in use exactly where none is counted. -/
theorem State.countEntries_eq_zero {s : State} : s.countEntries (fun _ => true) = 0 ↔ ∀ i, (s.entry i).body = none := by
  unfold State.countEntries
  rw [List.length_eq_zero_iff, List.filter_eq_nil_iff]
  refine ⟨fun h i => ?_, fun h i _ => by rw [h i]; nofun⟩
  have := h i (mem_allEntries i)
  cases e : (s.entry i).body with
  | none => rfl
  | some b => rw [e] at this; exact absurd rfl this

/-- CLEAR_BACKUP is refused while an entry is in use, so that the quality becomes UNSET with an empty table (R22). -/
theorem TableOk.blockClearBackup {s : State} (h : TableOk s) (p : Port) : TableOk (blockClearBackup p s).1 := by
  refine TableOk.ite_fst (fun _ => h) fun _ => TableOk.ite_fst (fun _ => h) fun none => TableOk.ite_fst (fun _ => h) fun _ => ?_
  rw [not_not, State.countEntries_eq_zero] at none
  refine TableOk.of_empty (s := s.clearBackup) ?_ fun i => by rw [s.clearBackup_only.entry i]; exact none i
  rw [State.clearBackup_backup]
  exact ⟨Nat.zero_le _, fun _ => ⟨rfl, rfl, rfl⟩, nofun⟩

theorem TableOk.freeEntriesOf {s : State} (h : TableOk s) (p : Port) : TableOk (s.freeEntriesOf p) :=
  foldl_keeps (P := TableOk) (fun _ i ok => iteInduction (fun _ => ok.vacate i) fun _ => ok) allEntries s h

theorem TableOk.giveUp {s : State} (h : TableOk s) (p : Port) : TableOk (s.giveUp p) :=
  (((((h.freeEntriesOf p).of_only (State.releaseLines_only ..)).of_only (State.releaseChannels_only ..)).endGone
    s).of_only (State.dropSubs_only ..)).of_only (State.releaseAuthorityOf_only ..)

theorem TableOk.portGone {s : State} (h : TableOk s) (p : Port) : TableOk (s.portGone p) :=
  (((h.of_only (s.setPort_only ..)).giveUp p).of_only (State.abandonWalk_only ..)).of_only (State.setPort_only ..)

theorem TableOk.blockDetach {s : State} (h : TableOk s) (p : Port) : TableOk (blockDetach p s).1 :=
  (((h.of_only (s.setPort_only ..)).giveUp p).of_only (State.setPort_only ..)).of_only
    ((State.setPort_only ..).trans (State.setPort_only ..))

/-! ## Every command -/

/-- A request keeps the table where its block does, on a part that runs: only there is a port READY (R185). -/
theorem TableOk.request {s : State} (h : TableOk s) (ports : PortsConsistent s) (p : Port) (n : Nat)
    {block : State → State × Option Response} (keeps : ∀ u, TableOk u → u.running = true → TableOk (block u).1) :
    TableOk (s.request p n block) := by
  have shifted : ∀ bs, TableOk (s.shiftOut p bs) := fun bs => h.of_only (s.setPort_only ..)
  unfold State.request
  split
  · exact shifted _
  · exact shifted _
  next hears =>
    have running : s.running = true := Bool.eq_true_of_not_eq_false fun off => by
      obtain ⟨-, -, -, resting, -⟩ := ports
      rw [Ignores.hears (.inl (resting off p))] at hears
      cases hears
    have kept := keeps _ (shifted ((s.port p).requestMiso (n + 3))) running
    split <;> rename_i e <;> rw [e] at kept
    · exact kept.of_only (State.setPort_only ..)
    · exact kept

/-- A reset, a supply or a microsecond of a part that does not run finds the table empty and leaves it so (R87). -/
theorem TableOk.of_not_running {s t : State} (h : TableOk s) (off : s.running = false) (range : TimeInRange t.backup)
    (schedule : t.schedule = s.schedule) : TableOk t :=
  TableOk.of_empty range fun i => by unfold State.entry; rw [schedule]; exact h.empty_of_not_running off i

theorem State.entry_resetMain (s : State) (i : EntryIx) : s.resetMain.entry i = { inst := 0, body := none } := by
  simp [State.entry, State.resetMain, Schedule.reset, Vector.get_eq_getElem]

theorem TableOk.of_resetMain {s t : State} (range : TimeInRange t.backup) (schedule : t.schedule = s.resetMain.schedule) :
    TableOk t :=
  TableOk.of_empty range fun i => by
    rw [show t.entry i = s.resetMain.entry i by unfold State.entry; rw [schedule], State.entry_resetMain]

theorem State.powerOn_schedule (s : State) (straps : BitVec 3) (causes : BitVec 5) :
    (s.powerOn straps causes).schedule = s.resetMain.schedule := by
  unfold State.powerOn
  dsimp only
  split
  · rfl
  · exact (State.leaveReset_only ..).schedule

/-- A microsecond of the rate source at a part that does not run changes the backup domain alone (R18, R21). -/
theorem State.micro_resting {s : State} (off : s.running = false) (first : List DueEvent) (fires : Bool) :
    OnlyChanges [.backup] s (s.micro first fires) := by
  unfold State.micro
  rw [if_neg (by rw [off]; nofun)]
  refine OnlyChanges.ite ?_ (OnlyChanges.refl ..)
  exact ⟨fun q hq => by cases q <;> first | rfl | exact absurd (by decide) hq⟩

/-- A part that does not run has no firings left to make (R18, R21). -/
theorem State.finishAdvance_resting {s : State} (off : s.running = false) (first : List DueEvent) :
    s.finishAdvance first = s := if_neg (by rw [off]; nofun)

/-- Every command but a transaction's bytes keeps the table as it should be: those that touch it by their own lemmas, the
rest by what they leave unchanged. -/
theorem exec_tableOk_proper (i : Instr) (s t : State) (proper : ∀ p bs inc, i ≠ .badRequest p bs inc)
    (h : exec i s = .next t) (ports : PortsConsistent s) (time : TimeConsistent s) (table : TableOk s) : TableOk t := by
  have frame := exec_changes_proper h proper
  have ⟨range, _, _⟩ := exec_timeConsistent h ports time
  cases i
  all_goals dsimp only [commandParts] at frame
  case setKey p key => cases h; exact table.request ports p _ fun u hu _ => hu.blockSetKey p key
  case setTime p sec us => cases h; exact table.request ports p _ fun u hu _ => hu.blockSetTime p sec us
  case step p amount => cases h; exact table.request ports p _ fun u hu _ => hu.blockStep p amount
  case selectSource p sel => cases h; exact table.request ports p _ fun u hu _ => hu.blockSelectSource p sel
  case resumeReference p => cases h; exact table.request ports p _ fun u hu _ => hu.blockResumeReference p
  case clearBackup p => cases h; exact table.request ports p _ fun u hu _ => hu.blockClearBackup p
  case armEntry p f => cases h; exact table.request ports p _ fun u hu on => hu.blockArmEntry on p f
  case retimeEntry p a b d l => cases h; exact table.request ports p _ fun u hu _ => hu.blockRetimeEntry p a b d l
  case holdEntry p a b => cases h; exact table.request ports p _ fun u hu _ => hu.blockHoldEntry p a b
  case unholdEntry p a b => cases h; exact table.request ports p _ fun u hu _ => hu.blockUnholdEntry p a b
  case cancelEntry p a b => cases h; exact table.request ports p _ fun u hu _ => hu.blockCancelEntry p a b
  case setQuota p a q => cases h; exact table.request ports p _ fun u hu _ => hu.blockSetQuota p a q
  case detach p => cases h; exact table.request ports p _ fun u hu _ => hu.blockDetach p
  case portReset p =>
    cases h
    have low : TableOk (s.setPrst p .low) := table.of_clock ⟨rfl, rfl, Iff.rfl, rfl, rfl⟩ fun _ _ hb => .inl hb
    exact iteInduction (fun _ => low.portGone p) fun _ => low
  case portLeavesResetHold p =>
    cases h
    have high : TableOk (s.setPrst p .high) := table.of_clock ⟨rfl, rfl, Iff.rfl, rfl, rfl⟩ fun _ _ hb => .inl hb
    exact iteInduction (fun _ => high.of_only (State.leaveHold_only ..)) fun _ => high
  case deviceReset =>
    cases h
    by_cases on : s.running = true
    · rw [if_pos on] at range ⊢
      exact TableOk.of_resetMain (s := s) range rfl
    · rw [if_neg on] at range ⊢
      exact table.of_not_running (Bool.eq_false_iff.2 on) range rfl
  case partLeavesReset straps =>
    cases h
    by_cases held : s.pins.resetHeld = true
    · exact table.of_not_running (by unfold State.running; rw [held]; simp) range frame.schedule
    · exact iteInduction (fun k => absurd k held) fun _ => table
  case powerOnRetained straps =>
    cases h
    by_cases c : s.pins.mainSupply = false ∧ s.backup.retention = true
    · rw [if_pos c] at range ⊢
      exact TableOk.of_resetMain (s := s) range (State.powerOn_schedule ..)
    · rw [if_neg c]; exact table
  case powerOnBackupLost straps =>
    cases h
    by_cases c : s.pins.mainSupply = false ∧ s.backup.retention = false
    · rw [if_pos c] at range ⊢
      exact TableOk.of_resetMain (s := s) range (State.powerOn_schedule ..)
    · rw [if_neg c]; exact table
  case mainSupplyLoss =>
    cases h
    by_cases c : s.pins.mainSupply = true
    · rw [if_pos c] at range ⊢
      exact TableOk.of_resetMain (s := s) range rfl
    · rw [if_neg c]; exact table
  case backupSupplyLoss | backupSupplyReturn =>
    cases on : s.running with
    | false => exact table.of_not_running on range frame.schedule
    | true =>
      have main : s.pins.mainSupply = true := by
        unfold State.running at on
        exact (Bool.and_eq_true_iff.1 on).1
      cases h
      rw [main]
      exact table.of_clock ⟨rfl, rfl, Iff.rfl, rfl, rfl⟩ fun _ _ hb => .inl hb
  case timebaseAdvance part =>
    cases on : s.running with
    | false =>
      cases h
      refine table.of_not_running on range ?_
      cases part with
      | whole first | count first => exact (State.micro_resting on ..).schedule
      | firings first => exact congrArg State.schedule (State.finishAdvance_resting on first)
    | true =>
      cases h
      cases part with
      | whole first | count first =>
        dsimp only [State.micro]
        rw [if_pos on]
        exact table.runMicro time ..
      | firings first => exact table.finishAdvance first
  case slewBlockEnd part | slewEnd part =>
    cases h
    cases part with
    | whole first | count first => exact iteInduction (fun _ => table.runMicro time ..) fun _ => table
    | firings first => exact table.finishAdvance first
  case referenceEdge gap =>
    cases h
    exact iteInduction (fun _ => table.of_quality (s.takeReferenceEdge_quality gap) (s.takeReferenceEdge_only gap))
      fun _ => table
  case windowEnd =>
    cases h
    exact iteInduction (fun _ => table.of_quality s.endWindow_quality s.endWindow_only) fun _ => table
  case referenceLoss =>
    cases h
    exact iteInduction (fun _ => table.of_quality s.loseReference_quality s.loseReference_only) fun _ => table
  case capturePinChange c x =>
    cases h
    exact iteInduction (fun _ => table.filterRaw c x)
      fun _ => table.of_clock ⟨rfl, rfl, Iff.rfl, rfl, rfl⟩ fun _ _ hb => .inl hb
  case edgeTaken c => cases h; exact iteInduction (fun _ => table.takeEdge c) fun _ => table
  case measurementOverflow c => cases h; exact iteInduction (fun _ => table.overflowMeasure c) fun _ => table
  case counterExpiry c => cases h; exact iteInduction (fun _ => table.countEvent c) fun _ => table
  case badRequest p bs inc => exact absurd rfl (proper p bs inc)
  all_goals exact table.of_only frame

/-- Every command keeps the table as it should be (R22, R60 to R62, R65, R74, R87, R88, R113). -/
theorem exec_tableOk {i : Instr} {s t : State} (h : exec i s = .next t) (ports : PortsConsistent s)
    (time : TimeConsistent s) (table : TableOk s) : TableOk t :=
  exec_keeps (Q := PortsAndTime) (fun _ _ only table => table.of_only only)
    (fun i s t proper h beside => exec_tableOk_proper i s t proper h beside.ports beside.time) h ⟨ports, time⟩ table

/-- Settles O57. -/
theorem stepsKeepTableConsistent : Obligations.StepsKeepTableConsistent := by
  intro s t ports time table ahead h
  have ⟨range, _, _⟩ := time
  have ok : TableOk t := step_keeps (P := TableOk) (Q := PortsAndTime)
    (fun _ _ k => k.of_clock ⟨rfl, rfl, Iff.rfl, rfl, rfl⟩ fun _ _ hb => .inl hb) (fun _ _ k => ⟨k.ports, k.time⟩)
    (fun _ _ _ h beside => exec_tableOk h beside.ports beside.time) h ⟨ports, time⟩ (TableOk.intro range table ahead)
  exact ⟨ok.tableConsistent, ok.dueAhead⟩

end Sys2Proof.Machine
end

section
/-! What the requests of the timebase and SLEW answer (R7, R9 to R14, R22, R52). -/

namespace Sys2Proof.Machine

/-- The days of a year (R10). -/
def yearLength (year : Nat) : Nat := if year % 4 = 0 then 366 else 365

/-- The lengths of the months of a year (R10). -/
def monthLengths (leap : Bool) : List Nat := [31, if leap then 29 else 28, 31, 30, 31, 30, 31, 31, 30, 31, 30, 31]

/-- A day of the year lies in the month of a row of R10's table. -/
structure InMonth (leap : Bool) (doy : Nat) (row : Nat × Nat) : Prop where
  low : 1 ≤ row.1
  high : row.1 ≤ 12
  sum : ((monthLengths leap).take (row.1 - 1)).sum = daysBefore leap row
  before : daysBefore leap row < doy
  most : doy - daysBefore leap row ≤ (monthLengths leap).getD (row.1 - 1) 0

/-! ## A request that changes the state -/

/-- The port of a request that its block answers, where the block leaves the port's unit as it found it. -/
theorem State.request_answered {s : State} {p : Port} (h : Ready s p) (n : Nat)
    {block : State → State × Option Response} {t : State} {r : Response}
    (hb : block (s.shiftOut p ((s.port p).requestMiso (n + 3))) = (t, some r)) :
    s.request p n block = t.setSlot p (.ready r) := by
  rw [State.request_ready h, hb]

/-- A request refused or answered: its block runs on the state in which the port's transaction is over. -/
theorem PortUnit.replied_eq (u : PortUnit) (n : Nat) (r : Response) :
    u.replied n r = { u with miso := u.requestMiso (n + 3), transfer := .idle, slot := .ready r } := rfl

theorem State.port_shiftOut (s : State) (p q : Port) (bs : List Byte) :
    (s.shiftOut p bs).port q = if q = p then { s.port p with miso := bs, transfer := .idle } else s.port q :=
  s.port_setPort p q _

theorem State.port_setSlot (s : State) (p q : Port) (x : Slot) :
    (s.setSlot p x).port q = if q = p then { s.port p with slot := x } else s.port q :=
  s.port_setPort p q _

/-- A transaction's end leaves every port attached that was. -/
@[simp] theorem State.attached_shiftOut (s : State) (p q : Port) (bs : List Byte) :
    (s.shiftOut p bs).attached q = s.attached q := by
  simp only [State.attached, State.port_shiftOut]
  split
  next e => rw [e]
  · rfl

/-- A request whose block answers without touching the ports leaves its port the response alone. -/
theorem State.request_replied {s : State} {p : Port} (h : Ready s p) (n : Nat)
    {block : State → State × Option Response} {t : State} {r : Response} {ps : List Part}
    (hb : block (s.shiftOut p ((s.port p).requestMiso (n + 3))) = (t, some r))
    (only : OnlyChanges ps (s.shiftOut p ((s.port p).requestMiso (n + 3))) t) (none : Part.ports ∉ ps := by decide) :
    OnlyChanges (.ports :: ps) s (s.request p n block) ∧ Replied p n r s (s.request p n block) := by
  rw [State.request_answered h n hb]
  refine ⟨?_, ?_, fun q hq => ?_⟩
  · refine (((s.setPort_only ..).mono ?_).trans (only.mono ?_)).trans ((State.setPort_only ..).mono ?_) <;> simp_all
  · rw [State.port_setSlot, if_pos rfl, only.port p none, State.port_shiftOut, if_pos rfl, PortUnit.replied_eq]
  · rw [State.port_setSlot, if_neg hq, only.port q none, State.port_shiftOut, if_neg hq]

/-! ## READ_TIME and READ_CALENDAR -/

/-- Settles O9. -/
theorem readTimeReportsSample : Obligations.ReadTimeReportsSample := by
  intro p s ready
  refine ⟨_, rfl, State.request_reported ready 0 _ ?_⟩
  simp [blockReadTime, Timestamp.bytes, State.stamp, secondsOf, microsOf, timeBytes]

/-- The days before a year are the lengths of the years before it (R10). -/
theorem sum_yearLength (n : Nat) :
    ((List.range n).map fun k => yearLength (2000 + k)).sum = yearStart (2000 + n) := by
  induction n with
  | zero => rfl
  | succ n ih =>
    rw [List.range_succ, List.map_append, List.sum_append, ih]
    simp only [List.map_cons, List.map_nil, List.sum_cons, List.sum_nil, yearLength, yearStart]
    have : (2000 + n) % 4 = n % 4 := by omega
    rw [this, Nat.add_sub_cancel_left, Nat.add_sub_cancel_left]
    split <;> split <;> omega

/-- The year of a day number, by the four-year span it lies in and the year of that span (R10). -/
theorem yearOf_span (day : Nat) : ∃ q j r, day = 1461 * q + r ∧ yearOf day = 2000 + (4 * q + j) ∧ j ≤ 3 ∧
    (j = 0 ∧ r < 366 ∨ 0 < j ∧ 366 + 365 * (j - 1) ≤ r ∧ r < 366 + 365 * j) := by
  refine ⟨day / 1461, if day % 1461 < 366 then 0 else (day % 1461 - 366) / 365 + 1, day % 1461, by omega, ?_, ?_, ?_⟩
  · unfold yearOf; dsimp only; omega
  · split <;> omega
  · split
    · exact .inl ⟨rfl, by assumption⟩
    · exact .inr (by omega)

/-- A day number lies in its year (R10). -/
theorem day_in_yearOf (day : Nat) :
    yearStart (yearOf day) ≤ day ∧ day < yearStart (yearOf day) + yearLength (yearOf day) ∧ 2000 ≤ yearOf day := by
  obtain ⟨q, j, r, rfl, e, j3, place⟩ := yearOf_span day
  rw [e]
  have start : yearStart (2000 + (4 * q + j)) = 1461 * q + (if j = 0 then 0 else 366 + 365 * (j - 1)) := by
    unfold yearStart
    dsimp only
    rw [show (2000 + (4 * q + j) - 2000) / 4 = q by omega, show (2000 + (4 * q + j) - 2000) % 4 = j by omega]
  have length : yearLength (2000 + (4 * q + j)) = if j = 0 then 366 else 365 := by
    unfold yearLength
    rw [show (2000 + (4 * q + j)) % 4 = j by omega]
  rw [start, length]
  obtain ⟨rfl, lt⟩ | ⟨pos, ge, lt⟩ := place
  · exact ⟨by simp, by simp [lt], by omega⟩
  · rw [if_neg (by omega), if_neg (by omega)]; omega

/-- The last of a list of rows in ascending order is the greatest. -/
theorem le_getLastD {l : List (Nat × Nat)} (h : l.Pairwise fun a b => a.1 ≤ b.1) {x : Nat × Nat} (hx : x ∈ l)
    (d : Nat × Nat) : x.1 ≤ (l.getLastD d).1 := by
  induction l generalizing d x with
  | nil => cases hx
  | cons y ys ih =>
    rw [List.pairwise_cons] at h
    obtain ⟨first, rest⟩ := h
    rw [List.getLastD_cons]
    rcases List.mem_cons.1 hx with rfl | hx
    · cases ys with
      | nil => exact Nat.le_refl _
      | cons z zs => exact Nat.le_trans (first z (List.mem_cons_self ..)) (ih rest (List.mem_cons_self ..) _)
    · exact ih rest hx y

theorem getLastD_mem {l : List (Nat × Nat)} (h : l ≠ []) (d : Nat × Nat) : l.getLastD d ∈ l := by
  rw [List.getLastD_eq_getLast?, List.getLast?_eq_some_getLast h]
  exact List.getLast_mem h

/-- A row of R10's table: the days before its month, and the month after it or the end of the year. -/
theorem monthTable_row (leap : Bool) : ∀ row ∈ monthTable,
    1 ≤ row.1 ∧ row.1 ≤ 12 ∧ ((monthLengths leap).take (row.1 - 1)).sum = daysBefore leap row ∧
      (daysBefore leap row + (monthLengths leap).getD (row.1 - 1) 0 = (if leap then 366 else 365) ∨
        ∃ next ∈ monthTable, next.1 = row.1 + 1 ∧
          daysBefore leap next = daysBefore leap row + (monthLengths leap).getD (row.1 - 1) 0) := by
  cases leap <;> decide

/-- The month of a day of the year, and its place in the month (R10). -/
theorem monthRow_inMonth (leap : Bool) {doy : Nat} (pos : 1 ≤ doy) (le : doy ≤ if leap then 366 else 365) :
    InMonth leap doy (monthRow leap doy) := by
  have first : (1, 0) ∈ monthTable.filter fun row => decide (daysBefore leap row < doy) :=
    List.mem_filter.2 ⟨List.mem_cons_self .., decide_eq_true (by unfold daysBefore; simp; omega)⟩
  have mem : monthRow leap doy ∈ monthTable.filter fun row => decide (daysBefore leap row < doy) :=
    getLastD_mem (List.ne_nil_of_mem first) _
  obtain ⟨inTable, before⟩ := List.mem_filter.1 mem
  have before := of_decide_eq_true before
  obtain ⟨low, high, sum, last | ⟨next, hnext, succ, days⟩⟩ := monthTable_row leap _ inTable
  · exact ⟨low, high, sum, before, by omega⟩
  · refine ⟨low, high, sum, before, ?_⟩
    have notYet : ¬ daysBefore leap next < doy := fun lt => by
      have ascending : (monthTable.filter fun row => decide (daysBefore leap row < doy)).Pairwise fun a b => a.1 ≤ b.1 :=
        List.Pairwise.sublist List.filter_sublist (by decide)
      have := le_getLastD ascending (List.mem_filter.2 ⟨hnext, decide_eq_true lt⟩) (1, 0)
      change next.1 ≤ (monthRow leap doy).1 at this
      omega
    omega

/-- The last day of the calendar lies in 2099 (R1, R9). -/
theorem yearOf_le {day : Nat} (h : day ≤ 36524) : yearOf day ≤ 2099 := by
  unfold yearOf
  dsimp only
  split <;> omega

/-- Settles O10. -/
theorem readCalendarReportsDate : Obligations.ReadCalendarReportsDate := by
  intro p s ready within
  refine ⟨_, rfl, ?_⟩
  dsimp only
  set day := s.backup.count / 1000000 / 86400 with hday
  obtain ⟨start, stop, low⟩ := day_in_yearOf day
  have lengths : ∀ y, [31, if y % 4 = 0 then 29 else 28, 31, 30, 31, 30, 31, 31, 30, 31, 30, 31] =
      monthLengths (isLeap y) := fun y => by unfold monthLengths isLeap; simp
  have length : yearLength (yearOf day) = if isLeap (yearOf day) = true then 366 else 365 := by
    unfold yearLength isLeap; simp
  obtain ⟨m1, m12, sum, before, most⟩ := monthRow_inMonth (isLeap (yearOf day)) (doy := dayOfYear day)
    (by unfold dayOfYear; omega) (by unfold dayOfYear; omega)
  refine ⟨yearOf day, monthOf day, dayOfMonth day, hourOf (secondOfDay (s.backup.count / 1000000)),
    minuteOf (secondOfDay (s.backup.count / 1000000)), secondOf (secondOfDay (s.backup.count / 1000000)), dayOfYear day,
    low, yearOf_le (by omega), ?_, ?_, ?_, m1, m12, ?_, ?_, ?_, ?_, ?_, ?_, ?_⟩
  · have total := sum_yearLength (yearOf day - 2000)
    rw [Nat.add_sub_cancel' low] at total
    unfold yearLength at total
    rw [total]
    unfold dayOfYear; omega
  · unfold dayOfYear; omega
  · change dayOfYear day ≤ yearLength (yearOf day)
    unfold dayOfYear; omega
  · rw [lengths]; unfold monthOf dayOfMonth; omega
  · unfold dayOfMonth; omega
  · rw [lengths]; unfold monthOf dayOfMonth; exact most
  · unfold hourOf minuteOf secondOf secondOfDay; omega
  · unfold minuteOf; omega
  · unfold secondOf; omega
  · exact State.request_reported ready 0 _ rfl

end Sys2Proof.Machine
end

section
/-! SLEW (R14, R16, R52) and CLEAR_BACKUP (R20, R22). -/

namespace Sys2Proof.Machine

/-! ## Requests that touch other parts -/

/-- What a request changes: what its block does, and its port. -/
theorem State.request_answered_only {s : State} {p : Port} (h : Ready s p) (n : Nat) {block : State → State × Option Response}
    {t : State} {r : Response} {ps : List Part}
    (hb : block (s.shiftOut p ((s.port p).requestMiso (n + 3))) = (t, some r))
    (only : OnlyChanges ps (s.shiftOut p ((s.port p).requestMiso (n + 3))) t) :
    OnlyChanges (.ports :: ps) s (s.request p n block) := by
  rw [State.request_answered h n hb]
  refine (((s.setPort_only ..).mono ?_).trans (only.mono ?_)).trans ((State.setPort_only ..).mono ?_) <;> simp_all

theorem Ready.attached {s : State} {p : Port} (h : Ready s p) : s.attached p = true := by
  obtain ⟨ready, -⟩ := h
  unfold State.attached
  rw [ready]
  rfl

/-- A copy is stored whatever the slot holds. -/
theorem PortUnit.storeCopy_slot (u : PortUnit) (c : Copy) (x : Slot) :
    { u.storeCopy c with slot := x } = PortUnit.storeCopy c { u with slot := x } := by
  unfold PortUnit.storeCopy
  dsimp only
  split
  · rfl
  · split <;> rfl

/-! ## SLEW -/

/-- A slew that becomes ACTIVE while the range is held leaves with its report, and its record goes to the holder (R16). -/
theorem State.beginSlew_ends {s : State} (h : s.backup.rangeHeld = true) (number : BitVec 8) (amount : Int) :
    (s.beginSlew number amount).slew = SlewState.idle ∧
      (s.beginSlew number amount).authority = { s.authority with
        active := none, report := some { number := number, outcome := .completed, unapplied := amount.natAbs } } ∧
      ∀ q, (s.beginSlew number amount).port q =
        (s.port q).storesIf (decide (s.authority.holder = some q) && s.attached q)
          [(3, adjustDoneRecord number .completed none s.stamp)] := by
  rw [State.beginSlew_held h]
  refine ⟨State.completeSlew_slew rfl _, (State.completeSlew_authority rfl _).trans rfl, fun q => ?_⟩
  rw [State.completeSlew_active rfl]
  exact State.port_deliverTo ..

/-- SLEW in the order of R52, from a state with the authority and the backup domain of s. -/
theorem blockSlew_eq {s u : State} (authority : u.authority = s.authority) (backup : u.backup = s.backup) (p : Port)
    (amount : BitVec 32) :
    blockSlew p amount u =
      if s.authority.holder ≠ some p then u.refuse .notAuthority
      else if amount.toInt.natAbs = 0 ∨ 1000000 < amount.toInt.natAbs then u.refuse .badArg
      else if s.backup.quality = .unset then u.refuse .noTime
      else if s.authority.active.isSome = true ∧ s.authority.waiting.isSome = true then u.refuse .busy
      else if s.authority.active.isSome = true then u.queueAnswer (.slew amount.toInt)
      else (u.takeNumber.beginSlew s.authority.nextNumber amount.toInt).answer .queued [s.authority.nextNumber] := by
  unfold blockSlew State.isHolder Authority.full
  rw [authority, backup]
  simp only [decide_eq_false_iff_not, Int.natAbs_eq_zero, Bool.and_eq_true, ne_eq]

/-- What a SLEW that enters the queue at once leaves: the slew begun, or ended where the range is held (R16, R52). -/
theorem State.slewTaken_ends {s : State} {p : Port} (ready : Ready s p) (holder : s.authority.holder = some p)
    (held : s.backup.rangeHeld = true) (bs : List Byte) (amount : Int) (r : Response) :
    let t := ((s.shiftOut p bs).takeNumber.beginSlew s.authority.nextNumber amount).setSlot p (.ready r)
    t.slew = SlewState.idle ∧
      t.authority = { s.authority with
        active := none, nextNumber := s.authority.nextNumber + 1,
        report := some { number := s.authority.nextNumber, outcome := .completed, unapplied := amount.natAbs } } ∧
      PortBecomes p (PortUnit.stores [(3, adjustDoneRecord s.authority.nextNumber .completed none s.stamp)]
        { s.port p with miso := bs, transfer := .idle, slot := .ready r }) s t := by
  set u := (s.shiftOut p bs).takeNumber with hu
  have shifted : ∀ q, u.port q = if q = p then { s.port p with miso := bs, transfer := .idle } else s.port q :=
    fun q => s.port_shiftOut p q bs
  obtain ⟨slew, authority, ports⟩ := State.beginSlew_ends (s := u) held s.authority.nextNumber amount
  refine ⟨slew, authority.trans rfl, ?_, fun q hq => ?_⟩
  · have attached : (decide (u.authority.holder = some p) && u.attached p) = true :=
      Bool.and_eq_true_iff.2 ⟨decide_eq_true holder, (s.attached_shiftOut ..).trans ready.attached⟩
    rw [State.port_setSlot, if_pos rfl, ports, shifted, if_pos rfl]
    unfold PortUnit.storesIf
    rw [if_pos attached]
    exact PortUnit.storeCopy_slot ..
  · have elsewhere : (decide (u.authority.holder = some q) && u.attached q) = false := by
      rw [show u.authority.holder = some p from holder, decide_eq_false fun e => hq (Option.some.inj e).symm]
      rfl
    rw [State.port_setSlot, if_neg hq, ports, shifted, if_neg hq]
    unfold PortUnit.storesIf
    rw [if_neg (by rw [elsewhere]; nofun)]

/-- Settles O23. -/
theorem slewDecides : Obligations.SlewDecides := by
  intro p amount s ready
  refine ⟨_, rfl, ?_⟩
  dsimp only
  set u := s.shiftOut p ((s.port p).requestMiso (4 + 3)) with hu
  have block := blockSlew_eq (s := s) (u := u) rfl rfl p amount
  by_cases holder : s.authority.holder ≠ some p
  · rw [if_pos holder] at block ⊢
    exact State.request_refused ready 4 _ block
  rw [if_neg holder] at block ⊢
  by_cases size : amount.toInt.natAbs = 0 ∨ 1000000 < amount.toInt.natAbs
  · rw [if_pos size] at block ⊢
    exact State.request_refused ready 4 _ block
  rw [if_neg size] at block ⊢
  by_cases set : s.backup.quality = .unset
  · rw [if_pos set] at block ⊢
    exact State.request_refused ready 4 _ block
  rw [if_neg set] at block ⊢
  by_cases full : s.authority.active.isSome = true ∧ s.authority.waiting.isSome = true
  · rw [if_pos full] at block ⊢
    exact State.request_refused ready 4 _ block
  rw [if_neg full] at block ⊢
  by_cases active : s.authority.active.isSome = true
  · rw [if_pos active] at block ⊢
    obtain ⟨only, replied⟩ := State.request_replied ready 4 block (u.enqueue_only (.slew amount.toInt))
    refine ⟨only.mono (by decide), ?_, replied⟩
    rw [State.request_answered ready 4 block]
    rfl
  rw [if_neg active] at block ⊢
  have taken : OnlyChanges [.slew, .authority, .ports] u u.takeNumber := u.takeNumber_only.mono (by decide)
  refine ⟨(State.request_answered_only ready 4 block (taken.trans (State.beginSlew_only ..))).mono (by decide), ?_⟩
  rw [State.request_answered ready 4 block]
  by_cases held : s.backup.rangeHeld = true
  · rw [if_pos held]
    exact State.slewTaken_ends ready (not_not.1 holder) held _ _ _
  · rw [if_neg held]
    have begun := State.beginSlew_begins (s := u.takeNumber) (Bool.eq_false_iff.2 held) s.authority.nextNumber amount.toInt
    have ports : ∀ q, (u.takeNumber.beginSlew s.authority.nextNumber amount.toInt).port q = u.port q := fun q => by
      rw [begun]; rfl
    refine ⟨by rw [begun]; rfl, by rw [begun]; rfl, ?_, fun q hq => ?_⟩
    · rw [State.port_setSlot, if_pos rfl, ports, PortUnit.replied_eq, hu, s.port_shiftOut, if_pos rfl]
    · rw [State.port_setSlot, if_neg hq, ports, hu, s.port_shiftOut, if_neg hq]

/-! ## CLEAR_BACKUP -/

/-- What CLEAR_BACKUP leaves at every port: TIME_STEPPED and BACKUP_LOST where it is attached (R22). -/
theorem State.port_clearBackup (s : State) (q : Port) :
    s.clearBackup.port q =
      if s.attached q = true then ((s.port q).raise .timeStepped).addCause .backupLost else s.port q := by
  unfold State.clearBackup
  rw [State.port_causeAttached, State.attached_eq, State.port_raiseAll]
  change (if decide (((s.port q).raisedIf (s.attached q) .timeStepped).state ≠ .resetHold) = true
    then ((s.port q).raisedIf (s.attached q) .timeStepped).addCause .backupLost
    else (s.port q).raisedIf (s.attached q) .timeStepped) = _
  unfold PortUnit.raisedIf
  by_cases attached : s.attached q = true
  · rw [if_pos attached, if_pos (by exact attached), if_pos attached]
  · rw [if_neg attached, if_neg (by exact attached), if_neg attached]

/-- CLEAR_BACKUP in the order of R22, from a state with the authority and the table of s. -/
theorem blockClearBackup_eq {s u : State} (authority : u.authority = s.authority) (schedule : u.schedule = s.schedule)
    (p : Port) :
    blockClearBackup p u =
      if s.authority.holder ≠ some p then u.refuse .notAuthority
      else if ∃ i, (s.entry i).body ≠ none then u.refuse .inUse
      else if s.authority.active.isSome = true ∨ s.authority.waiting.isSome = true then u.refuse .busy
      else u.clearBackup.answer .ok [] := by
  have used : (u.countEntries (fun _ => true) ≠ 0) = ∃ i, (s.entry i).body ≠ none := by
    rw [ne_eq, State.countEntries_eq_zero, not_forall]
    unfold State.entry
    rw [schedule]
  unfold blockClearBackup State.isHolder
  rw [authority]
  simp only [used, decide_eq_false_iff_not, Bool.or_eq_true, ne_eq]

/-- Settles O28. -/
theorem clearBackupResetsDomain : Obligations.ClearBackupResetsDomain := by
  intro p s ready
  refine ⟨_, rfl, ?_⟩
  set u := s.shiftOut p ((s.port p).requestMiso (0 + 3)) with hu
  have block := blockClearBackup_eq (s := s) (u := u) rfl rfl p
  by_cases holder : s.authority.holder ≠ some p
  · rw [if_pos holder] at block ⊢
    exact State.request_refused ready 0 _ block
  rw [if_neg holder] at block ⊢
  by_cases used : ∃ i, (s.entry i).body ≠ none
  · rw [if_pos used] at block ⊢
    exact State.request_refused ready 0 _ block
  rw [if_neg used] at block ⊢
  by_cases busy : s.authority.active.isSome = true ∨ s.authority.waiting.isSome = true
  · rw [if_pos busy] at block ⊢
    exact State.request_refused ready 0 _ block
  rw [if_neg busy] at block ⊢
  refine ⟨(State.request_answered_only ready 0 block u.clearBackup_only).mono (by decide), ?_, ?_, fun q => ?_⟩ <;>
    rw [State.request_answered ready 0 block]
  · exact u.clearBackup_backup
  · exact ((State.causeAttached_only ..).keeps .monitor (by decide)).trans
      ((State.raiseAll_only ..).keeps .monitor (by decide))
  · rw [State.port_setSlot, u.port_clearBackup, u.port_clearBackup, s.attached_shiftOut, s.attached_shiftOut]
    dsimp only
    by_cases e : q = p
    · subst e
      rw [if_pos rfl, if_pos rfl, hu, s.port_shiftOut, if_pos rfl, if_pos ready.attached, if_pos ready.attached]
      rfl
    · rw [if_neg e, if_neg e, hu, s.port_shiftOut, if_neg e]

end Sys2Proof.Machine
end

section
/-! One microsecond of a part that runs, at which no event of its own clocks is due: the count, with no slew in progress and
in a slew block, and the firings of the entries that it reaches (R2, R3, R8, R14, R98). -/

namespace Sys2Proof.Machine

/-- One device microsecond has been counted, the slew is as given and the count has the value given; nothing else has
changed. -/
structure CountedTo (x : SlewState) (v : Nat) (s u : State) : Prop where
  only : OnlyChanges [.backup, .slew, .monitor, .lines, .channels, .digest] s u
  timers : CountedOne s u
  slew : u.slew = x
  backup : u.backup = { s.backup with count := v }

theorem CountedTo.now {x : SlewState} {v : Nat} {s u : State} (h : CountedTo x v s u) : u.now = v :=
  congrArg Backup.count h.backup

/-! ## A quiet microsecond -/

theorem foldl_takeDue_eq {t : State} {l : List DueEvent} (h : ∀ d ∈ l, t.takeDue d = t) : l.foldl State.takeDue t = t := by
  induction l with
  | nil => rfl
  | cons d ds ih =>
    rw [List.foldl_cons, h d List.mem_cons_self]
    exact ih fun e he => h e (List.mem_cons_of_mem d he)

/-- Where nothing is due, a microsecond is the count of the timers and the timebase's own. -/
theorem Quiet.runMicro {first : List DueEvent} {s : State} (h : Quiet first s) (fires : Bool) :
    s.runMicro first fires = s.countTimers.timebaseMicro fires := by
  obtain ⟨-, unfired, none, later⟩ := h
  have settled : s.settle = s := by
    unfold State.settle
    rw [State.fireUnfired_none unfired]
    exact foldl_takeDue_eq fun d _ => none d
  unfold State.runMicro
  rw [settled, foldl_takeDue_eq later]

/-- The two forms of the command that advances the timebase, at a quiet microsecond. -/
theorem Quiet.advances {first : List DueEvent} {s : State} (h : Quiet first s) :
    exec (.timebaseAdvance (.whole first)) s = .next (s.countTimers.timebaseMicro true) ∧
      exec (.timebaseAdvance (.count first)) s = .next (s.countTimers.timebaseMicro false) := by
  have micro : ∀ fires, s.micro first fires = s.countTimers.timebaseMicro fires := fun fires => by
    rw [← h.runMicro fires]
    obtain ⟨running, -⟩ := h
    unfold State.micro
    rw [if_pos running]
  exact ⟨congrArg _ (micro true), congrArg _ (micro false)⟩

/-- The two forms of the command for a block's end, at the quiet microsecond that ends a block. -/
theorem Quiet.endsBlock {first : List DueEvent} {s : State} (h : Quiet first s) (atEnd : s.atBlockEnd = true) :
    exec (.slewBlockEnd (.whole first)) s = .next (s.countTimers.timebaseMicro true) ∧
      exec (.slewBlockEnd (.count first)) s = .next (s.countTimers.timebaseMicro false) := by
  rw [← h.runMicro, ← h.runMicro]
  obtain ⟨running, -⟩ := h
  have ends : (s.running && s.atBlockEnd) = true := by rw [running, atEnd]; rfl
  exact ⟨congrArg _ (if_pos ends), congrArg _ (if_pos ends)⟩

/-- Every part that counts device microseconds counts one (R3). -/
theorem State.countTimers_counted (s : State) : CountedOne s s.countTimers :=
  ⟨fun l => ((State.countChannels_only _).line l).trans (s.line_countLines l),
    fun c => (State.channel_countChannels _ c).trans (congrArg Channel.tick (s.countLines_only.channel c)),
    congrArg Monitor.tick (((State.countChannels_only _).keeps .monitor (by decide)).trans
      (s.countLines_only.keeps .monitor (by decide))),
    congrArg (Option.map _) ((State.countChannels_only _).digest.trans s.countLines_only.digest)⟩

theorem CountedOne.of_only {ps : List Part} {s u t : State} (h : CountedOne s u) (only : OnlyChanges ps u t)
    (n : Part.lines ∉ ps ∧ Part.channels ∉ ps ∧ Part.monitor ∉ ps ∧ Part.digest ∉ ps := by decide) : CountedOne s t := by
  obtain ⟨lines, channels, monitor, digest⟩ := h
  obtain ⟨nl, nc, nm, nd⟩ := n
  exact ⟨fun l => (only.line l nl).trans (lines l), fun c => (only.channel c nc).trans (channels c),
    (only.keeps .monitor nm).trans monitor, (only.digest nd).trans digest⟩

/-- A slew in progress counts one of the device microseconds of its block (R14). -/
def SlewState.counted (x : SlewState) : SlewState :=
  if x.direction = .none then x else { x with blockElapsed := x.blockElapsed + 1 }

/-- Short of a block's end, the timebase counts in the block of a slew in progress and advances by one value (R2, R14). -/
theorem State.timebaseMicro_within {s : State} (h : s.slew.direction = .none ∨ s.slew.blockElapsed < 999) (fires : Bool) :
    s.timebaseMicro fires = State.advanceOne { s with slew := s.slew.counted } fires := by
  have within : ¬ s.atBlockEnd = true := by
    rw [State.atBlockEnd_iff]
    rintro ⟨dir, elapsed⟩
    exact h.elim dir fun lt => by omega
  unfold State.timebaseMicro SlewState.counted
  rw [if_neg within]
  split <;> rfl

/-- A quiet microsecond counted, but for the advance: the timers, and the block of a slew in progress (R3, R14). -/
def State.counted (s : State) : State := { s.countTimers with slew := s.slew.counted }

theorem State.counted_only (s : State) : OnlyChanges [.slew, .monitor, .lines, .channels, .digest] s s.counted := by
  refine (s.countTimers_only.mono (by decide)).trans ?_
  exact ⟨fun q hq => by cases q <;> first | rfl | exact absurd (by decide) hq⟩

theorem State.counted_counted (s : State) : CountedOne s s.counted := s.countTimers_counted

theorem State.timebaseMicro_counted {s : State} (h : s.slew.direction = .none ∨ s.slew.blockElapsed < 999)
    (fires : Bool) : s.countTimers.timebaseMicro fires = s.counted.advanceOne fires := by
  have slew := s.countTimers_only.slew
  rw [State.timebaseMicro_within (by rw [slew]; exact h), slew]
  rfl

/-! ## An advance by one value -/

/-- An advance by one value, where the count counts and the range does not end (R2). -/
theorem State.advanceOne_counts {s : State} (set : s.backup.quality ≠ .unset) (free : s.backup.rangeHeld = false)
    (room : s.now < Config.endOfRange) (fires : Bool) : s.advanceOne fires = s.advanceTo (s.now + 1) fires := by
  unfold State.advanceOne
  rw [if_pos (s.counting_iff.2 ⟨set, free⟩), if_pos room]

/-- An advance by one value, where the count stays (R2, R16). -/
theorem State.advanceOne_stays {s : State} (h : ¬ (s.backup.quality ≠ .unset ∧ s.backup.rangeHeld = false)) (fires : Bool) :
    s.advanceOne fires = s := by
  unfold State.advanceOne
  rw [if_neg fun c => h (s.counting_iff.1 c)]

/-- The count at a value, with no firing made. -/
def State.atCount (s : State) (v : Nat) : State := { s with backup := { s.backup with count := v } }

theorem State.atCount_only (s : State) (v : Nat) : OnlyChanges [.backup] s (s.atCount v) :=
  ⟨fun q hq => by cases q <;> first | rfl | exact absurd (by decide) hq⟩

theorem State.counted_countedTo (s : State) (v : Nat) : CountedTo s.slew.counted v s (s.counted.atCount v) where
  only := (s.counted_only.mono (by decide)).trans ((State.atCount_only ..).mono (by decide))
  timers := s.counted_counted
  slew := rfl
  backup := by
    unfold State.atCount
    rw [s.counted_only.backup]

/-- Whether the firings of the latest advance are left. -/
def State.withUnfired (s : State) (x : Bool) : State := { s with unfired := x }

theorem State.withUnfired_only (s : State) (x : Bool) : OnlyChanges [.unfired] s (s.withUnfired x) :=
  ⟨fun q hq => by cases q <;> first | rfl | exact absurd (by decide) hq⟩

theorem State.withUnfired_eq {s : State} {x : Bool} (h : s.unfired = x) : s.withUnfired x = s := by
  subst h; rfl

/-- The count advances by one value: with the firings it calls for, or with these left (R2, R98; log 30). -/
theorem State.timebaseMicro_advances {s : State} (within : s.slew.direction = .none ∨ s.slew.blockElapsed < 999)
    (set : s.backup.quality ≠ .unset) (free : s.backup.rangeHeld = false) (room : s.now < Config.endOfRange) :
    s.countTimers.timebaseMicro true = (s.counted.atCount (s.now + 1)).fireReached ∧
      s.countTimers.timebaseMicro false = (s.counted.atCount (s.now + 1)).withUnfired true := by
  have backup := s.counted_only.backup
  have advance : ∀ fires, s.countTimers.timebaseMicro fires = s.counted.advanceTo (s.now + 1) fires := fun fires => by
    rw [State.timebaseMicro_counted within, State.advanceOne_counts (by rw [backup]; exact set)
      (by rw [backup]; exact free) (by rw [s.counted_only.now]; exact room), s.counted_only.now]
  exact ⟨advance true, advance false⟩

/-- Of the entries that an advance reaches, none has been passed where none is due before now (R98). -/
theorem State.fireReached_atNow {s : State} (h : ∀ i d, (s.entry i).armedDue = some d → s.now ≤ d) :
    FiresInOrder false (s.dueAt s.now) s s.fireReached := by
  have passed : s.fireWhere (fun d => decide (d < s.now)) = s := State.fireWhere_none fun i => by
    cases e : (s.entry i).armedDue with
    | none => rfl
    | some d => exact decide_eq_false (Nat.not_lt.2 (h i d e))
  have fires := s.fireWhere_inOrder fun d => decide (d ≤ s.now)
  have due : s.dueAt s.now = allEntries.filter fun i => (s.entry i).armedDue.any fun d => decide (d ≤ s.now) := by
    unfold State.dueAt
    rw [finRange_entries]
    refine List.filter_congr fun i _ => ?_
    cases e : (s.entry i).armedDue with
    | none => rfl
    | some d =>
      have := h i d e
      simp only [Option.any_some, Option.some.injEq]
      exact decide_eq_decide.2 (by omega)
  unfold State.fireReached State.fireDue
  rw [passed, due]
  exact fires

/-- With the firings of the advance before it made and the range not held, what is ARMED lies after the count. -/
theorem DueAhead.lt {s : State} (h : DueAhead s) (unfired : s.unfired = false) (free : s.backup.rangeHeld = false)
    {i : EntryIx} {d : Nat} (hd : (s.entry i).armedDue = some d) : s.now < d := by
  obtain ⟨ahead, -⟩ := h i d hd
  have := ahead free
  rwa [unfired] at this

/-- In a consistent table no entry due now or at the value before fires twice. -/
theorem TableConsistent.firesOnce {s : State} (h : ∀ i b, (s.entry i).body = some b → b.Consistent)
    (near : ∀ i d, (s.entry i).armedDue = some d → s.now ≤ d + 1) : s.FiresOnce := fun i b due _ hb hr =>
  Body.lt_of_nextRun (h i b hb).period fun _ => near i due (Entry.armedDue_of hb hr)

/-- Settles O29. -/
theorem advanceCountsOneMicrosecond : Obligations.AdvanceCountsOneMicrosecond := by
  intro first s quiet within clear
  have ⟨_, unfired, _⟩ := quiet
  obtain ⟨whole, count⟩ := quiet.advances
  have counts : ∀ fires, ∃ t, s.countTimers.timebaseMicro fires = t ∧
      OnlyChanges [.backup, .slew, .unfired, .monitor, .lines, .channels, .digest] s t ∧ CountedOne s t ∧
      (t.unfired = true ↔ fires = false ∧ s.backup.quality ≠ .unset ∧ s.backup.rangeHeld = false) ∧
      t.slew = s.slew.counted ∧
      if s.backup.quality ≠ .unset ∧ s.backup.rangeHeld = false then
        t.backup = { s.backup with count := s.backup.count + 1 }
      else t.backup = s.backup := by
    intro fires
    by_cases counting : s.backup.quality ≠ .unset ∧ s.backup.rangeHeld = false
    · obtain ⟨set, free⟩ := counting
      obtain ⟨room, later⟩ := clear set free
      obtain ⟨fired, left⟩ := State.timebaseMicro_advances within set free room
      have reached : (s.counted.atCount (s.now + 1)).fireReached = s.counted.atCount (s.now + 1) :=
        State.fireReached_none fun i d hd => later i d (by rw [← s.counted_only.entry i]; exact hd)
      obtain ⟨moved, timers, slew, backup⟩ := s.counted_countedTo (s.now + 1)
      simp only [if_pos (show s.backup.quality ≠ .unset ∧ s.backup.rangeHeld = false from ⟨set, free⟩)]
      cases fires with
      | true =>
        refine ⟨_, fired.trans reached, moved.mono (by decide), timers, ?_, slew, backup⟩
        simp [moved.unfired.trans unfired]
      | false =>
        refine ⟨_, left, (moved.mono (by decide)).trans ((State.withUnfired_only ..).mono (by decide)), timers, ?_, slew,
          backup⟩
        simp [State.withUnfired, set, free]
    · have stays : s.counted.advanceOne fires = s.counted :=
        State.advanceOne_stays (by rw [s.counted_only.backup]; exact counting) fires
      simp only [if_neg counting]
      refine ⟨_, (State.timebaseMicro_counted within fires).trans stays, s.counted_only.mono (by decide),
        s.counted_counted, ?_, rfl, s.counted_only.backup⟩
      rw [s.counted_only.unfired, unfired]
      simp only [Bool.false_eq_true, false_iff]
      exact fun h => counting h.2
  intro part hpart
  rcases List.mem_cons.1 hpart with rfl | hpart
  · obtain ⟨t, e, changes, counted, left, rest⟩ := counts true
    refine ⟨t, by rw [whole, e], changes, counted, left.trans (by simp), rest⟩
  · obtain rfl := List.mem_singleton.1 hpart
    obtain ⟨t, e, changes, counted, left, rest⟩ := counts false
    exact ⟨t, by rw [count, e], changes, counted, left.trans (by simp), rest⟩

end Sys2Proof.Machine
end

section
/-! The firings of an advance, and the end of a slew block that is not the last (R8, R14, R98). -/

namespace Sys2Proof.Machine

/-! ## The firings of an advance -/

theorem eq_singleton_of_nodup {α : Type} {l : List α} (nodup : l.Nodup) {a : α} (h : ∀ x, x ∈ l ↔ x = a) : l = [a] :=
  List.perm_singleton.1 ((List.perm_ext_iff_of_nodup nodup (List.nodup_singleton a)).2 fun x => by
    rw [h, List.mem_singleton])

/-- A firing does from a state what it does from any other with the same table, subscriptions and ports. -/
theorem Fires.of_same {whole late : Bool} {i : EntryIx} {b : Body} {due missed : Nat} {lines : LineNo → Line}
    {walk : Option Walk} {ports : Port → PortUnit} {s u t : State} (h : Fires whole i b due late missed lines walk ports u t)
    (schedule : u.schedule = s.schedule) (subs : u.subs = s.subs) (units : u.ports = s.ports) :
    Fires whole i b due late missed lines walk ports s t := by
  simp only [Fires, EntryBecomes, GenerationsRise, SubsEnd, State.recordCopies, State.endedRecords, State.entry, State.sub,
    State.attached, State.port, schedule, subs, units] at h ⊢
  exact h

/-- The first of the firings that an advance has left is made alone, and the others are left still (R98; log 30). -/
theorem State.fireOne_fires {e : State} (unfired : e.unfired = true) :
    ∃ u, OnlyChanges [.unfired] e u ∧ u.unfired = decide (1 < (e.passed ++ e.dueAt e.now).length) ∧
      FiresInOrder false ((e.passed ++ e.dueAt e.now).take 1) u e.fireOne := by
  cases left : e.passed ++ e.dueAt e.now with
  | nil =>
    refine ⟨e.withUnfired false, e.withUnfired_only _, rfl, ?_⟩
    unfold State.fireOne
    rw [if_pos unfired, State.reached_eq, left]
    rfl
  | cons i rest =>
    have armed : ∃ d, (e.entry i).armedDue = some d := by
      have mem : i ∈ e.passed ++ e.dueAt e.now := left ▸ List.mem_cons_self
      obtain mem | mem := List.mem_append.1 mem
      · obtain ⟨d, hd, -⟩ := State.mem_passed.1 mem
        exact ⟨d, hd⟩
      · exact ⟨_, State.mem_dueAt.1 mem⟩
    obtain ⟨d, hd⟩ := armed
    obtain ⟨b, hb, hr⟩ := Entry.armedDue_eq_some.1 hd
    refine ⟨e.withUnfired (!rest.isEmpty), e.withUnfired_only _, ?_, ?_⟩
    · cases rest <;> simp [State.withUnfired]
    · rw [State.fireOne_cons unfired (State.reached_eq e ▸ left)]
      have fires := State.fire_fires (s := e.withUnfired (!rest.isEmpty)) (by exact hb) hr false 0
      exact ⟨_, ⟨b, d, hb, hr, State.fire_only .., fires⟩, rfl⟩

/-- The firings that an advance has left are made in their order (R98; log 30). -/
theorem State.fireUnfired_fires {e : State} (unfired : e.unfired = true) (free : e.backup.rangeHeld = false)
    (table : TableConsistent e) (ahead : DueAhead e) :
    ∃ u, OnlyChanges [.unfired] e u ∧ u.unfired = false ∧
      FiresInOrder false (e.passed ++ e.dueAt e.now) u e.fireUnfired := by
  refine ⟨e.withUnfired false, e.withUnfired_only _, rfl, ?_⟩
  have once : (e.withUnfired false).FiresOnce :=
    TableConsistent.firesOnce (fun i b hb => (table i b hb).1) fun i d hd => by
      obtain ⟨near, -⟩ := ahead i d hd
      have := near free
      rwa [unfired] at this
  rw [State.fireUnfired_left unfired]
  exact State.fireReached_inOrder once

/-- Settles O30. -/
theorem advanceFiresDueEntry : Obligations.AdvanceFiresDueEntry := by
  refine ⟨?_, ?_⟩
  · intro first s quiet within room set free
    obtain ⟨whole, count⟩ := quiet.advances
    obtain ⟨fired, left⟩ := State.timebaseMicro_advances within set free room
    obtain ⟨moved, timers, slew, backup⟩ := s.counted_countedTo (s.now + 1)
    have ⟨lines, channels, monitor, digest⟩ := timers
    have due : ∀ v, (s.counted.atCount (s.now + 1)).dueAt v = s.dueAt v := fun v => by
      unfold State.dueAt
      simp only [moved.entry]
    have fires : (∀ i d, (s.entry i).armedDue = some d → s.now + 1 ≤ d) →
        FiresInOrder false (s.dueAt (s.now + 1)) (s.counted.atCount (s.now + 1))
          (s.counted.atCount (s.now + 1)).fireReached := fun h => by
      rw [← due]
      exact State.fireReached_atNow fun i d hd => h i d (by rw [← moved.entry i]; exact hd)
    refine ⟨fun i b hb hr others => ?_, fun ahead => ?_, ?_⟩
    · have here : (s.entry i).armedDue = some (s.now + 1) := Entry.armedDue_of hb hr
      have only : s.dueAt (s.now + 1) = [i] :=
        eq_singleton_of_nodup ((List.nodup_finRange 64).filter _) fun j => by
          refine State.mem_dueAt.trans ⟨fun hj => ?_, fun e => e ▸ here⟩
          by_contra ne
          exact Nat.lt_irrefl _ (others j _ ne hj)
      have later : ∀ j d, (s.entry j).armedDue = some d → s.now + 1 ≤ d := fun j d hd => by
        by_cases e : j = i
        · subst e; rw [here] at hd; cases hd; exact Nat.le_refl _
        · exact Nat.le_of_lt (others j d e hd)
      have order := fires later
      rw [only] at order
      obtain ⟨t, ⟨b', d, hb', hr', changes, fires⟩, rfl⟩ := order
      rw [moved.entry i, hb] at hb'
      cases hb'
      rw [hr] at hr'
      cases hr'
      rw [show (s.counted.atCount (s.now + 1)).line = _ from funext lines, digest,
        show (s.counted.atCount (s.now + 1)).port = s.port from funext fun q => moved.port q] at fires
      refine ⟨_, by rw [whole, fired], (moved.mono (by decide)).trans (changes.mono (by decide)),
        changes.backup.trans backup, changes.slew.trans slew, (changes.keeps .monitor (by decide)).trans monitor,
        fun c => (changes.channel c).trans (channels c), ?_⟩
      exact fires.of_same moved.schedule (moved.keeps .subs (by decide)) (moved.keeps .ports (by decide))
    · have ⟨_, unfired, _⟩ := quiet
      exact ⟨_, _, by rw [whole, fired], moved, timers, backup, slew,
        fires fun i d hd => ahead.lt unfired free hd⟩
    · exact ⟨(s.counted.atCount (s.now + 1)).withUnfired true, by rw [count, left], (moved.mono (by decide)).trans ((State.withUnfired_only ..).mono (by decide)),
        timers, backup, slew, rfl⟩
  · intro first s running
    dsimp only
    set e := first.foldl State.takeDue s
    refine ⟨fun h => State.fireOne_none h, fun unfired _ _ _ => State.fireOne_fires unfired, fun c hc => ?_⟩
    have finish : exec c s = .next e.fireUnfired := by
      have finished : s.finishAdvance first = e.fireUnfired := if_pos running
      rw [← finished]
      simp only [List.mem_cons, List.not_mem_nil, or_false] at hc
      rcases hc with rfl | rfl | rfl <;> rfl
    refine ⟨fun none => by rw [finish, State.fireUnfired_none none], fun unfired free table ahead => ?_⟩
    obtain ⟨u, changes, none, fires⟩ := State.fireUnfired_fires unfired free table ahead
    exact ⟨u, _, finish, changes, none, fires⟩

/-! ## The end of a slew block -/

/-- The thousandth microsecond of a slew block counted, but for the advance: one is taken from the slew remaining (R14). -/
def State.blockCounted (s : State) : State := s.countTimers.countBlock

theorem State.blockCounted_only (s : State) : OnlyChanges [.slew, .monitor, .lines, .channels, .digest] s s.blockCounted :=
  (s.countTimers_only.mono (by decide)).trans ((State.countBlock_only _).mono (by decide))

/-- What a block's end leaves before the end of the slew: the count 2 on under a POSITIVE slew, and where it was under a
NEGATIVE one (R14). -/
def State.blockAdvanced (s : State) : State :=
  s.blockCounted.atCount (if s.slew.direction = .positive then s.now + 2 else s.now)

theorem State.blockAdvanced_countedTo (s : State) :
    CountedTo { s.slew with remaining := s.slew.remaining - 1, blockElapsed := 0 }
      (if s.slew.direction = .positive then s.now + 2 else s.now) s s.blockAdvanced where
  only := (s.blockCounted_only.mono (by decide)).trans ((State.atCount_only ..).mono (by decide))
  timers := (s.countTimers_counted.of_only (State.countBlock_only _)).of_only (State.atCount_only ..)
  slew := by
    unfold State.blockAdvanced State.blockCounted State.countBlock State.atCount
    rw [s.countTimers_only.slew]
  backup := by
    unfold State.blockAdvanced State.atCount
    rw [s.blockCounted_only.backup]

/-- A block's end, with the firings of its advance and with these left, and then the end of a slew of which nothing remains
(R14; log 30). -/
theorem State.timebaseMicro_endsBlock {s : State} (atEnd : s.atBlockEnd = true) (unfired : s.unfired = false)
    (room : s.slew.direction = .positive → s.now + 2 ≤ Config.endOfRange) :
    s.countTimers.timebaseMicro true =
        (if s.slew.direction = .positive then s.blockAdvanced.fireReached else s.blockAdvanced).endSlewIfDone ∧
      s.countTimers.timebaseMicro false =
        (s.blockAdvanced.withUnfired (decide (s.slew.direction = .positive))).endSlewIfDone := by
  have slew := s.countTimers_only.slew
  have now := s.countTimers_only.now
  have micro : ∀ fires, s.countTimers.timebaseMicro fires = s.countTimers.blockEnd fires := fun fires => by
    refine if_pos ?_
    rw [State.atBlockEnd_iff] at atEnd ⊢
    rw [slew]; exact atEnd
  rw [micro, micro]
  unfold State.blockEnd State.blockAdvanced
  rw [slew]
  obtain ⟨dir, -⟩ := s.atBlockEnd_iff.1 atEnd
  cases e : s.slew.direction with
  | none => exact absurd e dir
  | positive =>
    dsimp only
    rw [now, if_pos (room e), if_pos (room e)]
    exact ⟨rfl, rfl⟩
  | negative =>
    have stays : s.blockCounted.atCount s.now = s.blockCounted := by
      rw [← s.blockCounted_only.now]; rfl
    have idle : s.blockCounted.withUnfired false = s.blockCounted :=
      State.withUnfired_eq (s.blockCounted_only.unfired.trans unfired)
    exact ⟨congrArg State.endSlewIfDone stays.symm, congrArg State.endSlewIfDone (by
      rw [show (if SlewDirection.negative = SlewDirection.positive then s.now + 2 else s.now) = s.now from rfl, stays]
      exact idle.symm)⟩

/-- The entries that a POSITIVE block's advance passes over fire, and then those due at the value it reaches (R8, R98). -/
theorem State.blockAdvanced_fires {s : State} (positive : s.slew.direction = .positive) (table : TableConsistent s)
    (ahead : DueAhead s) (unfired : s.unfired = false) (free : s.backup.rangeHeld = false) :
    FiresInOrder false (s.dueAt (s.now + 1) ++ s.dueAt (s.now + 2)) s.blockAdvanced s.blockAdvanced.fireReached := by
  have only := s.blockAdvanced_countedTo.only
  have now : s.blockAdvanced.now = s.now + 2 := s.blockAdvanced_countedTo.now.trans (if_pos positive)
  have lt : ∀ i d, (s.entry i).armedDue = some d → s.now < d := fun i d hd => ahead.lt unfired free hd
  have fires := State.fireReached_inOrder (s := s.blockAdvanced) <|
    TableConsistent.firesOnce (fun i b hb => (table i b (by rw [← only.entry i]; exact hb)).1) fun i d hd => by
      have := lt i d (by rw [← only.entry i]; exact hd)
      omega
  have passed : s.blockAdvanced.passed = s.dueAt (s.now + 1) := by
    unfold State.passed State.dueAt
    refine List.filter_congr fun i _ => ?_
    rw [only.entry i, now]
    cases e : (s.entry i).armedDue with
    | none => rfl
    | some d =>
      have := lt i d e
      simp only [Option.any_some, Option.some.injEq]
      exact decide_eq_decide.2 (by omega)
  have due : s.blockAdvanced.dueAt (s.now + 2) = s.dueAt (s.now + 2) := by
    unfold State.dueAt
    simp only [only.entry]
  rw [passed, now, due] at fires
  exact fires

/-- Of a slew of which something remains, a block's end is not the end. -/
theorem State.endSlewIfDone_remains {s : State} (h : s.slew.remaining ≠ 0) : s.endSlewIfDone = s :=
  if_neg fun k => h k.2

/-- Settles O31. -/
theorem slewBlockAddsOrDrops : Obligations.SlewBlockAddsOrDrops := by
  intro first s quiet dir elapsed more room
  have ⟨_, unfired, _⟩ := quiet
  have atEnd := s.atBlockEnd_iff.2 ⟨dir, elapsed⟩
  obtain ⟨whole, count⟩ := quiet.endsBlock atEnd
  obtain ⟨whole', count'⟩ := quiet.advances
  obtain ⟨fired, left⟩ := State.timebaseMicro_endsBlock atEnd unfired room
  have counted := s.blockAdvanced_countedTo
  have ⟨only, timers, slew, backup⟩ := counted
  have remains : ∀ {ps} {t : State}, OnlyChanges ps s.blockAdvanced t → Part.slew ∉ ps → t.endSlewIfDone = t :=
    fun h n => State.endSlewIfDone_remains (by rw [h.slew n, slew]; dsimp only; omega)
  have goesOn : ∀ t : State, (if s.slew.direction = .positive then s.blockAdvanced.fireReached else s.blockAdvanced) = t →
      OnlyChanges [.schedule, .lines, .subs, .digest, .ports] s.blockAdvanced t →
      s.countTimers.timebaseMicro true = t := fun t e h => by rw [fired, e, remains h (by decide)]
  refine ⟨fun clear => ?_, fun table ahead free => ?_, ?_⟩
  · have none : (if s.slew.direction = .positive then s.blockAdvanced.fireReached else s.blockAdvanced) =
        s.blockAdvanced := by
      refine ite_eq_right_iff.2 fun positive => ?_
      refine State.fireReached_none fun i d hd => ?_
      rw [show s.blockAdvanced.now = s.now + 2 from counted.now.trans (if_pos positive)]
      exact clear positive i d (by rw [← only.entry i]; exact hd)
    exact ⟨_, by rw [whole, goesOn _ none (OnlyChanges.refl ..)], only, timers, slew, backup⟩
  · by_cases positive : s.slew.direction = .positive
    · have goesOn := goesOn _ (if_pos positive) (State.fireReached_only _)
      exact ⟨s.blockAdvanced, _, by rw [whole, goesOn], by rw [whole', goesOn], only,
        ⟨timers, slew, backup⟩,
        by rw [if_pos positive]; exact State.blockAdvanced_fires positive table ahead unfired free⟩
    · have goesOn := goesOn _ (if_neg positive) (OnlyChanges.refl ..)
      exact ⟨s.blockAdvanced, _, by rw [whole, goesOn], by rw [whole', goesOn], only,
        ⟨timers, slew, backup⟩, by rw [if_neg positive]; rfl⟩
  · have leaves := s.blockAdvanced.withUnfired_only (decide (s.slew.direction = .positive))
    rw [remains leaves (by decide)] at left
    exact ⟨_, by rw [count, left], by rw [count', left], (only.mono (by decide)).trans (leaves.mono (by decide)),
      ⟨timers, slew, backup⟩, rfl⟩

end Sys2Proof.Machine
end

section
/-! The end of a slew, and what then follows it from the queue: what a forward and a backward step do to the schedule table,
and the records at the holder (R14, R50, R53, R54, R58, R107, R110). -/

namespace Sys2Proof.Machine

/-- Of the entries named, each has the due time found again that a backward step finds again, and the generation and the
walk have noted so many changes (R72, R110). -/
structure Refound (l : List EntryIx) (n : Nat) (s t : State) : Prop where
  entries : ∀ i, t.entry i =
    if i ∈ l then { inst := (s.entry i).inst, body := (s.entry i).body.map (Body.found s.now) } else s.entry i
  quotas : t.schedule.quotas = s.schedule.quotas
  rise : GenerationsRise 0 n s t
  walk : t.digest = s.digest.map (Walk.risen 0 n)

theorem Refound.none (s : State) : Refound [] 0 s s :=
  ⟨fun _ => rfl, rfl, ⟨(BitVec.add_zero _).symm, (BitVec.add_zero _).symm⟩, (map_risen_zero _).symm⟩

/-! ## Attached ports -/

theorem attached_of_state {s t : State} {q : Port} (h : (t.port q).state = (s.port q).state) :
    t.attached q = s.attached q := by
  rw [State.attached_eq, State.attached_eq, h]

/-- Firings attach and detach no port. -/
theorem FiresInOrder.attached {late : Bool} {l : List EntryIx} {s t : State} (h : FiresInOrder late l s t) (q : Port) :
    t.attached q = s.attached q := by
  induction l generalizing s with
  | nil => rw [show t = s from h]
  | cons i is ih =>
    obtain ⟨u, ⟨b, due, -, -, -, -, -, -, -, -, ports⟩, rest⟩ := h
    exact (ih rest).trans (attached_of_state (by rw [ports q, PortUnit.storesIf_state]))

theorem FreedEnd.attached {s t u : State} (h : FreedEnd s t u) (q : Port) : u.attached q = t.attached q := by
  obtain ⟨-, -, ports⟩ := h
  exact attached_of_state (by rw [ports q, PortUnit.storesIf_state])

theorem State.attached_raiseAll (s : State) (k : Condition) (q : Port) : (s.raiseAll k).attached q = s.attached q := by
  refine attached_of_state ?_
  rw [State.port_raiseAll]
  unfold PortUnit.raisedIf
  split <;> rfl

/-! ## What a step does to the table (R107, R110) -/

/-- What a backward step does at one index: the entry, the generations and the walk (R72, R110). -/
theorem State.recompute_refound (s : State) (i : EntryIx) :
    Refound [i] (if (s.entry i).body.any Body.refinds = true then 1 else 0) s (s.recompute i) := by
  rw [State.recompute_eq]
  split
  next finds =>
    refine ⟨fun j => ?_, ?_, ?_, ?_⟩
    · rw [State.entry_bumpFull, State.entry_setBody]
      by_cases e : j = i
      · subst e; rw [if_pos rfl, if_pos (List.mem_singleton_self _)]
      · rw [if_neg e, if_neg fun h => e (List.mem_singleton.1 h)]
    · rw [State.schedule_bumpFull]; rfl
    · unfold GenerationsRise
      rw [State.schedule_bumpFull]
      exact ⟨(BitVec.add_zero _).symm, rfl⟩
    · rw [State.digest_bumpFull]; rfl
  next keeps =>
    obtain ⟨-, quotas, rise, walk⟩ := Refound.none s
    refine ⟨fun j => ?_, quotas, rise, walk⟩
    split
    next mem =>
      obtain rfl := List.mem_singleton.1 mem
      have same : (s.entry j).body.map (Body.found s.now) = (s.entry j).body := by
        cases hb : (s.entry j).body with
        | none => rfl
        | some b =>
          rw [hb, Option.any_some, Bool.not_eq_true] at keeps
          exact congrArg some (Body.found_of_not_refinds keeps _)
      rw [same]
    · rfl

/-- What a backward step does at some indices, one after the other. -/
theorem State.recomputes_refound (l : List EntryIx) (nodup : l.Nodup) (s : State) :
    Refound l (l.filter fun i => (s.entry i).body.any Body.refinds).length s (l.foldl State.recompute s) := by
  induction l generalizing s with
  | nil => exact Refound.none s
  | cons i is ih =>
    rw [List.nodup_cons] at nodup
    obtain ⟨fresh, nodup⟩ := nodup
    obtain ⟨first, quotas, rise, walk⟩ := s.recompute_refound i
    obtain ⟨entries, quotas', rise', walk'⟩ := ih nodup (s.recompute i)
    have others : ∀ j, j ≠ i → (s.recompute i).entry j = s.entry j := fun j hj =>
      (first j).trans (if_neg fun h => hj (List.mem_singleton.1 h))
    have same : is.filter (fun j => ((s.recompute i).entry j).body.any Body.refinds) =
        is.filter fun j => (s.entry j).body.any Body.refinds :=
      List.filter_congr fun j hj => by rw [others j fun e => fresh (e ▸ hj)]
    have length : ((i :: is).filter fun j => (s.entry j).body.any Body.refinds).length =
        (if (s.entry i).body.any Body.refinds = true then 1 else 0) +
          (is.filter fun j => (s.entry j).body.any Body.refinds).length := by
      rw [List.filter_cons]
      split
      · rw [List.length_cons, Nat.add_comm]
      · exact (Nat.zero_add _).symm
    rw [same] at rise' walk'
    rw [(s.recompute_only i).now] at entries
    rw [List.foldl_cons, length]
    refine ⟨fun j => ?_, quotas'.trans quotas, rise.trans rise', by rw [walk', walk, map_risen_risen]⟩
    rw [entries j]
    by_cases e : j = i
    · subst e; rw [if_neg fresh, if_pos List.mem_cons_self, first, if_pos (List.mem_singleton_self _)]
    · rw [others j e]; simp [e]

/-- A backward step finds the due times of the CALENDAR entries again (R110). -/
theorem State.stepBackward_recomputed (s : State) : Recomputed s s.stepBackward := by
  obtain ⟨entries, quotas, rise, walk⟩ := State.recomputes_refound allEntries nodup_allEntries s
  refine ⟨State.stepBackward_only s, quotas, ?_, ?_, fun i => (entries i).trans (if_pos (mem_allEntries i))⟩
  · rw [finRange_entries]; exact rise
  · rw [finRange_entries]; exact walk

/-- A value applied is followed by what it does to the table, TIME_STEPPED, and the record of the application at the holder
(R50, R54). -/
theorem State.stepTable_stepped (s : State) (old : Nat) (r : Record) :
    Stepped old [(3, r)] s (((s.stepTable old).raiseAll .timeStepped).deliverTo s.authority.holder 3 r) := by
  have table : (if old ≤ s.now then ∃ v, FiresInOrder true s.overdue s v ∧ FreedEnd s v (s.stepTable old)
      else Recomputed s (s.stepTable old)) ∧ ∀ q, (s.stepTable old).attached q = s.attached q := by
    unfold State.stepTable
    split
    next forward =>
      have fires := s.resolutions_inOrder
      have ended := State.endGone_freedEnd (s := s) fun c => fires.only.channel c
      exact ⟨⟨_, fires, ended⟩, fun q => (ended.attached q).trans (fires.attached q)⟩
    next backward => exact ⟨s.stepBackward_recomputed, fun q => s.stepBackward_only.attached q⟩
  obtain ⟨table, attached⟩ := table
  refine ⟨s.stepTable old, table, (State.raiseAll_only ..).trans (State.deliverTo_only ..), fun q => ?_⟩
  rw [State.port_deliverTo, State.attached_raiseAll, State.port_raiseAll, attached]

/-! ## The end of a slew -/

/-- The ended slew has left with its report and its record, and nothing waits behind it (R53). -/
def State.slewLeft (s : State) (n : Nat) : State :=
  { s.completeSlew n with authority := { (s.completeSlew n).authority with waiting := none } }

/-- The authority once the slew has left with a report. -/
def Authority.slewReported (x : Authority) (number : BitVec 8) (unapplied : Nat) : Authority :=
  { x with
    active := none, waiting := none,
    report := some { number := number, outcome := .completed, unapplied := unapplied } }

/-- A port with the records that go to the holder. -/
def State.portWith (s : State) (rs : List (Nat × Record)) (q : Port) : PortUnit :=
  (s.port q).storesIf (decide (s.authority.holder = some q) && s.attached q) rs

theorem State.slewLeft_only (s : State) (n : Nat) : OnlyChanges [.slew, .authority, .ports] s (s.slewLeft n) := by
  refine (s.completeSlew_only n).trans ?_
  exact ⟨fun q hq => by cases q <;> first | rfl | exact absurd (by decide) hq⟩

section SlewLeft

variable {s : State} {a : ActiveSlew} (active : s.authority.active = some a) (n : Nat)
include active

theorem State.slewLeft_slew : (s.slewLeft n).slew = SlewState.idle := State.completeSlew_slew active n

theorem State.slewLeft_authority : (s.slewLeft n).authority = s.authority.slewReported a.number n := by
  unfold State.slewLeft
  rw [State.completeSlew_authority active]
  rfl

theorem State.port_slewLeft (q : Port) :
    (s.slewLeft n).port q = s.portWith [(3, adjustDoneRecord a.number .completed none s.stamp)] q := by
  refine (congrArg (State.port · q) (State.completeSlew_active active n)).trans ?_
  exact State.port_deliverTo ..

theorem State.attached_slewLeft (q : Port) : (s.slewLeft n).attached q = s.attached q :=
  attached_of_state (by rw [State.port_slewLeft active]; exact PortUnit.storesIf_state ..)

/-- A further record goes to the holder behind that of the slew that has left. -/
theorem State.storesIf_slewLeft (r : Record) (q : Port) :
    ((s.slewLeft n).port q).storesIf
        (decide ((s.slewLeft n).authority.holder = some q) && (s.slewLeft n).attached q) [(3, r)] =
      s.portWith ([(3, adjustDoneRecord a.number .completed none s.stamp)] ++ [(3, r)]) q := by
  rw [State.attached_slewLeft active, State.slewLeft_authority active, State.port_slewLeft active]
  exact (PortUnit.storesIf_append ..).symm

end SlewLeft

/-- The end of the ACTIVE slew with nothing behind it (R53). -/
theorem State.slewEnded_none {s : State} {a : ActiveSlew} (active : s.authority.active = some a)
    (waiting : s.authority.waiting = none) (n : Nat) : s.slewEnded n = s.slewLeft n := by
  have none : (s.completeSlew n).authority.waiting = .none := by
    rw [State.completeSlew_authority active n]; exact waiting
  have same : s.slewLeft n = s.completeSlew n := by
    unfold State.slewLeft
    rw [← none]
  unfold State.slewEnded
  dsimp only
  rw [none]
  exact same.symm

/-- The end of the ACTIVE slew with an adjustment behind it, which is taken from the queue (R53). -/
theorem State.slewEnded_some {s : State} {a : ActiveSlew} (active : s.authority.active = some a)
    {w : Adjustment} (waiting : s.authority.waiting = some w) (n : Nat) :
    s.slewEnded n = match w.what with
      | .slew amount => (s.slewLeft n).beginSlew w.number amount
      | .set target => (s.slewLeft n).applyWaiting w.number (setTarget target)
      | .step amount => (s.slewLeft n).applyWaiting w.number (stepTarget (s.slewLeft n).now amount) := by
  have some : (s.completeSlew n).authority.waiting = .some w := by
    rw [State.completeSlew_authority active n]; exact waiting
  unfold State.slewEnded
  dsimp only
  rw [some]
  rfl

/-- What becomes of a SET or STEP that waited for a slew which has ended: applied, or out of range (R53, R54). -/
def WaitingApplies (a : ActiveSlew) (unapplied : Nat) (number : BitVec 8) (target : Int) (s t : State) : Prop :=
  if 0 ≤ target ∧ target ≤ 3155759999999999 then
    ∃ u, OnlyChanges [.backup, .slew, .authority, .ports] s u ∧
      u.authority = s.authority.slewReported a.number unapplied ∧ u.slew = SlewState.idle ∧
      (∀ q, u.port q = s.portWith [(3, adjustDoneRecord a.number .completed none s.stamp)] q) ∧
      u.backup = { s.backup with count := target.toNat, rangeHeld := false, epoch := s.backup.epoch + 1 } ∧
      Stepped s.now [(3, adjustDoneRecord number .completed none u.stamp)] u t
  else OnlyChanges [.slew, .authority, .ports] s t ∧ t.authority = s.authority.slewReported a.number unapplied ∧
    t.slew = SlewState.idle ∧ ∀ q, t.port q = s.portWith ([(3, adjustDoneRecord a.number .completed none s.stamp)] ++
      [(3, adjustDoneRecord number .range none s.stamp)]) q

/-- A value applied where the quality is not UNSET: the count and the epoch, the table, and TIME_STEPPED (R50). -/
theorem State.applyTime_set_eq {s : State} (set : s.backup.quality ≠ .unset) (v : Nat) :
    s.applyTime v = (State.stepTable { s with backup :=
      { s.backup with count := v, rangeHeld := false, epoch := s.backup.epoch + 1 } } s.now).raiseAll .timeStepped := by
  unfold State.applyTime
  dsimp only
  rw [if_neg set]

theorem State.applyWaiting_applies {s : State} {a : ActiveSlew} (active : s.authority.active = some a)
    (set : s.backup.quality ≠ .unset) (n : Nat) (number : BitVec 8) (target : Int) :
    WaitingApplies a n number target s ((s.slewLeft n).applyWaiting number
      (if 0 ≤ target ∧ target ≤ 3155759999999999 then some target.toNat else none)) := by
  have left := s.slewLeft_only n
  unfold WaitingApplies
  split
  next within =>
    set u : State := { s.slewLeft n with backup :=
      { (s.slewLeft n).backup with count := target.toNat, rangeHeld := false, epoch := (s.slewLeft n).backup.epoch + 1 } }
      with hu
    have stepped := u.stepTable_stepped s.now (adjustDoneRecord number .completed none u.stamp)
    have applied : (s.slewLeft n).applyTime target.toNat = (u.stepTable s.now).raiseAll .timeStepped := by
      rw [State.applyTime_set_eq (by rw [left.backup]; exact set), left.now]
    have stamp : ((u.stepTable s.now).raiseAll .timeStepped).stamp = u.stamp :=
      (State.raiseAll_only ..).stamp.trans (State.stepTable_only ..).stamp
    refine ⟨u, left.mono (by decide) |>.trans ?_, State.slewLeft_authority active n, State.slewLeft_slew active n,
      State.port_slewLeft active n, by rw [← left.backup], ?_⟩
    · exact ⟨fun q hq => by cases q <;> first | rfl | exact absurd (by decide) hq⟩
    · unfold State.applyWaiting State.adjustDone
      dsimp only
      rw [applied, stamp]
      exact stepped
  next beyond =>
    unfold State.applyWaiting State.adjustDone
    have only := (s.slewLeft n).deliverTo_only (s.slewLeft n).authority.holder 3
      (adjustDoneRecord number .range none (s.slewLeft n).stamp)
    refine ⟨left.trans (only.mono (by decide)), only.authority.trans (State.slewLeft_authority active n),
      only.slew.trans (State.slewLeft_slew active n), fun q => ?_⟩
    rw [State.port_deliverTo, State.storesIf_slewLeft active, left.stamp]

/-- The ACTIVE slew ends, and what waits behind it follows (R16, R53, R54, R58). -/
theorem State.slewEnded_ends {s : State} {a : ActiveSlew} (active : s.authority.active = some a)
    (set : s.backup.quality ≠ .unset) (n : Nat) : SlewEnds a n s (s.slewEnded n) := by
  have left := s.slewLeft_only n
  have authority := State.slewLeft_authority active n
  have slew := State.slewLeft_slew active n
  unfold SlewEnds
  cases waiting : s.authority.waiting with
  | none =>
    rw [State.slewEnded_none active waiting]
    exact ⟨left, authority, slew, State.port_slewLeft active n⟩
  | some w =>
    rw [State.slewEnded_some active waiting]
    dsimp only
    cases what : w.what with
    | slew amount =>
      dsimp only
      split
      next held =>
        obtain ⟨idle, reported, ports⟩ := State.beginSlew_ends (s := s.slewLeft n) (by rw [left.backup]; exact held)
          w.number amount
        refine ⟨left.trans (State.beginSlew_only ..), ?_, idle, fun q => ?_⟩
        · rw [reported, authority]; rfl
        · rw [ports q, State.storesIf_slewLeft active, left.stamp]; rfl
      next free =>
        rw [State.beginSlew_begins (s := s.slewLeft n) (by rw [left.backup]; exact Bool.eq_false_iff.2 free)]
        refine ⟨left.trans ?_, ?_, rfl, State.port_slewLeft active n⟩
        · exact ⟨fun q hq => by cases q <;> first | rfl | exact absurd (by decide) hq⟩
        · dsimp only
          rw [authority]; rfl
    | set target =>
      have value : setTarget target =
          if 0 ≤ (target : Int) ∧ (target : Int) ≤ 3155759999999999 then some (target : Int).toNat else none := by
        unfold setTarget Config.endOfRange
        rw [Int.toNat_natCast]
        exact if_congr (by omega) rfl rfl
      have applies := State.applyWaiting_applies active set n w.number target
      dsimp only
      rw [value]
      exact applies
    | step amount =>
      have value : stepTarget (s.slewLeft n).now amount =
          if 0 ≤ (s.now : Int) + amount ∧ (s.now : Int) + amount ≤ 3155759999999999
            then some ((s.now : Int) + amount).toNat else none := by
        rw [left.now]; rfl
      have applies := State.applyWaiting_applies active set n w.number ((s.now : Int) + amount)
      dsimp only
      rw [value]
      exact applies

end Sys2Proof.Machine
end

section
/-! The microsecond that ends a slew, and the one that reaches the end of range (R14, R16, R53, R104, R112). -/

namespace Sys2Proof.Machine

/-- A microsecond that reaches the end of range begins at it from x: the timers have counted, and the slew is in the direction
and has the amount left that it had (R14, R16). -/
structure ReachesEnd (s x : State) : Prop where
  micro : ∀ fires, s.countTimers.timebaseMicro fires = x.reachEnd
  only : OnlyChanges [.slew, .monitor, .lines, .channels, .digest] s x
  timers : CountedOne s x
  direction : x.slew.direction = s.slew.direction
  remaining : x.slew.remaining = s.slew.remaining
  still : s.slew.direction = .none → x.slew = s.slew

/-! ## The last block of a slew -/

/-- The two forms of the command for a slew's end, at the quiet microsecond that ends its last block. -/
theorem Quiet.endsSlew {first : List DueEvent} {s : State} (h : Quiet first s) (atEnd : s.atBlockEnd = true)
    (last : s.slew.remaining = 1) :
    exec (.slewEnd (.whole first)) s = .next (s.countTimers.timebaseMicro true) ∧
      exec (.slewEnd (.count first)) s = .next (s.countTimers.timebaseMicro false) := by
  rw [← h.runMicro, ← h.runMicro]
  obtain ⟨running, -⟩ := h
  have ends : (s.running && s.atBlockEnd && decide (s.slew.remaining = 1)) = true := by
    rw [running, atEnd, last]; rfl
  exact ⟨congrArg _ (if_pos ends), congrArg _ (if_pos ends)⟩

/-- A block's end after which nothing of the slew remains is the end of the slew (R14, R53). -/
theorem State.endSlewIfDone_ends {s : State} {a : ActiveSlew} (slew : s.slew.direction ≠ .none ∧ s.slew.remaining = 0)
    (active : s.authority.active = some a) (set : s.backup.quality ≠ .unset) : SlewEnds a 0 s s.endSlewIfDone := by
  unfold State.endSlewIfDone
  rw [if_pos slew]
  exact State.slewEnded_ends active set 0

/-- Settles O32. -/
theorem slewEndReports : Obligations.SlewEndReports := by
  intro first s a quiet dir elapsed last room set free table ahead active
  have ⟨_, unfired, _⟩ := quiet
  have atEnd := s.atBlockEnd_iff.2 ⟨dir, elapsed⟩
  obtain ⟨whole, count⟩ := quiet.endsSlew atEnd last
  obtain ⟨fired, left⟩ := State.timebaseMicro_endsBlock atEnd unfired room
  obtain ⟨only, counted, slew, backup⟩ := s.blockAdvanced_countedTo
  rw [last] at slew
  have ends : ∀ {ps} {v : State}, OnlyChanges ps s.blockAdvanced v →
      Part.slew ∉ ps ∧ Part.authority ∉ ps ∧ Part.backup ∉ ps → SlewEnds a 0 v v.endSlewIfDone :=
    fun {ps v} changes n => State.endSlewIfDone_ends (by rw [changes.slew n.1, slew]; exact ⟨dir, rfl⟩)
      (by rw [changes.authority n.2.1, only.authority]; exact active)
      (by rw [changes.backup n.2.2, backup]; exact set)
  refine ⟨?_, ?_⟩
  · by_cases positive : s.slew.direction = .positive
    · rw [if_pos positive] at fired
      refine ⟨s.blockAdvanced, _, _, by rw [whole, fired], ⟨only.mono (by decide), counted, slew, backup⟩, ?_,
        ends (State.fireReached_only _) (by decide)⟩
      rw [if_pos positive]
      exact State.blockAdvanced_fires positive table ahead unfired free
    · rw [if_neg positive] at fired
      refine ⟨s.blockAdvanced, _, _, by rw [whole, fired], ⟨only.mono (by decide), counted, slew, backup⟩, ?_,
        ends (OnlyChanges.refl []  _) (by decide)⟩
      rw [if_neg positive]
      rfl
  · have leaves := s.blockAdvanced.withUnfired_only (decide (s.slew.direction = .positive))
    exact ⟨_, _, by rw [count, left],
      ⟨(only.mono (by decide)).trans (leaves.mono (by decide)), counted.of_only leaves, leaves.slew.trans slew,
        leaves.backup.trans backup⟩, rfl, ends leaves (by decide)⟩

/-! ## The end of range -/

/-- An advance that would pass the end of range reaches it instead, from the timers counted and, short of a block's end, the
block of a slew in progress (R14, R16; log 12). -/
theorem State.timebaseMicro_reachesEnd {s : State} (set : s.backup.quality ≠ .unset) (free : s.backup.rangeHeld = false)
    (last : s.now = Config.endOfRange ∧ (s.slew.direction = .negative → s.slew.blockElapsed < 999) ∨
      s.now + 1 = Config.endOfRange ∧ s.slew.direction = .positive ∧ s.slew.blockElapsed = 999) :
    ∃ x, ReachesEnd s x := by
  have timers := s.countTimers_only
  by_cases atEnd : s.slew.direction ≠ .none ∧ s.slew.blockElapsed = 999
  · obtain ⟨dir, elapsed⟩ := atEnd
    have positive : s.slew.direction = .positive := by
      cases e : s.slew.direction with
      | none => exact absurd e dir
      | positive => rfl
      | negative =>
        obtain ⟨-, short⟩ | ⟨-, positive, -⟩ := last
        · exact absurd (short e) (by omega)
        · rw [e] at positive; cases positive
    refine ⟨s.countTimers, fun fires => ?_, timers.mono (by decide), s.countTimers_counted, by rw [timers.slew],
      by rw [timers.slew], fun none => absurd none dir⟩
    have atBlockEnd : s.countTimers.atBlockEnd = true := by
      rw [State.atBlockEnd_iff, timers.slew]; exact ⟨dir, elapsed⟩
    have beyond : ¬ s.countTimers.now + 2 ≤ Config.endOfRange := by rw [timers.now]; omega
    unfold State.timebaseMicro State.blockEnd
    rw [if_pos atBlockEnd, timers.slew, positive]
    exact if_neg beyond
  · have within : ¬ s.countTimers.atBlockEnd = true := by
      rw [State.atBlockEnd_iff, timers.slew]; exact atEnd
    have atLast : s.now = Config.endOfRange := by
      obtain ⟨now, -⟩ | ⟨-, positive, elapsed⟩ := last
      · exact now
      · exact absurd ⟨by rw [positive]; nofun, elapsed⟩ atEnd
    refine ⟨s.counted, fun fires => ?_, s.counted_only, s.counted_counted, ?_, ?_, fun none => if_pos none⟩
    · have micro : s.countTimers.timebaseMicro fires = s.counted.advanceOne fires := by
        unfold State.timebaseMicro State.counted SlewState.counted
        rw [if_neg within, ← timers.slew]
        split <;> rfl
      have counting : s.counted.counting = true := by
        rw [State.counting_iff, s.counted_only.backup]; exact ⟨set, free⟩
      rw [micro]
      unfold State.advanceOne
      rw [if_pos counting, if_neg (by rw [s.counted_only.now, atLast]; exact Nat.lt_irrefl _)]
    · unfold State.counted SlewState.counted; dsimp only; split <;> rfl
    · unfold State.counted SlewState.counted; dsimp only; split <;> rfl

/-- Settles O33. -/
theorem endOfRangeHoldsCount : Obligations.EndOfRangeHoldsCount := by
  intro first s quiet set free ahead idle last
  have ⟨_, unfired, _⟩ := quiet
  obtain ⟨whole, count⟩ := quiet.advances
  obtain ⟨x, micro, only, counted, direction, remaining, still⟩ := State.timebaseMicro_reachesEnd set free
    (last.imp_right fun ⟨now, rest⟩ => ⟨by unfold State.now; rw [now]; rfl, rest⟩)
  have held : OnlyChanges [.backup] x x.holdRange := x.holdRange_only
  have changed : OnlyChanges [.backup, .slew, .monitor, .lines, .channels, .digest] s x.holdRange :=
    (only.mono (by decide)).trans (held.mono (by decide))
  have fires : FiresInOrder false (s.dueAt 3155759999999999) x.holdRange (x.holdRange.fireDue Config.endOfRange) := by
    have due : s.dueAt 3155759999999999 = allEntries.filter fun i =>
        (x.holdRange.entry i).armedDue.any fun d => decide (d ≤ Config.endOfRange) := by
      unfold State.dueAt
      rw [finRange_entries]
      refine List.filter_congr fun i _ => ?_
      rw [changed.entry i]
      cases e : (s.entry i).armedDue with
      | none => rfl
      | some d =>
        have := ahead.lt unfired free e
        unfold State.now at this
        simp only [Option.any_some, Option.some.injEq]
        exact decide_eq_decide.2 (by unfold Config.endOfRange; omega)
    rw [due]
    exact x.holdRange.fireWhere_inOrder _
  set v := x.holdRange.fireDue Config.endOfRange with hv
  have firing : OnlyChanges [.schedule, .lines, .subs, .digest, .ports] x.holdRange v := State.fireDue_only ..
  have raised : OnlyChanges [.ports] v (v.raiseAll .rangeEnd) := State.raiseAll_only ..
  have slew : (v.raiseAll .rangeEnd).slew = x.slew := (raised.slew.trans firing.slew).trans held.slew
  have reached : x.reachEnd = (v.raiseAll .rangeEnd).endSlewAtRange := rfl
  refine ⟨x.holdRange, v, v.raiseAll .rangeEnd, x.reachEnd, fun part hpart => ⟨?_, fun dir elapsed => ?_⟩, changed,
    counted.of_only held, fun none => held.slew.trans (still (idle.2 none)), ?_, fires, raised, fun q => ?_,
    fun none => ?_, fun a active => ?_⟩
  · rcases List.mem_cons.1 hpart with rfl | hpart
    · rw [whole, micro]
    · obtain rfl := List.mem_singleton.1 hpart
      rw [count, micro]
  · obtain ⟨whole', count'⟩ := quiet.endsBlock (s.atBlockEnd_iff.2 ⟨dir, elapsed⟩)
    rcases List.mem_cons.1 hpart with rfl | hpart
    · rw [whole', micro]
    · obtain rfl := List.mem_singleton.1 hpart
      rw [count', micro]
  · unfold State.holdRange
    rw [only.backup]
    rfl
  · rw [State.port_raiseAll, fires.attached, changed.attached]
  · rw [reached]
    refine if_pos ?_
    rw [slew, direction]
    exact idle.2 none
  · have dir : ¬ (v.raiseAll .rangeEnd).slew.direction = .none := by
      rw [slew, direction, idle, active]; nofun
    rw [reached, show (v.raiseAll .rangeEnd).endSlewAtRange = _ from if_neg dir, slew, remaining]
    refine State.slewEnded_ends ?_ ?_ _
    · rw [raised.authority, firing.authority, changed.authority]; exact active
    · rw [raised.backup, firing.backup]
      unfold State.holdRange
      rw [only.backup]
      exact set

end Sys2Proof.Machine
end

section
/-! The resets, the supplies, and the part that does not run (R18 to R21, R38, R39, R131, R152, R177, R183, R185). -/

namespace Sys2Proof.Machine

/-! ## The main domain at its reset values -/

/-- The transactions that a reset has found are broken: none is left but one that its port ignores (R178). -/
structure Broken (s t : State) : Prop where
  transfer : ∀ p, (t.port p).transfer = if (s.port p).transfer = .idle then .idle else .abandoned

theorem Broken.idle_or_abandoned {s t : State} (h : Broken s t) (p : Port) :
    (t.port p).transfer = .idle ∨ (t.port p).transfer = .abandoned := by
  rw [h.transfer p]
  split
  · exact .inl rfl
  · exact .inr rfl

theorem Broken.trans {s t u : State} (h : Broken s t) (k : Broken t u) : Broken s u := ⟨fun p => by
  rw [k.transfer p, h.transfer p]
  split
  · rfl
  · exact if_neg nofun⟩

theorem Broken.of_ports {r s t u : State} (h : Broken s t) (before : r.ports = s.ports) (after : u.ports = t.ports) :
    Broken r u := ⟨fun p => by
  have := h.transfer p
  unfold State.port at this ⊢
  rw [before, after]
  exact this⟩

theorem State.resetMain_broken (s : State) : Broken s s.resetMain :=
  ⟨fun p => by rw [State.port_resetMain]; exact Transfer.broken_eq _⟩

theorem State.resetMain_held (s : State) : HeldInReset s.resetMain where
  slew := rfl
  monitor := rfl
  authority := rfl
  entries := s.entry_resetMain
  generations := ⟨rfl, rfl⟩
  quotas p := by simp [State.resetMain, Schedule.reset, Vector.get_eq_getElem]
  unfired := rfl
  lines l := by simp [State.line, State.resetMain, Line.reset, Vector.get_eq_getElem]
  channels c := by simp [State.channel, State.resetMain, Channel.reset, Vector.get_eq_getElem]
  subs j := by simp [State.sub, State.resetMain, Vector.get_eq_getElem]
  digest := rfl
  ports p := by rw [State.port_resetMain]; rfl
  broken := s.resetMain_broken.idle_or_abandoned

/-- What holds of the main domain in reset does not depend on the backup domain, the pins and the causes. -/
theorem HeldInReset.of_only {ps : List Part} {s t : State} (h : HeldInReset s) (only : OnlyChanges ps s t)
    (n : ∀ q ∈ mainParts, q ∉ ps := by decide) : HeldInReset t where
  slew := (only.slew (n _ (by decide))).trans h.slew
  monitor := (only.keeps .monitor (n _ (by decide))).trans h.monitor
  authority := (only.authority (n _ (by decide))).trans h.authority
  entries i := (only.entry i (n _ (by decide))).trans (h.entries i)
  generations := by rw [only.schedule (n _ (by decide))]; exact h.generations
  quotas p := by rw [only.schedule (n _ (by decide))]; exact h.quotas p
  unfired := (only.unfired (n _ (by decide))).trans h.unfired
  lines l := (only.line l (n _ (by decide))).trans (h.lines l)
  channels c := (only.channel c (n _ (by decide))).trans (h.channels c)
  subs j := (only.sub j (n _ (by decide))).trans (h.subs j)
  digest := (only.digest (n _ (by decide))).trans h.digest
  ports p := by rw [only.port p (n _ (by decide))]; exact h.ports p
  broken p := by rw [only.port p (n _ (by decide))]; exact h.broken p

/-! ## The part leaves reset -/

theorem find?_eq_some_of_unique {α : Type} {l : List α} {f : α → Bool} {a : α} (mem : a ∈ l) (holds : f a = true)
    (unique : ∀ b, f b = true → b = a) : l.find? f = some a := by
  cases h : l.find? f with
  | none => exact absurd holds (List.find?_eq_none.1 h a mem)
  | some b => rw [unique b (List.find?_some h)]

/-- The holder that a strap value names, as a search over the ports (R39). -/
theorem find_strap (n : Nat) (f : Port → Bool) :
    ((List.finRange 4).find? fun p => decide (p.val = n) && f p) =
      if h : n < 4 then if f ⟨n, h⟩ = true then some ⟨n, h⟩ else none else none := by
  split
  next lt =>
    split
    next holds =>
      refine find?_eq_some_of_unique (List.mem_finRange _) (by simp [holds]) fun p k => ?_
      exact Fin.ext (of_decide_eq_true (Bool.and_eq_true_iff.1 k).1)
    next fails =>
      refine List.find?_eq_none.2 fun p _ => ?_
      rintro k
      obtain ⟨e, holds⟩ := Bool.and_eq_true_iff.1 k
      obtain rfl := of_decide_eq_true e
      exact fails holds
  next ge =>
    refine List.find?_eq_none.2 fun p _ k => ?_
    have := of_decide_eq_true (Bool.and_eq_true_iff.1 k).1
    exact ge (this ▸ p.isLt)

/-- A port as the part leaves reset is attached where its PRST is high (R185). -/
theorem State.attached_leavePorts (s : State) (p : Port) :
    s.leaveChannels.leavePorts.attached p = decide (s.pins.prst.get p = .high) := by
  have channels : OnlyChanges [.channels] s s.leaveChannels := OnlyChanges.foldl (fun t c => State.setChannel_only ..) _ _
  rw [State.attached_eq, State.port_leavePorts, channels.pins]
  unfold PortUnit.leaving
  cases s.pins.prst.get p <;> rfl

/-- A port as the part leaves reset, with RANGE_END where it is attached and the range is held (R19, R21, R183, R185). -/
theorem State.port_leaveReset (s : State) (straps : BitVec 3) (p : Port) :
    (s.leaveReset straps).port p =
      { state := if s.pins.prst.get p = .high then .ready else .resetHold, slot := .empty, causes := s.leaveCauses,
        queue := [], gapPending := false,
        conditions := if s.pins.prst.get p = .high ∧ s.backup.rangeHeld = true then 2 else 0, mask := 0, miso := [],
        transfer := (s.port p).transfer.broken } := by
  have channels : OnlyChanges [.channels] s s.leaveChannels := OnlyChanges.foldl (fun t c => State.setChannel_only ..) _ _
  have left : (s.leaveChannels.leavePorts.leaveUnits straps).port p =
      (s.port p).leaving (s.pins.prst.get p) s.leaveCauses := by
    change s.leaveChannels.leavePorts.port p = _
    rw [State.port_leavePorts, channels.port, channels.pins, show s.leaveChannels.leaveCauses = s.leaveCauses from
      channels.keeps .leaveCauses (by decide)]
  have backup : (s.leaveChannels.leavePorts.leaveUnits straps).backup = s.backup := by
    change s.leaveChannels.leavePorts.backup = _
    exact (OnlyChanges.backup (ps := [.ports]) (OnlyChanges.foldl (fun t c => State.setPort_only ..) _ _)).trans channels.backup
  have attached : (s.leaveChannels.leavePorts.leaveUnits straps).attached p = decide (s.pins.prst.get p = .high) :=
    s.attached_leavePorts p
  unfold State.leaveReset State.raiseRange
  rw [backup]
  cases held : s.backup.rangeHeld with
  | true =>
    rw [if_pos rfl, State.port_raiseAll, left, attached]
    cases s.pins.prst.get p with
    | high => simp [PortUnit.leaving, PortUnit.raisedIf, PortUnit.raise, PortUnit.reset, addBit, Condition.bit]
    | low => rfl
  | false =>
    rw [if_neg nofun, left]
    cases s.pins.prst.get p with
    | high | low => simp [PortUnit.leaving, PortUnit.reset]

theorem State.leaveReset_broken (s : State) (straps : BitVec 3) : Broken s (s.leaveReset straps) :=
  ⟨fun p => by rw [State.port_leaveReset]; exact Transfer.broken_eq _⟩

theorem State.channel_leaveReset (s : State) (straps : BitVec 3) (c : ChanNo) :
    (s.leaveReset straps).channel c = { s.channel c with filtered := s.pins.cap.get c } := by
  have ports : OnlyChanges [.ports] s.leaveChannels s.leaveChannels.leavePorts :=
    OnlyChanges.foldl (fun t c => State.setPort_only ..) _ _
  have range : OnlyChanges [.ports] (s.leaveChannels.leavePorts.leaveUnits straps) (s.leaveReset straps) :=
    OnlyChanges.ite (State.raiseAll_only ..) (OnlyChanges.refl ..)
  refine (range.channel c).trans ?_
  change s.leaveChannels.leavePorts.channel c = _
  rw [ports.channel c, State.channel_leaveChannels]
  rfl

theorem HeldInReset.leaves {s : State} (h : HeldInReset s) (straps : BitVec 3) :
    LeftReset straps s.leaveCauses (s.leaveReset straps) := by
  have only := s.leaveReset_only straps
  have range : OnlyChanges [.ports] (s.leaveChannels.leavePorts.leaveUnits straps) (s.leaveReset straps) :=
    OnlyChanges.ite (State.raiseAll_only ..) (OnlyChanges.refl ..)
  have before : OnlyChanges [.channels, .ports] s s.leaveChannels.leavePorts :=
    ((OnlyChanges.foldl (fun t c => State.setChannel_only ..) _ _).mono (by decide)).trans
      ((OnlyChanges.foldl (fun t c => State.setPort_only ..) _ _).mono (by decide))
  exact {
    slew := only.slew.trans h.slew
    monitor := by
      rw [only.backup]
      refine (range.keeps .monitor (by decide)).trans ?_
      change Monitor.leaving s.leaveChannels.leavePorts.backup.source = _
      rw [before.backup]
      unfold Monitor.leaving
      cases s.backup.source <;> rfl
    authority := by
      rw [State.leaveReset_authority, h.authority, only.pins, find_strap]
      unfold State.strapHolder
      simp only [State.attached_leavePorts]
    entries := fun i => (only.entry i).trans (h.entries i)
    generations := by rw [only.schedule]; exact h.generations
    quotas := fun p => by rw [only.schedule]; exact h.quotas p
    unfired := only.unfired.trans h.unfired
    lines := fun l => (only.line l).trans (h.lines l)
    channels := fun c => by rw [State.channel_leaveReset, h.channels, only.pins]
    subs := fun j => (only.sub j).trans (h.subs j)
    digest := only.digest.trans h.digest
    ports := fun p => by rw [State.port_leaveReset, only.pins, only.backup]
    broken := (s.leaveReset_broken straps).idle_or_abandoned
    causesAdded := range.keeps .leaveCauses (by decide) }

/-! ## The supplies -/

/-- The main supply comes: the part leaves reset unless its RESET input is held (R19, R20, R185). -/
structure PoweredOn (straps : BitVec 3) (causes : BitVec 5) (s t : State) : Prop where
  only : OnlyChanges [.slew, .monitor, .authority, .schedule, .unfired, .lines, .channels, .subs, .digest, .ports, .pins,
    .leaveCauses] s t
  broken : Broken s t
  pins : t.pins = { s.pins with mainSupply := true }
  left : s.pins.resetHeld = false → LeftReset straps causes t
  held : s.pins.resetHeld = true → HeldInReset t ∧ t.leaveCauses = causes

theorem State.powerOn_poweredOn (s : State) (straps : BitVec 3) (causes : BitVec 5) :
    PoweredOn straps causes s (s.powerOn straps causes) := by
  set up : State := { s.resetMain with pins := { s.pins with mainSupply := true }, leaveCauses := causes } with hup
  have changed : OnlyChanges [.pins, .leaveCauses] s.resetMain up :=
    ⟨fun q hq => by cases q <;> first | rfl | exact absurd (by decide) hq⟩
  have broken : Broken s up := s.resetMain_broken.of_ports rfl rfl
  have reset : HeldInReset up := s.resetMain_held.of_only changed
  have only := s.powerOn_only straps causes
  cases e : s.pins.resetHeld with
  | true =>
    have on : s.powerOn straps causes = up := if_pos e
    rw [on] at only ⊢
    exact ⟨only, broken, rfl, fun k => absurd (e.symm.trans k) nofun, fun _ => ⟨reset, rfl⟩⟩
  | false =>
    have on : s.powerOn straps causes = up.leaveReset straps := if_neg (by rw [e]; nofun)
    rw [on] at only ⊢
    exact ⟨only, broken.trans (up.leaveReset_broken straps), (up.leaveReset_only straps).pins, fun _ => reset.leaves straps,
      fun k => absurd (e.symm.trans k) nofun⟩

theorem Quality.examined_eq (q : Quality) : q.examined = if q = .unset then .unset else .freeRun := by cases q <;> rfl

theorem Quality.unpowered_eq (q : Quality) : q.unpowered = if q = .tracking then .holdover else q := by cases q <;> rfl

/-- A quality that is free is not TRACKING (R18). -/
theorem freeBackup_spec (n : Nat) : (freeBackup n).retention = true ∧ (freeBackup n).quality ≠ .tracking := by
  have quality : ∀ k sel, freeQuality k sel ≠ .tracking := fun k sel => by
    unfold freeQuality
    split
    · nofun
    · split <;> nofun
  have agreed : ∀ b : Backup, b.agreed.retention = b.retention ∧ b.agreed.quality = b.quality := fun b => by
    unfold Backup.agreed
    split
    · exact ⟨rfl, rfl⟩
    all_goals split <;> exact ⟨rfl, rfl⟩
  unfold freeBackup
  exact ⟨(agreed _).1, by rw [(agreed _).2]; exact quality _ _⟩

/-! ## A device reset, and the loss of the main supply -/

theorem State.takeReset_held (s : State) : HeldInReset s.takeReset ∧ Broken s s.takeReset := by
  refine ⟨?_, ((s.holdReset true).examineQuality.resetMain_broken).of_ports rfl rfl⟩
  exact (s.holdReset true).examineQuality.resetMain_held.of_only (ps := [.leaveCauses])
    ⟨fun q hq => by cases q <;> first | rfl | exact absurd (by decide) hq⟩

theorem State.losePower_held (s : State) : HeldInReset s.losePower ∧ Broken s s.losePower := by
  refine ⟨?_, ((s.setQuality s.backup.quality.unpowered).resetMain_broken).of_ports rfl rfl⟩
  exact (s.setQuality s.backup.quality.unpowered).resetMain_held.of_only (ps := [.backup, .pins])
    ⟨fun q hq => by cases q <;> first | rfl | exact absurd (by decide) hq⟩

/-- A microsecond of the rate source at a part that does not run, with either supply present (R18, R21). -/
theorem State.micro_resting_eq {s : State} (off : s.running = false) (first : List DueEvent) (fires : Bool) :
    s.micro first fires =
      if s.pins.mainSupply || s.pins.backupSupply then { s with backup := s.backup.silentAdvance } else s :=
  if_neg (by rw [off]; nofun)

/-- Settles O51. -/
theorem resetsAndSupplies : Obligations.ResetsAndSupplies := by
  intro straps s
  dsimp only
  refine ⟨fun running => ?_, fun resting => ?_, fun held reset main => ?_, fun main => ?_, fun off kept => ?_,
    fun off lost => ?_, fun resting first => ⟨?_, fun part hpart => ?_⟩, ?_, ?_⟩
  · obtain ⟨held, broken⟩ := s.takeReset_held
    refine ⟨s.takeReset, congrArg _ (if_pos running), s.takeReset_only.mono (by decide), held, broken.transfer, ?_, rfl,
      show addBit 0#5 ResetCause.deviceReset.bit = 4 by decide⟩
    rw [← Quality.examined_eq]; rfl
  · exact ⟨s.holdReset true, congrArg _ (if_neg (by rw [resting]; nofun)), s.holdReset_only true, rfl⟩
  · have left : OnlyChanges [.pins] s (s.holdReset false) := s.holdReset_only false
    have only := (s.holdReset false).leaveReset_only straps
    refine ⟨(s.holdReset false).leaveReset straps, ?_, (left.mono (by decide)).trans (only.mono (by decide)),
      (held.of_only left).leaves straps, ?_, only.backup, only.pins⟩
    · exact congrArg _ ((if_pos reset).trans (if_pos main))
    · exact (((s.holdReset false).leaveReset_broken straps).of_ports (r := s) rfl rfl).transfer
  · obtain ⟨held, broken⟩ := s.losePower_held
    refine ⟨s.losePower, congrArg _ (if_pos main), held, broken.transfer, s.losePower_only.mono (by decide), ?_, rfl⟩
    rw [← Quality.unpowered_eq]; rfl
  · have on := s.examineQuality.powerOn_poweredOn straps (addBit 0#5 ResetCause.powerOn.bit)
    rw [show addBit 0#5 ResetCause.powerOn.bit = 1 by decide] at on
    refine ⟨s.examineQuality.powerOn straps 1, congrArg _ (if_pos ⟨off, kept⟩), ?_, ?_, ?_, on.pins, on.left, on.held⟩
    · exact ((s.setQuality_only _).mono (by decide)).trans (on.only.mono (by decide))
    · exact (on.broken.of_ports (r := s) rfl rfl).transfer
    · rw [on.only.backup, ← Quality.examined_eq]; rfl
  · have on := s.resetBackup.powerOn_poweredOn straps (addBit (addBit 0#5 ResetCause.powerOn.bit) ResetCause.backupLost.bit)
    rw [show addBit (addBit 0#5 ResetCause.powerOn.bit) ResetCause.backupLost.bit = 3 by decide] at on
    have renewed : OnlyChanges [.backup] s s.resetBackup :=
      ⟨fun q hq => by cases q <;> first | rfl | exact absurd (by decide) hq⟩
    refine ⟨s.resetBackup.powerOn straps 3, congrArg _ (if_pos ⟨off, lost⟩), ?_, ?_, on.only.backup, on.pins, on.left, on.held⟩
    · exact (renewed.mono (by decide)).trans (on.only.mono (by decide))
    · exact (on.broken.of_ports (r := s) rfl rfl).transfer
  · exact congrArg _ (State.finishAdvance_resting resting first)
  · have ran : exec (.timebaseAdvance part) s = .next (s.micro first true) := by
      rcases List.mem_cons.1 hpart with rfl | hpart
      · rfl
      · obtain rfl := List.mem_singleton.1 hpart
        exact congrArg _ ((State.micro_resting_eq resting first false).trans (State.micro_resting_eq resting first true).symm)
    refine ⟨_, ran, State.micro_resting resting first true, ?_⟩
    rw [State.micro_resting_eq resting]
    by_cases powered : s.pins.mainSupply = true ∨ s.pins.backupSupply = true
    · rw [if_pos (by simpa using powered)]
      simp only [powered, true_and]
      rfl
    · rw [if_neg (by simpa using powered), if_neg fun h => powered h.1]
  · by_cases main : s.pins.mainSupply = true
    · refine ⟨s.setBackupSupply false, congrArg _ (if_pos main), (s.setBackupSupply_only false).mono (by decide), rfl, ?_⟩
      rw [main, Bool.and_true]; rfl
    · refine ⟨(s.setBackupSupply false).setRetention false, congrArg _ (if_neg main),
        ((s.setBackupSupply_only false).mono (by decide)).trans ((State.setRetention_only ..).mono (by decide)), rfl, ?_⟩
      rw [Bool.eq_false_iff.2 main, Bool.and_false]; rfl
  · refine ⟨_, rfl, ?_⟩
    by_cases absent : s.pins.mainSupply = false ∧ s.backup.retention = false
    · rw [if_pos absent]
      have renewed := (s.setBackupSupply true).renewBackup_only
      obtain ⟨retention, quality⟩ := freeBackup_spec s.freeCount
      refine ⟨rfl, fun k => ?_, fun _ _ => ⟨?_, retention, freeBackup_inRange _, quality⟩⟩
      · rw [absent.1, absent.2] at k
        exact k.elim nofun nofun
      · exact ((s.setBackupSupply_only true).mono (by decide)).trans (renewed.mono (by decide))
    · rw [if_neg absent]
      exact ⟨rfl, fun _ => s.setBackupSupply_only true, fun main lost => absurd ⟨main, lost⟩ absent⟩

end Sys2Proof.Machine
end

section
/-! What the operations of the clock supervisor do: a change of the quality with what it raises (R32, R33, R35), the loss of
the reference (R30), an edge of it (R26, R27), and the end of a window (R26, R28, R29). -/

namespace Sys2Proof.Machine

theorem OnlyChanges.monitor {ps : List Part} {s t : State} (h : OnlyChanges ps s t)
    (n : Part.monitor ∉ ps := by decide) : t.monitor = s.monitor := h.keeps .monitor n

/-! ## The quality (section 2.3) -/

theorem State.beginTracking_backup (s : State) : s.beginTracking.backup = { s.backup with quality := .tracking } :=
  (State.raiseAll_only ..).backup

theorem State.port_beginTracking (s : State) (q : Port) :
    s.beginTracking.port q = (s.port q).raisedIf (s.attached q) .trackingBegun := State.port_raiseAll ..

theorem State.refGoodReached_unset {s : State} (h : s.backup.quality = .unset) : s.refGoodReached = s := by
  unfold State.refGoodReached; rw [h]

theorem State.refGoodReached_freeRun {s : State} (h : s.backup.quality = .freeRun) :
    s.refGoodReached = s.beginTracking := by
  unfold State.refGoodReached; rw [h]

theorem State.refGoodReached_holdover {s : State} (h : s.backup.quality = .holdover) :
    s.refGoodReached = s.raiseAtHolder .refReady := by
  unfold State.refGoodReached; rw [h]

theorem State.refGoodReached_tracking {s : State} (h : s.backup.quality = .tracking) : s.refGoodReached = s := by
  unfold State.refGoodReached; rw [h]

theorem State.refGoodLeft_tracking {s : State} (h : s.backup.quality = .tracking) :
    s.refGoodLeft = (s.setQuality .holdover).raiseAll .holdover := by
  unfold State.refGoodLeft; rw [h]

theorem State.refGoodLeft_other {s : State} (h : s.backup.quality ≠ .tracking) : s.refGoodLeft = s := by
  unfold State.refGoodLeft
  split
  next e => exact absurd e h
  all_goals rfl

/-- TRACKING becomes HOLDOVER, with the condition at every attached port (R33, R35). -/
def HoldoverBegins (s t : State) : Prop :=
  t.backup = { s.backup with quality := .holdover } ∧ ∀ q, t.port q = (s.port q).raisedIf (s.attached q) .holdover

/-- Leaving REF_GOOD begins HOLDOVER where the quality is TRACKING, and is nothing to it otherwise (R33). -/
theorem State.refGoodLeft_spec (s : State) :
    if s.backup.quality = .tracking then HoldoverBegins s s.refGoodLeft
    else s.refGoodLeft.backup = s.backup ∧ s.refGoodLeft.ports = s.ports := by
  split
  next h =>
    rw [State.refGoodLeft_tracking h]
    exact ⟨(State.raiseAll_only ..).backup, fun q => State.port_raiseAll ..⟩
  next h => rw [State.refGoodLeft_other h]; exact ⟨rfl, rfl⟩

/-- After REF_GOOD is left the quality is TRACKING no more (R33). -/
theorem State.refGoodLeft_not_tracking (s : State) : s.refGoodLeft.backup.quality ≠ .tracking := by
  have left := s.refGoodLeft_spec
  split at left
  next => rw [left.1]; nofun
  next h => rw [left.1]; exact h

/-! ## The loss of the reference (R30) -/

/-- A monitor that times windows: in REF_QUALIFYING or REF_GOOD (R25). -/
def Monitor.Watching (m : Monitor) : Prop := m.state = .refQualifying ∨ m.state = .refGood

/-- The reference has been lost: the monitor becomes m, and from REF_GOOD the quality leaves TRACKING (R30, R33, R35). -/
structure Lost (m : Monitor) (s t : State) : Prop where
  only : OnlyChanges [.backup, .monitor, .ports] s t
  monitor : t.monitor = m
  quality : if s.monitor.state = .refGood ∧ s.backup.quality = .tracking then HoldoverBegins s t
    else t.backup = s.backup ∧ t.ports = s.ports

theorem State.loseReference_idle {s : State} (h : s.monitor.state = .refOff ∨ s.monitor.state = .refAbsent) :
    s.loseReference = s := by
  unfold State.loseReference
  obtain h | h := h <;> rw [h]

theorem State.loseReference_lost {s : State} (h : s.monitor.Watching) : Lost s.monitor.absent s s.loseReference := by
  refine ⟨s.loseReference_only, ?_, ?_⟩ <;> unfold State.loseReference <;> obtain h | h := h <;> rw [h]
  · exact (State.refGoodLeft_only _).monitor
  · exact ⟨rfl, rfl⟩
  · simp only [true_and]
    exact State.refGoodLeft_spec { s with monitor := s.monitor.absent }

/-- An edge after a loss puts another monitor in the place of the one that the loss leaves, and is no more than that. -/
theorem Lost.withMonitor {m : Monitor} {s t : State} (h : Lost m s t) (m' : Monitor) :
    Lost m' s { t with monitor := m' } where
  only := h.only.trans ⟨fun q hq => by cases q <;> first | rfl | exact absurd (by decide) hq⟩
  monitor := rfl
  quality := h.quality

/-- A loss leaves the quality other than TRACKING where it comes from REF_GOOD, or where it was not TRACKING before. -/
theorem Lost.not_tracking {m : Monitor} {s t : State} (h : Lost m s t)
    (from_good : s.backup.quality = .tracking → s.monitor.state = .refGood) : t.backup.quality ≠ .tracking := by
  have left := h.quality
  split at left
  next => rw [left.1]; nofun
  next other => rw [left.1]; exact fun tracking => other ⟨from_good tracking, tracking⟩

/-- No loss touches the source selection. -/
theorem Lost.source {m : Monitor} {s t : State} (h : Lost m s t) : t.backup.source = s.backup.source := by
  have left := h.quality
  split at left <;> rw [left.1]

/-! ## An edge of the reference (R26, R27) -/

theorem State.takeReferenceEdge_off {s : State} (h : s.monitor.state = .refOff) (gap : Nat) :
    s.takeReferenceEdge gap = s := by
  unfold State.takeReferenceEdge State.takeEdgeAfter; rw [h]

theorem State.takeReferenceEdge_absent {s : State} (h : s.monitor.state = .refAbsent) (gap : Nat) :
    s.takeReferenceEdge gap = { s with monitor := s.monitor.firstEdge } := by
  unfold State.takeReferenceEdge State.takeEdgeAfter; rw [h]

theorem State.takeReferenceEdge_watching {s : State} (h : s.monitor.Watching) (gap : Nat) :
    s.takeReferenceEdge gap =
      if 1000 < s.monitor.interval gap then { s.loseReference with monitor := s.loseReference.monitor.firstEdge }
      else { s with monitor := s.monitor.countEdge (s.monitor.interval gap) } := by
  unfold State.takeReferenceEdge State.takeEdgeAfter
  obtain h | h := h <;> rw [h]

theorem State.takeReferenceEdge_within {s : State} (h : s.monitor.Watching) {gap : Nat}
    (within : s.monitor.interval gap ≤ 1000) :
    s.takeReferenceEdge gap = { s with monitor := s.monitor.countEdge (s.monitor.interval gap) } := by
  rw [State.takeReferenceEdge_watching h, if_neg (Nat.not_lt.2 within)]

/-- An edge after an interval of more than 1 microsecond finds the loss taken, and begins a fresh qualification. -/
theorem State.takeReferenceEdge_late {s : State} (h : s.monitor.Watching) {gap : Nat}
    (late : 1000 < s.monitor.interval gap) : Lost s.monitor.firstEdge s (s.takeReferenceEdge gap) := by
  have lost := State.loseReference_lost h
  rw [State.takeReferenceEdge_watching h, if_pos late, lost.monitor]
  exact lost.withMonitor _

/-! ## The end of a window (R26, R28, R29) -/

/-- The monitor after a window judged with an error: a new window, with that error the last one (R26, R28, R29). -/
def Monitor.judged (m : Monitor) (state : MonitorState) (count : Nat) (e : Int) : Monitor :=
  { m.newWindow with state := state, windowCount := count, lastError := some e }

/-- What the end of a window does, where its 1,000 device microseconds have passed. -/
theorem State.endWindow_qualifying {s : State} (full : s.monitor.elapsed = 1000) (h : s.monitor.state = .refQualifying) :
    s.endWindow = s.windowErrorNow.1.judgeQualifying s.windowErrorNow.2 := by
  unfold State.endWindow; rw [if_pos full, h]

theorem State.endWindow_good {s : State} (full : s.monitor.elapsed = 1000) (h : s.monitor.state = .refGood) :
    s.endWindow = s.windowErrorNow.1.judgeGood s.windowErrorNow.2 := by
  unfold State.endWindow; rw [if_pos full, h]

theorem State.endWindow_idle {s : State} (h : s.monitor.elapsed ≠ 1000 ∨ ¬ s.monitor.Watching) : s.endWindow = s := by
  unfold State.endWindow
  split
  next full =>
    have idle := h.resolve_left (not_not.2 full)
    split
    next e => exact absurd (.inl e) idle
    next e => exact absurd (.inr e) idle
    all_goals rfl
  · rfl

/-- A window in REF_QUALIFYING within 100 ppm, of which 16 in a row are not reached (R28). -/
theorem State.judgeQualifying_counts {s : State} (h : s.monitor.state = .refQualifying) {e : Int} (within : e.natAbs ≤ 100)
    (few : s.monitor.windowCount + 1 < 16) :
    s.judgeQualifying e =
      { s with monitor := s.monitor.judged .refQualifying (s.monitor.windowCount + 1) e } := by
  unfold State.judgeQualifying Monitor.judged
  dsimp only
  rw [if_pos within, if_pos (by exact few), ← h]
  rfl

/-- The sixteenth window in a row within 100 ppm reaches REF_GOOD (R28). -/
theorem State.judgeQualifying_reaches {s : State} {e : Int} (within : e.natAbs ≤ 100)
    (last : ¬ s.monitor.windowCount + 1 < 16) :
    s.judgeQualifying e = State.refGoodReached { s with monitor := s.monitor.judged .refGood 16 e } := by
  unfold State.judgeQualifying
  dsimp only
  rw [if_pos within, if_neg (by exact last)]
  rfl

/-- A window in REF_QUALIFYING beyond 100 ppm begins the count anew (R28). -/
theorem State.judgeQualifying_fails {s : State} (h : s.monitor.state = .refQualifying) {e : Int}
    (beyond : ¬ e.natAbs ≤ 100) :
    s.judgeQualifying e = { s with monitor := s.monitor.judged .refQualifying 0 e } := by
  unfold State.judgeQualifying Monitor.judged
  dsimp only
  rw [if_neg beyond, ← h]
  rfl

/-- A window in REF_GOOD within 500 ppm leaves it there (R29). -/
theorem State.judgeGood_stays {s : State} (h : s.monitor.state = .refGood) {e : Int} (within : e.natAbs ≤ 500) :
    s.judgeGood e = { s with monitor := s.monitor.judged .refGood s.monitor.windowCount e } := by
  unfold State.judgeGood Monitor.judged
  dsimp only
  rw [if_pos within, ← h]
  rfl

/-- A window in REF_GOOD beyond 500 ppm leaves REF_GOOD (R29). -/
theorem State.judgeGood_leaves {s : State} {e : Int} (beyond : ¬ e.natAbs ≤ 500) :
    s.judgeGood e = State.refGoodLeft { s with monitor := s.monitor.judged .refQualifying 0 e } := by
  unfold State.judgeGood
  dsimp only
  rw [if_neg beyond]
  rfl

end Sys2Proof.Machine
end

section
/-! Every step keeps the clock supervisor consistent: the monitor's state, count and selection together with the quality
(R25, R30, R33, R36, R38). -/

namespace Sys2Proof.Machine

/-! ## What the supervisor's property asks in each state of the monitor -/

theorem SupervisorConsistent.of_off {s : State} (state : s.monitor.state = .refOff) (error : s.monitor.lastError = none)
    (count : s.monitor.windowCount = 0) (since : s.monitor.sinceEdge = 0) (quality : s.backup.quality ≠ .tracking)
    (held : s.backup.quality = .holdover → s.backup.source = .reference) : SupervisorConsistent s := by
  unfold SupervisorConsistent
  rw [state, error, count, since]
  exact ⟨fun h => absurd rfl h, fun _ => rfl, fun _ => ⟨rfl, rfl⟩, by decide, nofun, nofun, fun h => absurd h quality, held⟩

theorem SupervisorConsistent.of_absent {s : State} (state : s.monitor.state = .refAbsent)
    (source : s.backup.source = .reference) (running : s.running = true) (count : s.monitor.windowCount = 0)
    (since : s.monitor.sinceEdge = 0) (quality : s.backup.quality ≠ .tracking) : SupervisorConsistent s := by
  unfold SupervisorConsistent
  rw [state, count, since]
  exact ⟨fun _ => ⟨source, running⟩, nofun, fun _ => ⟨rfl, rfl⟩, by decide, nofun, nofun, fun h => absurd h quality,
    fun _ => source⟩

theorem SupervisorConsistent.of_qualifying {s : State} (state : s.monitor.state = .refQualifying)
    (source : s.backup.source = .reference) (running : s.running = true) (count : s.monitor.windowCount ≤ 15)
    (since : s.monitor.sinceEdge ≤ 2) (quality : s.backup.quality ≠ .tracking) : SupervisorConsistent s := by
  unfold SupervisorConsistent
  rw [state]
  exact ⟨fun _ => ⟨source, running⟩, nofun, (·.elim nofun nofun), since, fun _ => count, nofun,
    fun h => absurd h quality, fun _ => source⟩

theorem SupervisorConsistent.of_good {s : State} (state : s.monitor.state = .refGood)
    (source : s.backup.source = .reference) (running : s.running = true) (count : s.monitor.windowCount = 16)
    (since : s.monitor.sinceEdge ≤ 2) : SupervisorConsistent s := by
  unfold SupervisorConsistent
  rw [state]
  exact ⟨fun _ => ⟨source, running⟩, nofun, (·.elim nofun nofun), since, nofun, fun _ => count, fun _ => rfl,
    fun _ => source⟩

theorem Monitor.Watching.ne_off {m : Monitor} (h : m.Watching) : m.state ≠ .refOff := by
  obtain h | h := h <;> rw [h] <;> nofun

section Asks

variable {s : State} (h : SupervisorConsistent s)
include h

theorem SupervisorConsistent.source (state : s.monitor.state ≠ .refOff) : s.backup.source = .reference := (h.1 state).1

theorem SupervisorConsistent.runs (state : s.monitor.state ≠ .refOff) : s.running = true := (h.1 state).2

/-- The monitor is in REF_OFF unless it watches a selected reference (R25). -/
theorem SupervisorConsistent.off_of_source (source : s.backup.source ≠ .reference) : s.monitor.state = .refOff :=
  Classical.byContradiction fun state => source (h.source state)

/-- A part that does not run has its monitor in REF_OFF (R38; log 15). -/
theorem SupervisorConsistent.off_of_not_running (off : s.running = false) : s.monitor.state = .refOff :=
  Classical.byContradiction fun state => by rw [h.runs state] at off; cases off

theorem SupervisorConsistent.error (state : s.monitor.state = .refOff) : s.monitor.lastError = none := by
  obtain ⟨-, error, -⟩ := h
  exact error state

theorem SupervisorConsistent.nothing_timed (state : s.monitor.state = .refOff ∨ s.monitor.state = .refAbsent) :
    s.monitor.windowCount = 0 ∧ s.monitor.sinceEdge = 0 := by
  obtain ⟨-, -, none, -⟩ := h
  exact none state

theorem SupervisorConsistent.since : s.monitor.sinceEdge ≤ 2 := by
  obtain ⟨-, -, -, since, -⟩ := h
  exact since

theorem SupervisorConsistent.count_le (state : s.monitor.state = .refQualifying) : s.monitor.windowCount ≤ 15 := by
  obtain ⟨-, -, -, -, count, -⟩ := h
  exact count state

theorem SupervisorConsistent.count_eq (state : s.monitor.state = .refGood) : s.monitor.windowCount = 16 := by
  obtain ⟨-, -, -, -, -, count, -⟩ := h
  exact count state

theorem SupervisorConsistent.good_of_tracking (quality : s.backup.quality = .tracking) : s.monitor.state = .refGood := by
  obtain ⟨-, -, -, -, -, -, good, -⟩ := h
  exact good quality

theorem SupervisorConsistent.not_tracking (state : s.monitor.state ≠ .refGood) : s.backup.quality ≠ .tracking :=
  fun quality => state (h.good_of_tracking quality)

theorem SupervisorConsistent.held (quality : s.backup.quality = .holdover) : s.backup.source = .reference := by
  obtain ⟨-, -, -, -, -, -, -, held⟩ := h
  exact held quality

end Asks

/-! ## What the supervisor's property does not see -/

/-- The monitor, the selection and whether the part runs are as they were, and the quality is as it was, FREE_RUN, or
TRACKING beside a monitor in REF_GOOD (R33, R36, R51). -/
structure SameWatch (s t : State) : Prop where
  monitor : t.monitor = s.monitor
  source : t.backup.source = s.backup.source
  running : t.running = s.running
  quality : t.backup.quality = s.backup.quality ∨ t.backup.quality = .freeRun ∨
    t.backup.quality = .tracking ∧ s.monitor.state = .refGood

theorem SameWatch.of_backup {s t : State} (monitor : t.monitor = s.monitor) (running : t.running = s.running)
    (source : t.backup.source = s.backup.source) (quality : t.backup.quality = s.backup.quality) : SameWatch s t :=
  ⟨monitor, source, running, .inl quality⟩

theorem OnlyChanges.sameWatch {ps : List Part} {s t : State} (h : OnlyChanges ps s t)
    (n : Part.backup ∉ ps ∧ Part.monitor ∉ ps ∧ Part.pins ∉ ps := by decide) : SameWatch s t :=
  SameWatch.of_backup (h.monitor n.2.1) (h.running n.2.2) (by rw [h.backup n.1]) (by rw [h.backup n.1])

theorem SameWatch.trans {s t u : State} (h : SameWatch s t) (k : SameWatch t u) : SameWatch s u where
  monitor := k.monitor.trans h.monitor
  source := k.source.trans h.source
  running := k.running.trans h.running
  quality := by
    have q := k.quality
    rw [h.monitor] at q
    obtain e | q := q
    · rw [e]; exact h.quality
    · exact .inr q

theorem SameWatch.ite {s t u : State} {c : Prop} [Decidable c] (h : SameWatch s t) (k : SameWatch s u) :
    SameWatch s (if c then t else u) := by
  split <;> assumption

theorem SupervisorConsistent.of_same {s t : State} (h : SupervisorConsistent s) (k : SameWatch s t) :
    SupervisorConsistent t := by
  have tracking : t.backup.quality = .tracking → t.monitor.state = .refGood := fun e => by
    rw [k.monitor]
    obtain q | q | ⟨-, good⟩ := k.quality
    · exact h.good_of_tracking (q.symm.trans e)
    · rw [q] at e; cases e
    · exact good
  have held : t.backup.quality = .holdover → t.backup.source = .reference := fun e => by
    rw [k.source]
    obtain q | q | ⟨q, -⟩ := k.quality
    · exact h.held (q.symm.trans e)
    · rw [q] at e; cases e
    · rw [q] at e; cases e
  obtain ⟨watches, error, timed, since, qualifying, good, -, -⟩ := h
  unfold SupervisorConsistent
  rw [k.monitor] at tracking ⊢
  rw [k.source, k.running]
  rw [k.source] at held
  exact ⟨watches, error, timed, since, qualifying, good, tracking, held⟩

/-- A change of the quality to TRACKING beside a monitor in REF_GOOD (R32, R36, R51). -/
theorem State.beginTracking_sameWatch {s : State} (good : s.monitor.state = .refGood) : SameWatch s s.beginTracking :=
  have only := s.beginTracking_only
  ⟨only.monitor, by rw [s.beginTracking_backup], only.running, .inr (.inr ⟨by rw [s.beginTracking_backup], good⟩)⟩

/-- A SET that finds the quality UNSET leaves it FREE_RUN, or TRACKING where the monitor is in REF_GOOD (R51). -/
theorem State.applyTime_sameWatch (s : State) (v : Nat) : SameWatch s (s.applyTime v) := by
  have only := s.applyTime_only v
  refine ⟨only.monitor, by rw [s.applyTime_backup], only.running, ?_⟩
  rw [s.applyTime_backup]
  dsimp only
  split
  · split
    next reference => exact .inr (.inr ⟨rfl, reference.2⟩)
    · exact .inr (.inl rfl)
  · exact .inl rfl

theorem State.applyAnswer_sameWatch (s : State) (v : Option Nat) : SameWatch s (s.applyAnswer v).1 := by
  unfold State.applyAnswer
  split
  · exact (OnlyChanges.refl [] s).sameWatch
  · exact s.applyTime_sameWatch _

theorem State.applyWaiting_sameWatch (s : State) (n : BitVec 8) (v : Option Nat) : SameWatch s (s.applyWaiting n v) := by
  unfold State.applyWaiting
  split
  · exact (s.applyTime_sameWatch _).trans (State.adjustDone_only ..).sameWatch
  · exact (State.adjustDone_only ..).sameWatch

/-- The end of a slew touches the quality by a SET alone that waits behind it (R51, R53). -/
theorem State.slewEnded_sameWatch (s : State) (n : Nat) : SameWatch s (s.slewEnded n) := by
  have done : SameWatch s (s.completeSlew n) := (s.completeSlew_only n).sameWatch
  unfold State.slewEnded
  dsimp only
  split
  · exact done
  next w _ =>
    have taken : SameWatch s { s.completeSlew n with
        authority := { (s.completeSlew n).authority with waiting := none } } :=
      done.trans (.of_backup rfl rfl rfl rfl)
    split
    · exact taken.trans (State.beginSlew_only ..).sameWatch
    · exact taken.trans (State.applyWaiting_sameWatch ..)
    · exact taken.trans (State.applyWaiting_sameWatch ..)

/-! ## The advance of the count (Chapter 1) -/

theorem State.advanceTo_sameWatch (s : State) (v : Nat) (fires : Bool) : SameWatch s (s.advanceTo v fires) :=
  have only := s.advanceTo_only v fires
  .of_backup only.monitor only.running (by rw [s.advanceTo_backup]) (by rw [s.advanceTo_backup])

theorem State.reachEnd_sameWatch (s : State) : SameWatch s s.reachEnd := by
  have only : OnlyChanges [.backup, .schedule, .lines, .subs, .digest, .ports] s
      ((s.holdRange.fireDue Config.endOfRange).raiseAll .rangeEnd) :=
    ((s.holdRange_only.mono (by decide)).trans ((State.fireDue_only ..).mono (by decide))).trans
      ((State.raiseAll_only ..).mono (by decide))
  have held : SameWatch s ((s.holdRange.fireDue Config.endOfRange).raiseAll .rangeEnd) :=
    .of_backup only.monitor only.running (by rw [s.heldAtEnd_backup]) (by rw [s.heldAtEnd_backup])
  exact .ite held (held.trans (State.slewEnded_sameWatch ..))

theorem State.advanceOne_sameWatch (s : State) (fires : Bool) : SameWatch s (s.advanceOne fires) :=
  .ite (.ite (s.advanceTo_sameWatch ..) s.reachEnd_sameWatch) (OnlyChanges.refl [] s).sameWatch

theorem State.endSlewIfDone_sameWatch (s : State) : SameWatch s s.endSlewIfDone :=
  .ite (s.slewEnded_sameWatch 0) (OnlyChanges.refl [] s).sameWatch

theorem State.blockEnd_sameWatch (s : State) (fires : Bool) : SameWatch s (s.blockEnd fires) := by
  have counted : SameWatch s s.countBlock := s.countBlock_only.sameWatch
  unfold State.blockEnd
  split
  · exact .ite ((counted.trans (State.advanceTo_sameWatch ..)).trans (State.endSlewIfDone_sameWatch _)) s.reachEnd_sameWatch
  · exact counted.trans (State.endSlewIfDone_sameWatch _)
  · exact (OnlyChanges.refl [] s).sameWatch

/-- One device microsecond at the timebase is none of the supervisor's but by a SET that it applies (R14, R16, R51). -/
theorem State.timebaseMicro_sameWatch (s : State) (fires : Bool) : SameWatch s (s.timebaseMicro fires) := by
  unfold State.timebaseMicro
  refine .ite (s.blockEnd_sameWatch fires) (.ite (s.advanceOne_sameWatch fires) ?_)
  exact SameWatch.trans (t := { s with slew := { s.slew with blockElapsed := s.slew.blockElapsed + 1 } })
    (.of_backup rfl rfl rfl rfl) (State.advanceOne_sameWatch ..)

theorem Backup.silentAdvance_same (b : Backup) :
    b.silentAdvance.source = b.source ∧ b.silentAdvance.quality = b.quality := by
  unfold Backup.silentAdvance
  split
  · split <;> exact ⟨rfl, rfl⟩
  · exact ⟨rfl, rfl⟩

end Sys2Proof.Machine
end

section
/-! The monitor's own events, the microseconds of the rate source and the resets keep the clock supervisor consistent, and so
does every command. -/

namespace Sys2Proof.Machine

/-! ## The events of the monitor (section 2.2) -/

theorem State.refGoodReached_sameWatch {s : State} (good : s.monitor.state = .refGood) : SameWatch s s.refGoodReached := by
  cases e : s.backup.quality with
  | unset => rw [State.refGoodReached_unset e]; exact (OnlyChanges.refl [] s).sameWatch
  | freeRun => rw [State.refGoodReached_freeRun e]; exact State.beginTracking_sameWatch good
  | tracking => rw [State.refGoodReached_tracking e]; exact (OnlyChanges.refl [] s).sameWatch
  | holdover => rw [State.refGoodReached_holdover e]; exact (s.raiseAtHolder_only _).sameWatch

theorem State.refGoodLeft_source (s : State) : s.refGoodLeft.backup.source = s.backup.source := by
  have left := s.refGoodLeft_spec
  split at left <;> rw [left.1]

theorem State.judgeQualifying_supervised {s : State} (h : SupervisorConsistent s)
    (state : s.monitor.state = .refQualifying) (e : Int) : SupervisorConsistent (s.judgeQualifying e) := by
  have on : s.monitor.state ≠ .refOff := by rw [state]; nofun
  have free : s.backup.quality ≠ .tracking := h.not_tracking (by rw [state]; nofun)
  by_cases within : e.natAbs ≤ 100
  · by_cases few : s.monitor.windowCount + 1 < 16
    · rw [State.judgeQualifying_counts state within few]
      exact .of_qualifying rfl (h.source on) (h.runs on) (by dsimp only [Monitor.judged]; omega) h.since free
    · rw [State.judgeQualifying_reaches within few]
      have reached : SupervisorConsistent { s with monitor := s.monitor.judged .refGood 16 e } :=
        .of_good rfl (h.source on) (h.runs on) rfl h.since
      exact reached.of_same (State.refGoodReached_sameWatch rfl)
  · rw [State.judgeQualifying_fails state within]
    exact .of_qualifying rfl (h.source on) (h.runs on) (Nat.zero_le _) h.since free

theorem State.judgeGood_supervised {s : State} (h : SupervisorConsistent s) (state : s.monitor.state = .refGood) (e : Int) :
    SupervisorConsistent (s.judgeGood e) := by
  have on : s.monitor.state ≠ .refOff := by rw [state]; nofun
  by_cases within : e.natAbs ≤ 500
  · rw [State.judgeGood_stays state within]
    exact .of_good rfl (h.source on) (h.runs on) (h.count_eq state) h.since
  · rw [State.judgeGood_leaves within]
    have only := State.refGoodLeft_only { s with monitor := s.monitor.judged .refQualifying 0 e }
    have monitor := only.monitor
    exact .of_qualifying (by rw [monitor]; rfl) ((State.refGoodLeft_source _).trans (h.source on))
      (only.running.trans (h.runs on)) (by rw [monitor]; exact Nat.zero_le _) (by rw [monitor]; exact h.since)
      (State.refGoodLeft_not_tracking _)

theorem State.endWindow_supervised {s : State} (h : SupervisorConsistent s) : SupervisorConsistent s.endWindow := by
  by_cases full : s.monitor.elapsed = 1000
  · have drawn := s.windowErrorNow_only
    have kept : SupervisorConsistent s.windowErrorNow.1 := h.of_same drawn.sameWatch
    cases state : s.monitor.state with
    | refQualifying =>
      rw [State.endWindow_qualifying full state]
      exact State.judgeQualifying_supervised kept (by rw [drawn.monitor]; exact state) _
    | refGood =>
      rw [State.endWindow_good full state]
      exact State.judgeGood_supervised kept (by rw [drawn.monitor]; exact state) _
    | refOff | refAbsent =>
      rw [State.endWindow_idle (.inr (by unfold Monitor.Watching; rw [state]; nofun))]
      exact h
  · rw [State.endWindow_idle (.inl full)]
    exact h

/-- Where the reference is lost the monitor is in REF_ABSENT, or the edge that found the loss begins qualification. -/
theorem SupervisorConsistent.of_lost {m : Monitor} {s t : State} (h : SupervisorConsistent s) (watching : s.monitor.Watching)
    (lost : Lost m s t) (state : m.state = .refAbsent ∨ m.state = .refQualifying) (count : m.windowCount = 0)
    (since : m.sinceEdge = 0) : SupervisorConsistent t := by
  have source : t.backup.source = .reference := lost.source.trans (h.source watching.ne_off)
  have running : t.running = true := lost.only.running.trans (h.runs watching.ne_off)
  have quality := lost.not_tracking h.good_of_tracking
  rw [← lost.monitor] at state count since
  obtain state | state := state
  · exact .of_absent state source running count since quality
  · exact .of_qualifying state source running (by omega) (by omega) quality

theorem Monitor.watching_or_idle (m : Monitor) : m.Watching ∨ m.state = .refOff ∨ m.state = .refAbsent := by
  unfold Monitor.Watching
  cases m.state <;> simp

theorem State.loseReference_supervised {s : State} (h : SupervisorConsistent s) : SupervisorConsistent s.loseReference := by
  obtain watching | idle := s.monitor.watching_or_idle
  · exact h.of_lost watching (State.loseReference_lost watching) (.inl rfl) rfl rfl
  · rw [State.loseReference_idle idle]; exact h

theorem State.takeLoss_supervised {s : State} (h : SupervisorConsistent s) : SupervisorConsistent s.takeLoss :=
  iteInduction (fun _ => State.loseReference_supervised h) fun _ => h

/-- Once a loss that is due has been taken, at most one microsecond has ended since the last edge (R30; log 10). -/
theorem State.takeLoss_since {s : State} (h : SupervisorConsistent s) : s.takeLoss.monitor.sinceEdge ≤ 1 := by
  unfold State.takeLoss
  split
  next due =>
    obtain watching | idle := s.monitor.watching_or_idle
    · rw [(State.loseReference_lost watching).monitor]; exact Nat.zero_le _
    · have := (h.nothing_timed idle).2; omega
  · omega

/-- An edge counted in a window begins the interval to the next, and leaves the state and the count (R26). -/
theorem Monitor.countEdge_keeps (m : Monitor) (gap : Nat) :
    (m.countEdge gap).state = m.state ∧ (m.countEdge gap).windowCount = m.windowCount ∧
      (m.countEdge gap).sinceEdge = 0 := by
  unfold Monitor.countEdge
  split <;> exact ⟨rfl, rfl, rfl⟩

theorem State.takeReferenceEdge_supervised {s : State} (h : SupervisorConsistent s) (gap : Nat) :
    SupervisorConsistent (s.takeReferenceEdge gap) := by
  obtain watching | off | absent := s.monitor.watching_or_idle
  · by_cases within : s.monitor.interval gap ≤ 1000
    · rw [State.takeReferenceEdge_within watching within]
      obtain ⟨state, count, since⟩ := s.monitor.countEdge_keeps (s.monitor.interval gap)
      obtain e | e := watching
      · exact .of_qualifying (state.trans e) (h.source (by rw [e]; nofun)) (h.runs (by rw [e]; nofun))
          (by dsimp only; rw [count]; exact h.count_le e) (by dsimp only; omega) (h.not_tracking (by rw [e]; nofun))
      · exact .of_good (state.trans e) (h.source (by rw [e]; nofun)) (h.runs (by rw [e]; nofun))
          (count.trans (h.count_eq e)) (by dsimp only; omega)
    · exact h.of_lost watching (State.takeReferenceEdge_late watching (Nat.not_le.1 within)) (.inr rfl) rfl rfl
  · rw [State.takeReferenceEdge_off off]; exact h
  · rw [State.takeReferenceEdge_absent absent]
    exact .of_qualifying rfl (h.source (by rw [absent]; nofun)) (h.runs (by rw [absent]; nofun)) (Nat.zero_le _)
      (Nat.zero_le _) (h.not_tracking (by rw [absent]; nofun))

/-! ## Time passes (Chapter 1) -/

theorem State.takeDue_supervised {s : State} (h : SupervisorConsistent s) (d : DueEvent) :
    SupervisorConsistent (s.takeDue d) := by
  cases d with
  | pulseEnd l => exact h.of_same (s.endPulse_only l).sameWatch
  | holdExpiry l => exact h.of_same (s.expireHold_only l).sameWatch
  | overflow c => exact h.of_same (s.overflowMeasure_only c).sameWatch
  | edge c => exact h.of_same (s.takeEdge_only c).sameWatch
  | windowEnd => exact State.endWindow_supervised h
  | loss => exact State.takeLoss_supervised h
  | examine => exact h.of_same s.examineNext_only.sameWatch
  | firing => exact h.of_same s.fireOne_only.sameWatch

theorem State.takeDues_supervised {s : State} (h : SupervisorConsistent s) (l : List DueEvent) :
    SupervisorConsistent (l.foldl State.takeDue s) :=
  foldl_keeps (P := SupervisorConsistent) (fun _ d k => State.takeDue_supervised k d) l s h

/-- Of the events of an instant the monitor's two come last but for the examination of an index, so that all before them
are none of the supervisor's (log 6). -/
theorem State.settle_eq (s : State) :
    ∃ u, OnlyChanges [.schedule, .unfired, .lines, .channels, .subs, .digest, .ports] s u ∧
      s.settle = u.endWindow.takeLoss.examineNext := by
  have quiet : ∀ {α : Type} (event : α → DueEvent) (l : List α),
      (∀ t x, OnlyChanges [.schedule, .unfired, .lines, .channels, .subs, .digest, .ports] t (t.takeDue (event x))) →
      ∀ t, OnlyChanges [.schedule, .unfired, .lines, .channels, .subs, .digest, .ports] t
        ((l.map event).foldl State.takeDue t) := fun event l only t => by
    rw [List.foldl_map]
    exact OnlyChanges.foldl only l t
  refine ⟨(allLines.map DueEvent.pulseEnd ++ allLines.map DueEvent.holdExpiry ++ allChannels.map DueEvent.overflow ++
    allChannels.map DueEvent.edge).foldl State.takeDue s.fireUnfired, ?_, ?_⟩
  · refine (s.fireUnfired_only.mono (by decide)).trans ?_
    rw [List.foldl_append, List.foldl_append, List.foldl_append]
    exact (((quiet _ _ (fun t l => (t.endPulse_only l).mono (by decide)) _).trans
      (quiet _ _ (fun t l => (t.expireHold_only l).mono (by decide)) _)).trans
      (quiet _ _ (fun t c => (t.overflowMeasure_only c).mono (by decide)) _)).trans
      (quiet _ _ (fun t c => (t.takeEdge_only c).mono (by decide)) _)
  · unfold State.settle dueOrder
    rw [List.foldl_append]
    rfl

/-- With everything due at an instant taken, no third microsecond can end without an edge (R30; log 10). -/
theorem State.settle_supervised {s : State} (h : SupervisorConsistent s) :
    SupervisorConsistent s.settle ∧ s.settle.monitor.sinceEdge ≤ 1 := by
  obtain ⟨u, only, e⟩ := s.settle_eq
  have judged := State.endWindow_supervised (h.of_same only.sameWatch)
  have examined := u.endWindow.takeLoss.examineNext_only
  rw [e, examined.monitor]
  exact ⟨(State.takeLoss_supervised judged).of_same examined.sameWatch, State.takeLoss_since judged⟩

theorem Monitor.tick_watching {m : Monitor} (h : m.Watching) :
    m.tick = { m with elapsed := m.elapsed + 1, sinceEdge := m.sinceEdge + 1 } := by
  unfold Monitor.tick
  obtain h | h := h <;> rw [h]

theorem Monitor.tick_idle {m : Monitor} (h : m.state = .refOff ∨ m.state = .refAbsent) : m.tick = m := by
  unfold Monitor.tick
  obtain h | h := h <;> rw [h]

theorem State.countTimers_supervised {s : State} (h : SupervisorConsistent s) (since : s.monitor.sinceEdge ≤ 1) :
    SupervisorConsistent s.countTimers := by
  have only := s.countTimers_only
  obtain ⟨-, -, monitor, -⟩ := s.countTimers_counted
  obtain watching | idle := s.monitor.watching_or_idle
  · rw [Monitor.tick_watching watching] at monitor
    have source : s.countTimers.backup.source = .reference := by rw [only.backup]; exact h.source watching.ne_off
    have running := only.running.trans (h.runs watching.ne_off)
    obtain e | e := watching
    · exact .of_qualifying (by rw [monitor]; exact e) source running (by rw [monitor]; exact h.count_le e)
        (by rw [monitor]; dsimp only; omega) (by rw [only.backup]; exact h.not_tracking (by rw [e]; nofun))
    · exact .of_good (by rw [monitor]; exact e) source running (by rw [monitor]; exact h.count_eq e)
        (by rw [monitor]; dsimp only; omega)
  · rw [Monitor.tick_idle idle] at monitor
    exact h.of_same (.of_backup monitor only.running (by rw [only.backup]) (by rw [only.backup]))

theorem State.runMicro_supervised {s : State} (h : SupervisorConsistent s) (first : List DueEvent) (fires : Bool) :
    SupervisorConsistent (s.runMicro first fires) := by
  obtain ⟨settled, since⟩ := State.settle_supervised h
  have counted := State.countTimers_supervised settled since
  exact (State.takeDues_supervised counted first).of_same (State.timebaseMicro_sameWatch ..)

theorem State.finishAdvance_supervised {s : State} (h : SupervisorConsistent s) (first : List DueEvent) :
    SupervisorConsistent (s.finishAdvance first) :=
  iteInduction (fun _ => (State.takeDues_supervised h first).of_same (State.fireUnfired_only _).sameWatch) fun _ => h

theorem State.micro_supervised {s : State} (h : SupervisorConsistent s) (first : List DueEvent) (fires : Bool) :
    SupervisorConsistent (s.micro first fires) := by
  obtain ⟨source, quality⟩ := s.backup.silentAdvance_same
  exact iteInduction (fun _ => State.runMicro_supervised h first fires) fun _ =>
    iteInduction (fun _ => h.of_same (.of_backup rfl rfl source quality)) fun _ => h

/-! ## The requests of the clock supervisor, and CLEAR_BACKUP -/

/-- What a change of the ports alone keeps, a request keeps where its block does, on a part that runs: only there is a port
READY (R185). -/
theorem State.request_keeps {P : State → Prop} (unseen : ∀ s t, OnlyChanges [.ports] s t → P s → P t) {s : State}
    (ports : PortsConsistent s) (p : Port) (n : Nat) {block : State → State × Option Response}
    (keeps : ∀ u, P u → u.running = true → P (block u).1) (h : P s) : P (s.request p n block) := by
  have shifted : ∀ bs, P (s.shiftOut p bs) := fun bs => unseen _ _ (s.setPort_only ..) h
  unfold State.request
  split
  · exact shifted _
  · exact shifted _
  next hears =>
    have running : s.running = true := Bool.eq_true_of_not_eq_false fun off => by
      obtain ⟨-, -, -, resting, -⟩ := ports
      rw [Ignores.hears (.inl (resting off p))] at hears
      cases hears
    have kept := keeps _ (shifted ((s.port p).requestMiso (n + 3))) running
    split <;> rename_i e <;> rw [e] at kept
    · exact unseen _ _ (State.setPort_only ..) kept
    · exact kept

theorem SupervisorConsistent.ite_fst {t u : State × Option Response} {c : Prop} [Decidable c]
    (h : c → SupervisorConsistent t.1) (k : ¬ c → SupervisorConsistent u.1) : SupervisorConsistent (if c then t else u).1 := by
  split
  next c => exact h c
  next c => exact k c

/-- A selection is taken where none has been chosen, and so where the monitor is in REF_OFF (R24, R25). -/
theorem State.chooseSource_supervised {s : State} (h : SupervisorConsistent s) (running : s.running = true)
    (unchosen : s.backup.source = .notChosen) (sel : SourceSelection) : SupervisorConsistent (s.chooseSource sel) := by
  have unselected : s.backup.source ≠ .reference := by rw [unchosen]; nofun
  have off := h.off_of_source unselected
  have free := h.not_tracking (by rw [off]; nofun)
  have notHeld : s.backup.quality ≠ .holdover := fun e => unselected (h.held e)
  obtain ⟨count, since⟩ := h.nothing_timed (.inl off)
  cases sel with
  | reference => exact .of_absent rfl rfl running rfl rfl free
  | notChosen | internalOnly => exact .of_off off (h.error off) count since free fun e => absurd e notHeld

theorem blockSelectSource_supervised {s : State} (h : SupervisorConsistent s) (running : s.running = true) (p : Port)
    (v : Byte) : SupervisorConsistent (blockSelectSource p v s).1 := by
  refine .ite_fst (fun _ => h) fun _ => ?_
  split
  · exact h
  · exact .ite_fst (fun _ => h) fun chosen => State.chooseSource_supervised h running (not_not.1 chosen) _

theorem blockResumeReference_supervised {s : State} (h : SupervisorConsistent s) (p : Port) :
    SupervisorConsistent (blockResumeReference p s).1 :=
  .ite_fst (fun _ => h) fun _ => .ite_fst (fun _ => h) fun _ => .ite_fst (fun _ => h) fun good =>
    h.of_same (State.beginTracking_sameWatch (not_not.1 good))

theorem State.clearBackup_monitor (s : State) : s.clearBackup.monitor = Monitor.off := by
  unfold State.clearBackup
  rw [(State.causeAttached_only ..).monitor, (State.raiseAll_only ..).monitor]

/-- With the monitor in REF_OFF the property asks of the quality alone. -/
theorem SupervisorConsistent.of_monitor_off {s : State} (monitor : s.monitor = Monitor.off)
    (quality : s.backup.quality ≠ .tracking) (held : s.backup.quality = .holdover → s.backup.source = .reference) :
    SupervisorConsistent s :=
  .of_off (by rw [monitor]; rfl) (by rw [monitor]; rfl) (by rw [monitor]; rfl) (by rw [monitor]; rfl) quality held

theorem blockClearBackup_supervised {s : State} (h : SupervisorConsistent s) (p : Port) :
    SupervisorConsistent (blockClearBackup p s).1 := by
  refine .ite_fst (fun _ => h) fun _ => .ite_fst (fun _ => h) fun _ => .ite_fst (fun _ => h) fun _ => ?_
  exact .of_monitor_off s.clearBackup_monitor (by rw [State.answer_fst, s.clearBackup_backup]; nofun)
    (by rw [State.answer_fst, s.clearBackup_backup]; nofun)

theorem blockSetKey_sameWatch (s : State) (p : Port) (key : OptField 64) : SameWatch s (blockSetKey p key s).1 := by
  unfold blockSetKey
  split
  · exact .of_backup rfl rfl rfl rfl
  · split <;> exact .of_backup rfl rfl rfl rfl

theorem blockSetTime_supervised {s : State} (h : SupervisorConsistent s) (p : Port) (sec : BitVec 32) (us : BitVec 24) :
    SupervisorConsistent (blockSetTime p sec us s).1 :=
  .ite_fst (fun _ => h) fun _ => .ite_fst (fun _ => h) fun _ => .ite_fst (fun _ => h) fun _ =>
    .ite_fst (fun _ => h.of_same (s.enqueue_only _).sameWatch) fun _ => h.of_same (s.applyAnswer_sameWatch _)

theorem blockStep_supervised {s : State} (h : SupervisorConsistent s) (p : Port) (amount : BitVec 32) :
    SupervisorConsistent (blockStep p amount s).1 :=
  .ite_fst (fun _ => h) fun _ => .ite_fst (fun _ => h) fun _ => .ite_fst (fun _ => h) fun _ => .ite_fst (fun _ => h) fun _ =>
    .ite_fst (fun _ => h.of_same (s.enqueue_only _).sameWatch) fun _ => h.of_same (s.applyAnswer_sameWatch _)

/-! ## The resets and the supplies (R18 to R21, R38) -/

theorem Quality.examined_resting (q : Quality) : q.examined ≠ .tracking ∧ q.examined ≠ .holdover := by cases q <;> decide

/-- A quality that is free is HOLDOVER only beside the selection REFERENCE (R36; log 13). -/
theorem freeBackup_held (n : Nat) : (freeBackup n).quality = .holdover → (freeBackup n).source = .reference := by
  have agreed : ∀ b : Backup, b.agreed.source = b.source ∧ b.agreed.quality = b.quality := fun b => by
    unfold Backup.agreed
    split
    · exact ⟨rfl, rfl⟩
    all_goals split <;> exact ⟨rfl, rfl⟩
  have quality : ∀ k sel, freeQuality k sel = .holdover → sel = .reference := fun k sel => by
    unfold freeQuality
    split
    · nofun
    · split
      next reference => exact fun _ => reference.2
      · nofun
  unfold freeBackup
  obtain ⟨source, kept⟩ := agreed _
  rw [source, kept]
  exact quality _ _

/-- As the part leaves reset, the monitor is in REF_ABSENT where the selection is REFERENCE, and in REF_OFF otherwise (R38). -/
theorem State.leaveReset_monitor (s : State) (straps : BitVec 3) :
    (s.leaveReset straps).monitor = Monitor.leaving s.backup.source := by
  have before : OnlyChanges [.channels, .ports] s s.leaveChannels.leavePorts :=
    ((OnlyChanges.foldl (fun t c => State.setChannel_only ..) _ _).mono (by decide)).trans
      ((OnlyChanges.foldl (fun t c => State.setPort_only ..) _ _).mono (by decide))
  have after : OnlyChanges [.ports] (s.leaveChannels.leavePorts.leaveUnits straps) (s.leaveReset straps) :=
    OnlyChanges.ite (State.raiseAll_only ..) (OnlyChanges.refl ..)
  rw [after.monitor, ← before.backup]
  rfl

theorem State.leaveReset_supervised {s : State} (running : s.running = true) (quality : s.backup.quality ≠ .tracking)
    (held : s.backup.quality = .holdover → s.backup.source = .reference) (straps : BitVec 3) :
    SupervisorConsistent (s.leaveReset straps) := by
  have only := s.leaveReset_only straps
  have monitor := s.leaveReset_monitor straps
  rw [← only.running] at running
  rw [← only.backup] at quality held monitor
  cases source : (s.leaveReset straps).backup.source with
  | reference =>
    rw [source] at monitor
    exact .of_absent (by rw [monitor]; rfl) source running (by rw [monitor]; rfl) (by rw [monitor]; rfl) quality
  | notChosen | internalOnly =>
    rw [source] at monitor
    exact .of_monitor_off monitor quality held

/-- The main supply comes with the quality examined (R6, R19) or UNSET (R20). -/
theorem State.powerOn_supervised {s : State} (resting : s.backup.quality ≠ .tracking ∧ s.backup.quality ≠ .holdover)
    (straps : BitVec 3) (causes : BitVec 5) : SupervisorConsistent (s.powerOn straps causes) := by
  have notHeld : s.backup.quality = .holdover → s.backup.source = .reference := fun e => absurd e resting.2
  unfold State.powerOn
  dsimp only
  split
  · exact .of_monitor_off rfl resting.1 notHeld
  next released =>
    refine State.leaveReset_supervised
      (s := { s.resetMain with pins := { s.pins with mainSupply := true }, leaveCauses := causes }) ?_ resting.1 notHeld straps
    unfold State.running
    rw [Bool.eq_false_iff.2 released]
    rfl

theorem State.takeReset_supervised (s : State) : SupervisorConsistent s.takeReset := by
  obtain ⟨free, notHeld⟩ := s.backup.quality.examined_resting
  exact .of_monitor_off rfl free fun e => absurd e notHeld

/-- The main supply lost makes TRACKING into HOLDOVER, which has the selection REFERENCE as TRACKING has it (R18, R36). -/
theorem State.losePower_supervised {s : State} (h : SupervisorConsistent s) : SupervisorConsistent s.losePower := by
  have quality : s.losePower.backup.quality = if s.backup.quality = .tracking then .holdover else s.backup.quality :=
    Quality.unpowered_eq _
  refine .of_monitor_off rfl ?_ fun e => ?_ <;> rw [quality] at *
  · split
    · nofun
    · assumption
  · change s.backup.source = .reference
    split at e
    next tracking => exact h.source (by rw [h.good_of_tracking tracking]; nofun)
    next => exact h.held e

theorem State.running_iff (s : State) : s.running = true ↔ s.pins.mainSupply = true ∧ s.pins.resetHeld = false := by
  unfold State.running
  simp

/-- A part that does not run has its monitor in REF_OFF, whatever becomes of its pins and its backup domain (R38; log 15). -/
theorem SupervisorConsistent.of_resting {s t : State} (h : SupervisorConsistent s) (off : s.running = false)
    (monitor : t.monitor = s.monitor) (quality : t.backup.quality ≠ .tracking)
    (held : t.backup.quality = .holdover → t.backup.source = .reference) : SupervisorConsistent t := by
  have state := h.off_of_not_running off
  obtain ⟨count, since⟩ := h.nothing_timed (.inl state)
  have error := h.error state
  rw [← monitor] at state count since error
  exact .of_off state error count since quality held

/-- The quality of a part that does not run is not TRACKING (R33). -/
theorem SupervisorConsistent.free_of_resting {s : State} (h : SupervisorConsistent s) (off : s.running = false) :
    s.backup.quality ≠ .tracking := h.not_tracking (by rw [h.off_of_not_running off]; nofun)

/-! ## Every command -/

theorem SupervisorConsistent.of_ports (s t : State) (only : OnlyChanges [.ports] s t) (h : SupervisorConsistent s) :
    SupervisorConsistent t := h.of_same only.sameWatch

/-- Every command but a transaction's bytes keeps the supervisor consistent: those that touch the monitor, the selection,
the quality or the supplies by their own lemmas, the rest by what they leave unchanged. -/
theorem exec_supervised_proper (i : Instr) (s t : State) (proper : ∀ p bs inc, i ≠ .badRequest p bs inc)
    (h : exec i s = .next t) (ports : PortsConsistent s) (kept : SupervisorConsistent s) : SupervisorConsistent t := by
  have frame := exec_changes_proper h proper
  have asked : ∀ {p n block}, (∀ u, SupervisorConsistent u → u.running = true → SupervisorConsistent (block u).1) →
      SupervisorConsistent (s.request p n block) := fun keeps =>
    State.request_keeps SupervisorConsistent.of_ports ports _ _ keeps kept
  cases i
  all_goals dsimp only [commandParts] at frame
  case setKey p key => cases h; exact asked fun u hu _ => hu.of_same (blockSetKey_sameWatch u p key)
  case setTime p sec us => cases h; exact asked fun u hu _ => blockSetTime_supervised hu p sec us
  case step p amount => cases h; exact asked fun u hu _ => blockStep_supervised hu p amount
  case selectSource p v => cases h; exact asked fun u hu on => blockSelectSource_supervised hu on p v
  case resumeReference p => cases h; exact asked fun u hu _ => blockResumeReference_supervised hu p
  case clearBackup p => cases h; exact asked fun u hu _ => blockClearBackup_supervised hu p
  case portReset p =>
    cases h
    have low : SupervisorConsistent (s.setPrst p .low) := kept.of_same (.of_backup rfl rfl rfl rfl)
    exact iteInduction (fun _ => low.of_same (State.portGone_only ..).sameWatch) fun _ => low
  case portLeavesResetHold p =>
    cases h
    have high : SupervisorConsistent (s.setPrst p .high) := kept.of_same (.of_backup rfl rfl rfl rfl)
    exact iteInduction (fun _ => high.of_same (State.leaveHold_only ..).sameWatch) fun _ => high
  case deviceReset =>
    cases h
    refine iteInduction (fun _ => s.takeReset_supervised) fun off => ?_
    exact kept.of_resting (Bool.eq_false_iff.2 off) rfl (kept.free_of_resting (Bool.eq_false_iff.2 off)) kept.held
  case partLeavesReset straps =>
    cases h
    refine iteInduction (fun reset => ?_) fun _ => kept
    have off : s.running = false := by unfold State.running; rw [reset]; simp
    refine iteInduction (fun main => ?_) fun _ => kept.of_resting off rfl (kept.free_of_resting off) kept.held
    exact State.leaveReset_supervised (s := s.holdReset false) ((State.running_iff _).2 ⟨main, rfl⟩)
      (kept.free_of_resting off) kept.held straps
  case powerOnRetained straps =>
    cases h
    exact iteInduction (fun _ => State.powerOn_supervised (s := s.examineQuality) s.backup.quality.examined_resting ..)
      fun _ => kept
  case powerOnBackupLost straps =>
    cases h
    exact iteInduction (fun _ => State.powerOn_supervised (s := s.resetBackup) ⟨nofun, nofun⟩ ..) fun _ => kept
  case mainSupplyLoss => cases h; exact iteInduction (fun _ => State.losePower_supervised kept) fun _ => kept
  case backupSupplyLoss => cases h; exact iteInduction (fun _ => kept) fun _ => kept
  case backupSupplyReturn =>
    cases h
    refine iteInduction (fun absent => ?_) fun _ => kept
    have off : s.running = false := by unfold State.running; rw [absent.1]; rfl
    exact kept.of_resting off rfl (freeBackup_spec _).2 (freeBackup_held _)
  case timebaseAdvance part =>
    cases h
    cases part with
    | whole first | count first => exact State.micro_supervised kept ..
    | firings first => exact State.finishAdvance_supervised kept first
  case slewBlockEnd part | slewEnd part =>
    cases h
    cases part with
    | whole first | count first => exact iteInduction (fun _ => State.runMicro_supervised kept ..) fun _ => kept
    | firings first => exact State.finishAdvance_supervised kept first
  case referenceEdge gap =>
    cases h; exact iteInduction (fun _ => State.takeReferenceEdge_supervised kept gap) fun _ => kept
  case windowEnd => cases h; exact iteInduction (fun _ => State.endWindow_supervised kept) fun _ => kept
  case referenceLoss => cases h; exact iteInduction (fun _ => State.loseReference_supervised kept) fun _ => kept
  case capturePinChange c x =>
    cases h
    have raw : ∀ u : State, SameWatch u (u.setRaw c x) := fun u => .of_backup rfl rfl rfl rfl
    refine iteInduction (fun _ => ?_) fun _ => kept.of_same (raw s)
    have taken : SameWatch s (if s.rawLevel c = x then s else s.takeEdge c) :=
      .ite (.of_backup rfl rfl rfl rfl) (s.takeEdge_only c).sameWatch
    exact kept.of_same ((taken.trans (raw _)).trans (State.setChannel_only ..).sameWatch)
  case badRequest p bs inc => exact absurd rfl (proper p bs inc)
  all_goals exact kept.of_same frame.sameWatch

/-- Every command keeps the supervisor consistent (R25, R30, R33, R36, R38). -/
theorem exec_supervised {i : Instr} {s t : State} (h : exec i s = .next t) (ports : PortsConsistent s)
    (kept : SupervisorConsistent s) : SupervisorConsistent t :=
  exec_keeps SupervisorConsistent.of_ports exec_supervised_proper h ports kept

/-- Settles O56, by the events of the monitor, the microseconds and the resets that keep it, command by command. -/
theorem stepsKeepSupervisorConsistent : Obligations.StepsKeepSupervisorConsistent := by
  intro s t ports kept h
  exact step_keeps (P := SupervisorConsistent) (Q := PortsConsistent) (fun _ _ k => k) (fun _ _ k => k)
    (fun _ _ _ h => exec_supervised h) h ports kept

end Sys2Proof.Machine
end

section
/-! The end of a window: its error as R26 rounds it, and what it does to the monitor and the quality (R28, R29, R32 to R35). -/

namespace Sys2Proof.Machine

/-! ## The error of a window (R26) -/

/-- A number rounded to the nearest integer, halves away from zero (R26). -/
def roundHalfAway (x : ℚ) : ℤ := if 0 ≤ x then ⌊x + 1 / 2⌋ else -⌊-x + 1 / 2⌋

/-- Rounding a fraction by doubling it is rounding its value. -/
theorem floor_div_add_half (k : Nat) {d : Nat} (h : 0 < d) :
    ⌊(k : ℚ) / d + 1 / 2⌋ = (((2 * k + d) / (2 * d) : Nat) : ℤ) := by
  have pos : (d : ℚ) ≠ 0 := by exact_mod_cast h.ne'
  have value : (k : ℚ) / d + 1 / 2 = ((2 * k + d : Nat) : ℤ) / ((2 * d : Nat) : ℚ) := by
    push_cast
    field_simp
  rw [value, Rat.floor_intCast_div_natCast, Int.natCast_ediv]

theorem roundDiv_eq (n : ℤ) {d : Nat} (h : 0 < d) : roundDiv n d = roundHalfAway (n / d) := by
  have pos : (0 : ℚ) < d := by exact_mod_cast h
  unfold roundDiv roundHalfAway
  rcases lt_trichotomy n 0 with neg | rfl | positive
  · have below : ¬ (0 : ℚ) ≤ n / d := not_le.2 (div_neg_of_neg_of_pos (by exact_mod_cast neg) pos)
    have abs : -((n : ℚ) / d) = (n.natAbs : ℚ) / d := by
      rw [← neg_div, Nat.cast_natAbs, abs_of_neg neg]
      push_cast
      rfl
    rw [if_neg below, abs, floor_div_add_half _ h, Int.sign_eq_neg_one_of_neg neg, neg_one_mul]
  · have half := floor_div_add_half 0 h
    simp only [Int.sign_zero, zero_mul, Int.cast_zero, zero_div, le_refl, if_true]
    norm_num
  · have above : (0 : ℚ) ≤ n / d := div_nonneg (by exact_mod_cast positive.le) pos.le
    have abs : (n : ℚ) / d = (n.natAbs : ℚ) / d := by
      rw [Nat.cast_natAbs, abs_of_pos positive]
    rw [if_pos above, abs, floor_div_add_half _ h, Int.sign_eq_one_of_pos positive, one_mul]

/-- The error of a window: its cycles over ten times its microseconds, less one, in ppm, rounded and held in range (R26). -/
theorem windowError_eq (cycles : Nat) {measured : Nat} (h : 0 < measured) :
    windowError cycles measured = max (-32768) (min 32767 (roundHalfAway
      (((cycles : ℚ) / (10 * ((measured : ℚ) / 1000)) - 1) * 1000000))) := by
  have pos : (measured : ℚ) ≠ 0 := by exact_mod_cast h.ne'
  have value : ((cycles : ℚ) / (10 * ((measured : ℚ) / 1000)) - 1) * 1000000 =
      (((100 * (cycles : ℤ) - measured) * 1000000 : ℤ) : ℚ) / measured := by
    push_cast
    field_simp
    ring
  rw [value, ← roundDiv_eq _ h]
  rfl

/-- The error of the window in progress, with the free values drawn for it (R26; logs 3, 11). -/
theorem State.windowErrorNow_spec (s : State) :
    let x : ℚ := ((s.monitor.cycles : ℚ) / (10 * ((s.monitor.measured : ℚ) / 1000)) - 1) * 1000000
    (0 < s.monitor.measured → s.windowErrorNow.1.freeCount = s.freeCount ∧
      s.windowErrorNow.2 = max (-32768) (min 32767 (roundHalfAway x))) ∧
    (s.monitor.measured = 0 → s.windowErrorNow.1.freeCount = s.freeCount + 1 ∧ -32768 ≤ s.windowErrorNow.2 ∧
      s.windowErrorNow.2 ≤ 32767) := by
  refine ⟨fun measured => ?_, fun unmeasured => ?_⟩
  · rw [State.windowErrorNow_measured measured]
    exact ⟨rfl, windowError_eq _ measured⟩
  · rw [State.windowErrorNow_unmeasured unmeasured]
    exact ⟨rfl, freeError_range _⟩

/-! ## A window judged (R28, R29) -/

/-- What a window judged with an error does, from REF_QUALIFYING and from REF_GOOD (R28, R29, R32 to R35). -/
def Judges (e : Int) (s t : State) : Prop :=
  let judged := fun (state : MonitorState) (count : Nat) => t.monitor = s.monitor.judged state count e
  let same := t.backup = s.backup ∧ t.ports = s.ports
  if s.monitor.state = .refQualifying then
    if e.natAbs ≤ 100 then
      if s.monitor.windowCount + 1 < 16 then judged .refQualifying (s.monitor.windowCount + 1) ∧ same
      else judged .refGood 16 ∧
        (s.backup.quality = .freeRun → t.backup = { s.backup with quality := .tracking } ∧
          ∀ q, t.port q = (s.port q).raisedIf (s.attached q) .trackingBegun) ∧
        (s.backup.quality = .holdover → t.backup = s.backup ∧
          ∀ q, t.port q = (s.port q).raisedIf (decide (s.authority.holder = some q) && s.attached q) .refReady) ∧
        (s.backup.quality = .unset → same)
    else judged .refQualifying 0 ∧ same
  else
    if e.natAbs ≤ 500 then judged .refGood s.monitor.windowCount ∧ same
    else judged .refQualifying 0 ∧ (if s.backup.quality = .tracking then HoldoverBegins s t else same)

theorem State.judgeQualifying_judges {s : State} (state : s.monitor.state = .refQualifying) (e : Int) :
    Judges e s (s.judgeQualifying e) := by
  unfold Judges
  dsimp only
  rw [if_pos state]
  split
  next within =>
    split
    next few => rw [State.judgeQualifying_counts state within few]; exact ⟨rfl, rfl, rfl⟩
    next last =>
      rw [State.judgeQualifying_reaches within last]
      refine ⟨(State.refGoodReached_only _).monitor, fun q => ?_, fun q => ?_, fun q => ?_⟩
      · rw [State.refGoodReached_freeRun (by exact q)]
        exact ⟨State.beginTracking_backup _, State.port_beginTracking _⟩
      · rw [State.refGoodReached_holdover (by exact q)]
        exact ⟨(State.raiseAtHolder_only ..).backup, State.port_raiseAtHolder _ _⟩
      · rw [State.refGoodReached_unset (by exact q)]
        exact ⟨rfl, rfl⟩
  next beyond => rw [State.judgeQualifying_fails state beyond]; exact ⟨rfl, rfl, rfl⟩

theorem State.judgeGood_judges {s : State} (state : s.monitor.state = .refGood) (e : Int) :
    Judges e s (s.judgeGood e) := by
  unfold Judges
  dsimp only
  rw [if_neg (by rw [state]; nofun)]
  split
  next within => rw [State.judgeGood_stays state within]; exact ⟨rfl, rfl, rfl⟩
  next beyond =>
    rw [State.judgeGood_leaves beyond]
    exact ⟨(State.refGoodLeft_only _).monitor, State.refGoodLeft_spec { s with monitor := s.monitor.judged .refQualifying 0 e }⟩

/-- A window is judged alike where no free value has been drawn for it and where one has (log 11). -/
theorem Judges.of_drawn {e : Int} {s u t : State} (h : Judges e u t) (drawn : OnlyChanges [.freeCount] s u) :
    Judges e s t := by
  have ports : u.ports = s.ports := drawn.keeps .ports (by decide)
  unfold Judges at h ⊢
  unfold HoldoverBegins State.attached State.port at *
  rw [drawn.monitor, drawn.backup, drawn.authority, ports] at h
  exact h

/-- The end of a window whose 1,000 device microseconds have passed judges it (R28, R29). -/
theorem State.endWindow_judges {s : State} (full : s.monitor.elapsed = 1000) (watching : s.monitor.Watching) :
    Judges s.windowErrorNow.2 s s.endWindow ∧ s.endWindow.freeCount = s.windowErrorNow.1.freeCount := by
  have drawn := s.windowErrorNow_only
  obtain state | state := watching
  · rw [State.endWindow_qualifying full state]
    exact ⟨(State.judgeQualifying_judges (by rw [drawn.monitor]; exact state) _).of_drawn drawn,
      (State.judgeQualifying_only ..).keeps .freeCount (by decide)⟩
  · rw [State.endWindow_good full state]
    exact ⟨(State.judgeGood_judges (by rw [drawn.monitor]; exact state) _).of_drawn drawn,
      (State.judgeGood_only ..).keeps .freeCount (by decide)⟩

theorem exec_windowEnd {s : State} (running : s.running = true) : exec .windowEnd s = .next s.endWindow :=
  congrArg _ (if_pos running)

/-- Settles O27: the error as R26 rounds it, and the judgement of it. -/
theorem windowEndJudges : Obligations.WindowEndJudges := by
  intro s running full watching
  obtain ⟨judges, free⟩ := State.endWindow_judges full watching
  obtain ⟨measured, unmeasured⟩ := s.windowErrorNow_spec
  refine ⟨s.endWindow, s.windowErrorNow.2, exec_windowEnd running, s.endWindow_only, ?_, ?_, judges⟩
  · rw [free]; exact measured
  · rw [free]; exact unmeasured

end Sys2Proof.Machine
end

section
/-! Edges of the reference and its loss (R26, R27, R30, R33, R35), and the device microsecond before which a loss is taken. -/

namespace Sys2Proof.Machine

/-! ## The commands of the monitor, at a part that runs -/

theorem exec_referenceEdge {s : State} (running : s.running = true) (gap : Nat) :
    exec (.referenceEdge gap) s = .next (s.takeReferenceEdge gap) := congrArg _ (if_pos running)

theorem exec_referenceLoss {s : State} (running : s.running = true) :
    exec .referenceLoss s =
      .next (if 1 ≤ s.monitor.sinceEdge ∨ s.backup.quality = .tracking then s.loseReference else s) := by
  have falls : (s.running && s.lossCanFall) = decide (1 ≤ s.monitor.sinceEdge ∨ s.backup.quality = .tracking) := by
    rw [running]; rfl
  change Host.Outcome.next (if (s.running && s.lossCanFall) = true then s.loseReference else s) = _
  rw [falls]
  simp only [decide_eq_true_eq]

/-! ## The loss that a device microsecond takes (R30; log 10) -/

/-- The end of a window leaves a monitor that times windows timing the next, with the same time since the last edge; and a
monitor that leaves REF_GOOD by it leaves TRACKING too (R28, R29, R33). -/
structure WindowJudged (s t : State) : Prop where
  watching : t.monitor.Watching
  since : t.monitor.sinceEdge = s.monitor.sinceEdge
  good : s.monitor.state = .refGood → t.backup.quality = .tracking → t.monitor.state = .refGood

theorem Judges.windowJudged {e : Int} {s t : State} (h : Judges e s t) : WindowJudged s t := by
  have judged : ∀ {state count}, t.monitor = s.monitor.judged state count e →
      (s.monitor.state = .refGood → t.backup.quality = .tracking → state = .refGood) →
      state = .refQualifying ∨ state = .refGood → WindowJudged s t := fun monitor good watching => by
    refine ⟨?_, ?_, fun was tracking => ?_⟩ <;> rw [monitor]
    · exact watching
    · rfl
    · exact good was tracking
  unfold Judges at h
  dsimp only at h
  split at h
  next qualifying =>
    have notGood : ∀ {P : Prop}, s.monitor.state = .refGood → P := fun good => by rw [qualifying] at good; cases good
    split at h
    · split at h
      · exact judged h.1 notGood (.inl rfl)
      · exact judged h.1 notGood (.inr rfl)
    · exact judged h.1 notGood (.inl rfl)
  next =>
    split at h
    · exact judged h.1 (fun _ _ => rfl) (.inr rfl)
    · obtain ⟨monitor, quality⟩ := h
      refine judged monitor (fun _ tracking => ?_) (.inl rfl)
      split at quality
      next => rw [quality.1] at tracking; cases tracking
      next free => rw [quality.1] at tracking; exact absurd tracking free

theorem State.endWindow_windowJudged {s : State} (watching : s.monitor.Watching) : WindowJudged s s.endWindow := by
  by_cases full : s.monitor.elapsed = 1000
  · exact (State.endWindow_judges full watching).1.windowJudged
  · rw [State.endWindow_idle (.inl full)]
    exact ⟨watching, rfl, fun good _ => good⟩

/-- The reference is lost: the monitor is in REF_ABSENT, and the quality is not TRACKING where it is asked about. -/
structure Gone (asked : Prop) (t : State) : Prop where
  state : t.monitor.state = .refAbsent
  count : t.monitor.windowCount = 0
  quality : asked → t.backup.quality ≠ .tracking

theorem Gone.of_same {asked : Prop} {s t : State} (h : Gone asked s) (k : SameWatch s t) : Gone asked t where
  state := by rw [k.monitor]; exact h.state
  count := by rw [k.monitor]; exact h.count
  quality a := by
    obtain q | q | ⟨-, good⟩ := k.quality
    · rw [q]; exact h.quality a
    · rw [q]; nofun
    · rw [h.state] at good; cases good

/-- With the monitor in REF_ABSENT no event of the part's own clocks touches the supervisor. -/
theorem Gone.takeDue {asked : Prop} {s : State} (h : Gone asked s) (d : DueEvent) : Gone asked (s.takeDue d) := by
  cases d with
  | pulseEnd l => exact h.of_same (s.endPulse_only l).sameWatch
  | holdExpiry l => exact h.of_same (s.expireHold_only l).sameWatch
  | overflow c => exact h.of_same (s.overflowMeasure_only c).sameWatch
  | edge c => exact h.of_same (s.takeEdge_only c).sameWatch
  | windowEnd =>
    change Gone asked s.endWindow
    rw [State.endWindow_idle (.inr (by unfold Monitor.Watching; rw [h.state]; nofun))]
    exact h
  | loss =>
    refine iteInduction (fun _ => ?_) fun _ => h
    rw [State.loseReference_idle (.inr h.state)]
    exact h
  | examine => exact h.of_same s.examineNext_only.sameWatch
  | firing => exact h.of_same s.fireOne_only.sameWatch

/-- Two microseconds without an edge: what is due at the instant includes the loss (R30; log 10). -/
theorem State.settle_gone {s : State} (watching : s.monitor.Watching) (since : 2 ≤ s.monitor.sinceEdge) :
    Gone (s.monitor.state = .refGood) s.settle := by
  obtain ⟨u, only, settled⟩ := s.settle_eq
  rw [← only.monitor] at watching since ⊢
  have judged := State.endWindow_windowJudged watching
  have lost := State.loseReference_lost judged.watching
  have taken : u.endWindow.takeLoss = u.endWindow.loseReference := if_pos (by rw [judged.since]; exact since)
  have gone : Gone (u.monitor.state = .refGood) u.endWindow.loseReference :=
    ⟨by rw [lost.monitor]; rfl, by rw [lost.monitor]; rfl, fun good => lost.not_tracking (judged.good good)⟩
  rw [settled, taken]
  exact gone.of_same (State.examineNext_only _).sameWatch

theorem State.runMicro_gone {s : State} (watching : s.monitor.Watching) (since : 2 ≤ s.monitor.sinceEdge)
    (first : List DueEvent) (fires : Bool) : Gone (s.monitor.state = .refGood) (s.runMicro first fires) := by
  have settled := State.settle_gone watching since
  have counted : SameWatch s.settle s.settle.countTimers := by
    have only := s.settle.countTimers_only
    obtain ⟨-, -, monitor, -⟩ := s.settle.countTimers_counted
    exact .of_backup (monitor.trans (Monitor.tick_idle (.inr settled.state))) only.running (by rw [only.backup])
      (by rw [only.backup])
  have dues := foldl_keeps (P := Gone (s.monitor.state = .refGood)) (fun _ d h => h.takeDue d) first _
    (settled.of_same counted)
  exact dues.of_same (State.timebaseMicro_sameWatch ..)

/-- Settles O26: the edge and the loss by the state of the monitor, the microsecond by what it settles before it counts. -/
theorem referenceEdgesAndLoss : Obligations.ReferenceEdgesAndLoss := by
  intro gap s running
  dsimp only
  refine ⟨⟨_, exec_referenceEdge running gap, fun off => State.takeReferenceEdge_off off gap,
      fun absent => State.takeReferenceEdge_absent absent gap, fun watching within => ?_, fun watching late => ?_⟩,
    ⟨_, exec_referenceLoss running, fun idle => ?_, fun _ fresh free => ?_, fun watching falls => ?_⟩,
    fun watching since first part hpart => ?_⟩
  · rw [State.takeReferenceEdge_within watching within]
    unfold Monitor.countEdge Monitor.interval
    cases s.monitor.edgeSeen <;> rfl
  · obtain ⟨only, monitor, quality⟩ := State.takeReferenceEdge_late watching late
    exact ⟨only, monitor, quality⟩
  · rw [State.loseReference_idle idle, ite_self]
  · exact if_neg (not_or.2 ⟨by omega, free⟩)
  · rw [if_pos falls]
    obtain ⟨only, monitor, quality⟩ := State.loseReference_lost watching
    exact ⟨only, monitor, quality⟩
  · have micro : ∀ fires, s.micro first fires = s.runMicro first fires := fun fires => if_pos running
    have gone := State.runMicro_gone watching since first
    rcases List.mem_cons.1 hpart with rfl | hpart
    · exact ⟨s.runMicro first true, congrArg _ (micro true), (gone true).state, (gone true).count, (gone true).quality⟩
    · obtain rfl := List.mem_singleton.1 hpart
      exact ⟨s.runMicro first false, congrArg _ (micro false), (gone false).state, (gone false).count, (gone false).quality⟩

end Sys2Proof.Machine
end

section
/-! What the requests of the clock supervisor answer, and what READ_CLOCK and READ_ADJUST report (R24, R36, R37, R59). -/

namespace Sys2Proof.Machine

/-! ## SELECT_SOURCE (R24) -/

theorem selectionOf_eq_none {v : Byte} : selectionOf v = none ↔ v ≠ 1 ∧ v ≠ 2 := by
  unfold selectionOf
  split
  next one => simp [one]
  next one => split <;> simp_all

/-- SELECT_SOURCE in the order of R24, from a state with the authority and the backup domain of s. -/
theorem blockSelectSource_eq {s u : State} (authority : u.authority = s.authority) (backup : u.backup = s.backup) (p : Port)
    (v : Byte) :
    blockSelectSource p v u =
      if s.authority.holder ≠ some p then u.refuse .notAuthority
      else if v ≠ 1 ∧ v ≠ 2 then u.refuse .badArg
      else if s.backup.source ≠ .notChosen then u.refuse .locked
      else (u.chooseSource (if v = 1 then .internalOnly else .reference)).answer .ok [v] := by
  unfold blockSelectSource State.isHolder
  rw [authority, backup]
  simp only [decide_eq_false_iff_not, ne_eq]
  congr 1
  split
  next e => rw [if_pos (selectionOf_eq_none.1 e)]
  next sel e =>
    have named : ¬ (¬ v = 1 ∧ ¬ v = 2) := fun bad => by rw [selectionOf_eq_none.2 bad] at e; cases e
    rw [if_neg named]
    have code : sel = (if v = 1 then .internalOnly else .reference) ∧ byteOf sel.code = v := by
      unfold selectionOf at e
      split at e
      next one => cases e; subst one; exact ⟨rfl, rfl⟩
      next notOne =>
        split at e
        next two => cases e; subst two; exact ⟨rfl, rfl⟩
        · cases e
    rw [code.2, code.1]

theorem selectSource_decides (p : Port) (v : Byte) {s : State} (ready : Ready s p) :
    let t := s.request p 1 (blockSelectSource p v)
    if s.authority.holder ≠ some p then Refused p 1 .notAuthority s t
    else if v ≠ 1 ∧ v ≠ 2 then Refused p 1 .badArg s t
    else if s.backup.source ≠ .notChosen then Refused p 1 .locked s t
    else OnlyChanges [.backup, .monitor, .ports] s t ∧
      t.backup = { s.backup with source := if v = 1 then .internalOnly else .reference } ∧
      (v = 1 → t.monitor = s.monitor) ∧ (v = 2 → t.monitor = s.monitor.absent) ∧
      Replied p 1 { status := .ok, fields := [v] } s t := by
  dsimp only
  set u := s.shiftOut p ((s.port p).requestMiso (1 + 3))
  have block := blockSelectSource_eq (s := s) (u := u) rfl rfl p v
  by_cases holder : s.authority.holder ≠ some p
  · rw [if_pos holder] at block ⊢
    exact State.request_refused ready 1 _ block
  rw [if_neg holder] at block ⊢
  by_cases bad : v ≠ 1 ∧ v ≠ 2
  · rw [if_pos bad] at block ⊢
    exact State.request_refused ready 1 _ block
  rw [if_neg bad] at block ⊢
  by_cases chosen : s.backup.source ≠ .notChosen
  · rw [if_pos chosen] at block ⊢
    exact State.request_refused ready 1 _ block
  rw [if_neg chosen] at block ⊢
  obtain ⟨only, replied⟩ := State.request_replied ready 1 block (u.chooseSource_only _)
  refine ⟨only.mono (by decide), ?_, fun one => ?_, fun two => ?_, replied⟩ <;> rw [State.request_answered ready 1 block]
  · rfl
  · subst one; rfl
  · subst two; rfl

/-! ## RESUME_REFERENCE (R36) -/

/-- RESUME_REFERENCE in the order of R36, from a state with the authority, the backup domain and the monitor of s. -/
theorem blockResumeReference_eq {s u : State} (authority : u.authority = s.authority) (backup : u.backup = s.backup)
    (monitor : u.monitor = s.monitor) (p : Port) :
    blockResumeReference p u =
      if s.authority.holder ≠ some p then u.refuse .notAuthority
      else if s.backup.quality ≠ .holdover then u.refuse .badArg
      else if s.monitor.state ≠ .refGood then u.refuse .notReady
      else u.beginTracking.answer .ok u.beginTracking.stamp.bytes := by
  unfold blockResumeReference State.isHolder
  rw [authority, backup, monitor]
  simp only [decide_eq_false_iff_not, ne_eq]

/-- The timestamp with which TRACKING begins (R7, R36). -/
theorem State.beginTracking_stamp (s : State) :
    s.beginTracking.stamp.bytes = bytesBE 2 s.backup.epoch.toNat ++ bytesBE 4 (s.backup.count / 1000000) ++
      bytesBE 3 (s.backup.count % 1000000) ++ [2] := by
  unfold State.stamp Timestamp.bytes timeBytes
  rw [s.beginTracking_backup, ← List.append_assoc]
  rfl

/-- A condition is raised whatever the slot holds. -/
theorem PortUnit.raisedIf_slot (u : PortUnit) (attached : Bool) (k : Condition) (x : Slot) :
    { u.raisedIf attached k with slot := x } = PortUnit.raisedIf attached k { u with slot := x } := by
  cases attached <;> rfl

theorem resumeReference_decides (p : Port) {s : State} (ready : Ready s p) :
    let t := s.request p 0 (blockResumeReference p)
    if s.authority.holder ≠ some p then Refused p 0 .notAuthority s t
    else if s.backup.quality ≠ .holdover then Refused p 0 .badArg s t
    else if s.monitor.state ≠ .refGood then Refused p 0 .notReady s t
    else OnlyChanges [.backup, .ports] s t ∧ t.backup = { s.backup with quality := .tracking } ∧
      ∀ q, t.port q = (if q = p then (s.port p).replied 0 { status := .ok, fields := (
          bytesBE 2 s.backup.epoch.toNat ++ bytesBE 4 (s.backup.count / 1000000) ++
            bytesBE 3 (s.backup.count % 1000000) ++ [2]) } else s.port q).raisedIf (s.attached q) .trackingBegun := by
  dsimp only
  set u := s.shiftOut p ((s.port p).requestMiso (0 + 3)) with hu
  have block := blockResumeReference_eq (s := s) (u := u) rfl rfl rfl p
  by_cases holder : s.authority.holder ≠ some p
  · rw [if_pos holder] at block ⊢
    exact State.request_refused ready 0 _ block
  rw [if_neg holder] at block ⊢
  by_cases notHeld : s.backup.quality ≠ .holdover
  · rw [if_pos notHeld] at block ⊢
    exact State.request_refused ready 0 _ block
  rw [if_neg notHeld] at block ⊢
  by_cases notGood : s.monitor.state ≠ .refGood
  · rw [if_pos notGood] at block ⊢
    exact State.request_refused ready 0 _ block
  rw [if_neg notGood] at block ⊢
  refine ⟨(State.request_answered_only ready 0 block u.beginTracking_only).mono (by decide), ?_, fun q => ?_⟩ <;>
    rw [State.request_answered ready 0 block]
  · exact u.beginTracking_backup
  · rw [u.beginTracking_stamp, State.port_setSlot, u.port_beginTracking, u.port_beginTracking, hu, s.attached_shiftOut,
      s.attached_shiftOut, s.port_shiftOut, s.port_shiftOut, if_pos rfl, PortUnit.raisedIf_slot]
    by_cases e : q = p
    · subst e
      rw [if_pos rfl, if_pos rfl, PortUnit.replied_eq]
      rfl
    · rw [if_neg e, if_neg e, if_neg e]

/-- Settles O25, each request in the order of its rule. -/
theorem sourceRequestsDecide : Obligations.SourceRequestsDecide := fun p v _ ready =>
  ⟨⟨_, rfl, selectSource_decides p v ready⟩, ⟨_, rfl, resumeReference_decides p ready⟩⟩

/-! ## READ_CLOCK and READ_ADJUST (R37, R59) -/

/-- A signed number in two's complement is that of the bit vector of its width (R187). -/
theorem intBE_eq_ofInt (k : Nat) (i : Int) : intBE k i = bytesBE k (BitVec.ofInt (8 * k) i).toNat := by
  unfold intBE
  rw [BitVec.toNat_ofInt]
  congr 2
  rw [show (2 ^ (8 * k) : Nat) = 256 ^ k by rw [pow_mul]; rfl]
  norm_cast

/-- The rate source of a part that runs, in its code (R31, R187). -/
theorem State.rateSource_code {s : State} (running : s.running = true) :
    byteOf s.rateSource.code = if s.backup.quality = .tracking then 1 else 0 := by
  obtain ⟨main, released⟩ := s.running_iff.1 running
  unfold State.rateSource
  rw [if_pos main]
  by_cases tracking : s.backup.quality = .tracking
  · rw [if_pos ⟨tracking, released⟩, if_pos tracking]; rfl
  · rw [if_neg fun h => tracking h.1, if_neg tracking]; rfl

/-- What READ_CLOCK reports of a part that runs (R37). -/
theorem blockReadClock_eq {s u : State} (source : u.rateSource = s.rateSource) (backup : u.backup = s.backup)
    (monitor : u.monitor = s.monitor) (running : s.running = true) :
    blockReadClock u = u.answer .ok
      ([byteOf s.backup.source.code, byteOf s.monitor.state.code, byteOf s.monitor.windowCount] ++
        (match s.monitor.lastError with
          | none => [0, 0, 0]
          | some e => 1 :: bytesBE 2 (BitVec.ofInt 16 e).toNat) ++
        [if s.backup.quality = .tracking then 1 else 0] ++ s.stamp.bytes) := by
  unfold blockReadClock State.stamp
  rw [source, State.rateSource_code running, backup, monitor]
  cases s.monitor.lastError with
  | none => rfl
  | some e => rw [Option.map_some, intBE_eq_ofInt]; rfl

theorem bytesBE_one (n : Nat) : bytesBE 1 n = [byteOf n] := by
  simp [bytesBE, byteOf]

/-- A port that may be none (R193). -/
theorem optPort_eq (x : Option Port) : optPort x = match x with
    | none => [0, 0]
    | some q => [1, byteOf q.val] := by
  cases x with
  | none => rfl
  | some q => exact congrArg _ (bytesBE_one _)

/-- The ACTIVE slot as READ_ADJUST reports it (R59, R193). -/
theorem activeBytes_eq (x : Option ActiveSlew) (remaining : Nat) :
    optBytes 8 (x.map fun a => [a.number] ++ intBE 4 a.amount ++ bytesBE 3 remaining) = match x with
      | none => List.replicate 9 0
      | some a => [1, a.number] ++ bytesBE 4 (BitVec.ofInt 32 a.amount).toNat ++ bytesBE 3 remaining := by
  cases x with
  | none => rfl
  | some a => rw [Option.map_some, intBE_eq_ofInt]; rfl

/-- The WAITING slot as READ_ADJUST reports it (R59, R193). -/
theorem waitingBytes_eq (x : Option Adjustment) :
    optBytes 9 (x.map fun w => [byteOf w.what.code, w.number] ++ w.what.amountBytes) = match x with
      | none => List.replicate 10 0
      | some w => [1, match w.what with
          | .set _ => 0
          | .step _ => 1
          | .slew _ => 2, w.number] ++
        (match w.what with
          | .set v => bytesBE 4 (v / 1000000) ++ bytesBE 3 (v % 1000000)
          | .step a => [0, 0, 0] ++ bytesBE 4 (BitVec.ofInt 32 a).toNat
          | .slew a => [0, 0, 0] ++ bytesBE 4 (BitVec.ofInt 32 a).toNat) := by
  cases x with
  | none => rfl
  | some w =>
    obtain ⟨number, what⟩ := w
    cases what with
    | set v => rfl
    | step a | slew a => rw [Option.map_some, AdjustKind.amountBytes, intBE_eq_ofInt]; rfl

/-- The slew report as READ_ADJUST reports it (R58, R59, R193). -/
theorem reportBytes_eq (x : Option SlewReport) :
    optBytes 5 (x.map fun r => [r.number, byteOf r.outcome.code] ++ bytesBE 3 r.unapplied) = match x with
      | none => List.replicate 6 0
      | some r => [1, r.number, byteOf r.outcome.code] ++ bytesBE 3 r.unapplied := by
  cases x <;> rfl

/-- What READ_ADJUST reports, from a state with the authority, the slew and the backup domain of s (R59). -/
theorem blockReadAdjust_eq {s u : State} (authority : u.authority = s.authority) (slew : u.slew = s.slew)
    (backup : u.backup = s.backup) : blockReadAdjust u = u.answer .ok
      (optPort s.authority.holder ++ [flagByte s.backup.key.isSome] ++
        optBytes 8 (s.authority.active.map fun a => [a.number] ++ intBE 4 a.amount ++ bytesBE 3 s.slew.remaining) ++
        optBytes 9 (s.authority.waiting.map fun w => [byteOf w.what.code, w.number] ++ w.what.amountBytes) ++
        [s.authority.nextNumber] ++
        optBytes 5 (s.authority.report.map fun r => [r.number, byteOf r.outcome.code] ++ bytesBE 3 r.unapplied) ++
        s.stamp.bytes) := by
  unfold blockReadAdjust State.stamp
  rw [authority, slew, backup]

/-- Settles O11, part by part of the two reports. -/
theorem readClockAndAdjustReport : Obligations.ReadClockAndAdjustReport := by
  intro p s ready
  refine ⟨⟨_, rfl, fun running => ?_⟩, ⟨_, rfl, ?_⟩⟩
  · exact State.request_reported ready 0 _ (blockReadClock_eq rfl rfl rfl running)
  · have report := State.request_reported ready 0 _ (blockReadAdjust_eq (s := s) rfl rfl rfl)
    rw [optPort_eq, activeBytes_eq, waitingBytes_eq, reportBytes_eq] at report
    exact report

end Sys2Proof.Machine
end

section
/-! The adjustment queue discarded and the authority handed over: what each leaves of the slew, the authority and the ports
(R15, R34, R42, R54, R55, R58). -/

namespace Sys2Proof.Machine

/-! ## The queue discarded (R55) -/

/-- What a step of R55 leaves: the slew, the authority, and every port, of which the one the records go to has them. -/
structure Discarded (dest : Option Port) (slew : SlewState) (authority : Authority) (records : List (Nat × Record))
    (s t : State) : Prop where
  slew : t.slew = slew
  authority : t.authority = authority
  ports : ∀ q, t.port q = (s.port q).storesIf (decide (dest = some q) && s.attached q) records

theorem Discarded.attached {dest : Option Port} {slew : SlewState} {authority : Authority} {records : List (Nat × Record)}
    {s t : State} (h : Discarded dest slew authority records s t) (q : Port) : t.attached q = s.attached q :=
  attached_of_state (by rw [h.ports q, PortUnit.storesIf_state])

/-- Step 1 of R55: the ACTIVE slew stops where it stands, and its record says what remains of it. -/
theorem State.cancelActive_discarded (s : State) (dest : Option Port) :
    Discarded dest s.discardSlew { s.authority with active := none, report := s.discardReport }
      (s.authority.active.map fun a => (3, adjustDoneRecord a.number .cancelled (some s.slew.remaining) s.stamp)).toList
      s (s.cancelActive dest) := by
  unfold State.cancelActive State.discardSlew State.discardReport
  cases active : s.authority.active with
  | none =>
    have same : { s.authority with active := none } = s.authority := by rw [← active]
    exact ⟨rfl, same.symm, fun q => (PortUnit.storesIf_nil ..).symm⟩
  | some a =>
    have only := (s.slewLeaves a.number .cancelled s.slew.remaining).deliverTo_only dest 3
      (adjustDoneRecord a.number .cancelled (some s.slew.remaining) s.stamp)
    exact ⟨only.slew, only.authority, fun q => State.port_deliverTo ..⟩

/-- Step 2 of R55: the WAITING adjustment leaves without being applied. -/
theorem State.cancelWaiting_discarded (s : State) (dest : Option Port) :
    Discarded dest s.slew { s.authority with waiting := none }
      (s.authority.waiting.map fun w => (3, adjustDoneRecord w.number .cancelled w.what.unbegun s.stamp)).toList
      s (s.cancelWaiting dest) := by
  unfold State.cancelWaiting
  cases waiting : s.authority.waiting with
  | none =>
    have same : { s.authority with waiting := none } = s.authority := by rw [← waiting]
    exact ⟨rfl, same.symm, fun q => (PortUnit.storesIf_nil ..).symm⟩
  | some w =>
    have only := State.deliverTo_only { s with authority := { s.authority with waiting := none } } dest 3
      (adjustDoneRecord w.number .cancelled w.what.unbegun s.stamp)
    exact ⟨only.slew, only.authority, fun q => State.port_deliverTo ..⟩

/-- The queue discarded: both adjustments leave, and their records go to the port given, in their order (R55, R58). -/
theorem State.discardQueue_spec (s : State) (dest : Option Port) :
    Discarded dest s.discardSlew { s.authority with active := none, waiting := none, report := s.discardReport }
      s.discardRecords s (s.discardQueue dest) := by
  have first := s.cancelActive_discarded dest
  have second := (s.cancelActive dest).cancelWaiting_discarded dest
  have stamp := (s.cancelActive_only dest).stamp
  refine ⟨second.slew.trans first.slew, ?_, fun q => ?_⟩
  · exact second.authority.trans (by rw [first.authority])
  · refine (second.ports q).trans ?_
    rw [first.ports q, first.attached q, first.authority, stamp]
    exact (PortUnit.storesIf_append ..).symm

/-! ## A change of holder (R42) -/

/-- The state in which the authority has its new holder and nothing else has happened yet (R42). -/
def State.given (s : State) (new : Option Port) : State := { s with authority := { s.authority with holder := new } }

theorem State.changeHolder_eq (s : State) (new dest : Option Port) :
    s.changeHolder new dest = (((s.given new).discardQueue dest).raiseAll .authorityChanged).offerReference := rfl

theorem State.changeHolder_slew (s : State) (new dest : Option Port) : (s.changeHolder new dest).slew = s.discardSlew := by
  rw [State.changeHolder_eq, (State.offerReference_only _).slew, (State.raiseAll_only ..).slew,
    ((s.given new).discardQueue_spec dest).slew]
  rfl

theorem State.changeHolder_authority (s : State) (new dest : Option Port) :
    (s.changeHolder new dest).authority =
      { s.authority with holder := new, active := none, waiting := none, report := s.discardReport } := by
  rw [State.changeHolder_eq, (State.offerReference_only _).authority, (State.raiseAll_only ..).authority,
    ((s.given new).discardQueue_spec dest).authority]
  rfl

/-- REF_READY at the holder, where it is called for (R34). -/
theorem State.port_offerReference (s : State) (q : Port) :
    s.offerReference.port q = (s.port q).raisedIf (decide (s.authority.holder = some q) && s.attached q &&
      decide (s.backup.quality = .holdover) && decide (s.monitor.state = .refGood)) .refReady := by
  unfold State.offerReference
  split
  next called => rw [State.port_raiseAtHolder, decide_eq_true called.1, decide_eq_true called.2, Bool.and_true, Bool.and_true]
  next uncalled =>
    have none : (decide (s.authority.holder = some q) && s.attached q && decide (s.backup.quality = .holdover) &&
        decide (s.monitor.state = .refGood)) = false := by
      rw [Bool.and_assoc, ← Bool.decide_and, decide_eq_false uncalled, Bool.and_false]
    rw [none]
    rfl

/-- Every port after a change of holder: the records of the discarded queue, AUTHORITY_CHANGED, and REF_READY at the new
holder where it is called for (R34, R42). -/
theorem State.port_changeHolder (s : State) (new dest : Option Port) (q : Port) :
    (s.changeHolder new dest).port q =
      (((s.port q).storesIf (decide (dest = some q) && s.attached q) s.discardRecords).raisedIf (s.attached q)
        .authorityChanged).raisedIf (decide (new = some q) && s.attached q &&
          decide (s.backup.quality = .holdover) && decide (s.monitor.state = .refGood)) .refReady := by
  have discarded := (s.given new).discardQueue_spec dest
  have only := ((s.given new).discardQueue_only dest).trans
    (((s.given new).discardQueue dest).raiseAll_only .authorityChanged |>.mono (by decide))
  have holder : (((s.given new).discardQueue dest).raiseAll .authorityChanged).authority.holder = new := by
    rw [(State.raiseAll_only ..).authority, discarded.authority]
    rfl
  rw [State.changeHolder_eq, State.port_offerReference, holder, only.backup, only.keeps .monitor (by decide),
    State.attached_raiseAll, State.port_raiseAll, discarded.attached, discarded.ports]
  rfl

end Sys2Proof.Machine
end

section
/-! What the records and conditions that reach a port, and the changes of every other part, leave of the port units and of
the walk (R155, R164, R171): the facts on which rests that every step keeps the ports consistent. -/

namespace Sys2Proof.Machine

/-! ## A port that records and conditions reach -/

/-- What records and conditions leave of a port: its state, its slot and its transaction, and all of it in RESET_HOLD, where
none reaches it (R155, R164). -/
structure PortUnit.Steady (u v : PortUnit) : Prop where
  state : v.state = u.state
  slot : v.slot = u.slot
  transfer : v.transfer = u.transfer
  held : u.state = .resetHold → v = u

theorem PortUnit.Steady.refl (u : PortUnit) : u.Steady u := ⟨rfl, rfl, rfl, fun _ => rfl⟩

theorem PortUnit.Steady.trans {u v w : PortUnit} (h : u.Steady v) (k : v.Steady w) : u.Steady w where
  state := k.state.trans h.state
  slot := k.slot.trans h.slot
  transfer := k.transfer.trans h.transfer
  held hold := (k.held (h.state.trans hold)).trans (h.held hold)

/-- A port that is not in RESET_HOLD may change in what the other fields hold. -/
theorem PortUnit.Steady.of_attached {u v : PortUnit} (attached : u.state ≠ .resetHold) (state : v.state = u.state)
    (slot : v.slot = u.slot) (transfer : v.transfer = u.transfer) : u.Steady v :=
  ⟨state, slot, transfer, fun hold => absurd hold attached⟩

theorem PortUnit.raisedIf_steady {u : PortUnit} {a : Bool} (attached : a = true → u.state ≠ .resetHold) (k : Condition) :
    u.Steady (u.raisedIf a k) := by
  cases a with
  | false => exact .refl u
  | true => exact .of_attached (attached rfl) rfl rfl rfl

theorem PortUnit.stores_keeps (u : PortUnit) (rs : List (Nat × Record)) :
    (u.stores rs).state = u.state ∧ (u.stores rs).slot = u.slot ∧ (u.stores rs).causes = u.causes ∧
      (u.stores rs).mask = u.mask ∧ (u.stores rs).miso = u.miso ∧ (u.stores rs).transfer = u.transfer := by
  induction rs generalizing u with
  | nil => exact ⟨rfl, rfl, rfl, rfl, rfl, rfl⟩
  | cons x xs ih =>
    obtain ⟨state, slot, causes, mask, miso, transfer⟩ := u.storeCopy_keeps { level := x.1, gap := false, record := x.2 }
    obtain ⟨state', slot', causes', mask', miso', transfer'⟩ := ih (u.storeCopy { level := x.1, gap := false, record := x.2 })
    exact ⟨state'.trans state, slot'.trans slot, causes'.trans causes, mask'.trans mask, miso'.trans miso,
      transfer'.trans transfer⟩

theorem PortUnit.storesIf_steady {u : PortUnit} {a : Bool} (attached : a = true → u.state ≠ .resetHold)
    (rs : List (Nat × Record)) : u.Steady (u.storesIf a rs) := by
  cases a with
  | false => exact .refl u
  | true =>
    obtain ⟨state, slot, -, -, -, transfer⟩ := u.stores_keeps rs
    exact .of_attached (attached rfl) state slot transfer

theorem State.attached_iff {s : State} {p : Port} : s.attached p = true ↔ (s.port p).state ≠ .resetHold := by
  unfold State.attached
  exact decide_eq_true_iff

theorem State.holder_attached {s : State} {p : Port} {x : Option Port} (h : (decide (x = some p) && s.attached p) = true) :
    (s.port p).state ≠ .resetHold := State.attached_iff.1 (Bool.and_eq_true_iff.1 h).2

/-! ## A change that leaves the ports and the walk as they were -/

/-- From s to t the ports are steady, a walk in progress is still its requester's, no port in RESET_HOLD has been given the
authority, and the part runs as it did. -/
structure Steady (s t : State) : Prop where
  ports : ∀ p, (s.port p).Steady (t.port p)
  walk : t.digest.map Walk.requester = s.digest.map Walk.requester
  holder : ∀ p, t.authority.holder = some p → s.authority.holder = some p ∨ s.attached p = true
  running : t.running = s.running

theorem Steady.refl (s : State) : Steady s s := ⟨fun _ => .refl _, rfl, fun _ => .inl, rfl⟩

namespace Steady

variable {s t u : State}

theorem attached (h : Steady s t) (p : Port) : t.attached p = s.attached p := attached_of_state (h.ports p).state

theorem trans (h : Steady s t) (k : Steady t u) : Steady s u where
  ports p := (h.ports p).trans (k.ports p)
  walk := k.walk.trans h.walk
  holder p holds := by
    obtain before | attached := k.holder p holds
    · exact h.holder p before
    · exact .inr (h.attached p ▸ attached)
  running := k.running.trans h.running

/-- A change that does not reach the walk, the authority and the pins, and leaves the ports steady. -/
theorem toPorts {ps : List Part} (h : Steady s t) (only : OnlyChanges ps t u) (ports : ∀ p, (t.port p).Steady (u.port p))
    (n : Part.digest ∉ ps ∧ Part.authority ∉ ps ∧ Part.pins ∉ ps := by decide) : Steady s u :=
  h.trans ⟨ports, congrArg _ (only.digest n.1), fun _ holds => .inl (only.authority n.2.1 ▸ holds), only.running n.2.2⟩

/-- A change that does not reach the ports, the walk, the authority and the pins. -/
theorem next {ps : List Part} (h : Steady s t) (only : OnlyChanges ps t u)
    (n : Part.ports ∉ ps ∧ Part.digest ∉ ps ∧ Part.authority ∉ ps ∧ Part.pins ∉ ps := by decide) : Steady s u :=
  h.toPorts only (fun p => by rw [only.port p n.1]; exact .refl _) n.2

/-- A change of the adjustment queue that leaves the holder. -/
theorem toQueue {ps : List Part} (h : Steady s t) (only : OnlyChanges ps t u)
    (holder : u.authority.holder = t.authority.holder)
    (n : Part.ports ∉ ps ∧ Part.digest ∉ ps ∧ Part.pins ∉ ps := by decide) : Steady s u :=
  h.trans ⟨fun p => by rw [only.port p n.1]; exact .refl _, congrArg _ (only.digest n.2.1),
    fun p holds => .inl (holder ▸ holds), only.running n.2.2⟩

theorem ite {c : Prop} [Decidable c] (h : Steady s t) (k : Steady s u) : Steady s (if c then t else u) := by
  split <;> assumption

theorem foldl {α : Type} {f : State → α → State} (each : ∀ t x, Steady s t → Steady s (f t x)) (l : List α)
    (h : Steady s t) : Steady s (l.foldl f t) := foldl_keeps each l t h

/-! ## Conditions, records and subscriptions -/

theorem setPort (h : Steady s t) (p : Port) {x : PortUnit} (steady : (t.port p).Steady x) : Steady s (t.setPort p x) :=
  h.toPorts (t.setPort_only p x) fun q => by
    rw [State.port_setPort]
    split
    next e => rw [e]; exact steady
    · exact .refl _

theorem raiseAll (h : Steady s t) (k : Condition) : Steady s (t.raiseAll k) :=
  h.toPorts (t.raiseAll_only k) fun p => by
    rw [State.port_raiseAll]; exact PortUnit.raisedIf_steady State.attached_iff.1 k

theorem raiseAtHolder (h : Steady s t) (k : Condition) : Steady s (t.raiseAtHolder k) :=
  h.toPorts (t.raiseAtHolder_only k) fun p => by
    rw [State.port_raiseAtHolder]; exact PortUnit.raisedIf_steady State.holder_attached k

theorem deliverTo (h : Steady s t) (p : Option Port) (l : Nat) (r : Record) : Steady s (t.deliverTo p l r) :=
  h.toPorts (t.deliverTo_only p l r) fun q => by
    rw [State.port_deliverTo]; exact PortUnit.storesIf_steady State.holder_attached _

theorem deliverShared (h : Steady s t) (src : SubSource) (o : Option (Port × Nat)) (r : Record) :
    Steady s (t.deliverShared src o r) :=
  h.toPorts (t.deliverShared_only src o r) fun q => by
    rw [State.port_deliverShared]; exact PortUnit.storesIf_steady State.attached_iff.1 _

theorem endSubs (h : Steady s t) (test : Subscription → Bool) : Steady s (t.endSubs test) :=
  h.toPorts (t.endSubs_only test) fun q => by
    rw [State.port_endSubs]; exact PortUnit.storesIf_steady State.attached_iff.1 _

theorem endGone (h : Steady s t) (b : State) : Steady s (t.endGone b) := h.endSubs _

/-- A reset cause added at every attached port (R183). -/
theorem causeAttached (h : Steady s t) (c : ResetCause) : Steady s (t.causeAttached c) :=
  h.toPorts (t.causeAttached_only c) fun p => by
    rw [State.port_causeAttached]
    split
    next attached => exact .of_attached (State.attached_iff.1 attached) rfl rfl rfl
    · exact .refl _

theorem expireHold (h : Steady s t) (l : LineNo) : Steady s (t.expireHold l) := by
  unfold State.expireHold
  split
  · exact (h.next (t.setLine_only ..)).deliverTo ..
  all_goals exact h

/-! ## The schedule table -/

/-- The changed mark leaves a walk its requester's (R171). -/
theorem markChanged (h : Steady s t) (c : Content) : Steady s (t.markChanged c) := by
  have only := t.markChanged_only c
  refine h.trans ⟨fun p => by rw [only.port]; exact .refl _, ?_, fun p holds => .inl (only.authority ▸ holds), only.running⟩
  rw [State.digest_markChanged, Option.map_map]
  rfl

theorem bumpFull (h : Steady s t) : Steady s t.bumpFull :=
  (h.next (ps := [.schedule]) ⟨fun q hq => by cases q <;> first | rfl | exact absurd (by decide) hq⟩).markChanged _

theorem bumpBoth (h : Steady s t) : Steady s t.bumpBoth :=
  (h.next (ps := [.schedule])
    ⟨fun q hq => by cases q <;> first | rfl | exact absurd (by decide) hq⟩).bumpFull.markChanged _

theorem setBody (h : Steady s t) (i : EntryIx) (b : Option Body) : Steady s (t.setBody i b) := h.next (t.setBody_only i b)

theorem vacate (h : Steady s t) (i : EntryIx) : Steady s (t.vacate i) := (h.setBody i none).bumpBoth

theorem settleFired (h : Steady s t) (i : EntryIx) (b : Body) (late : Bool) (due : Nat) :
    Steady s (t.settleFired i b late due) := by
  unfold State.settleFired
  split
  · exact h.setBody ..
  · exact (h.setBody ..).ite (h.vacate i)

theorem fireWithin (h : Steady s t) (i : EntryIx) (late : Bool) (missed : Nat) : Steady s (t.fireWithin i late missed) := by
  unfold State.fireWithin
  split
  · split
    · exact ((h.next (t.fireLine_only ..)).deliverShared ..).bumpFull.settleFired ..
    all_goals exact h
  · exact h

theorem fire (h : Steady s t) (i : EntryIx) (late : Bool) (missed : Nat) : Steady s (t.fire i late missed) :=
  (h.fireWithin i late missed).endGone t

theorem fireWhere (h : Steady s t) (test : Nat → Bool) : Steady s (t.fireWhere test) :=
  .foldl (fun _ i k => (k.fire i false 0).ite k) _ h

theorem fireReached (h : Steady s t) : Steady s t.fireReached := (h.fireWhere _).fireWhere _

theorem withUnfired (h : Steady s t) (x : Bool) : Steady s { t with unfired := x } := h.next (t.withUnfired_only x)

theorem fireUnfired (h : Steady s t) : Steady s t.fireUnfired := (h.withUnfired false).fireReached.ite h

theorem fireOne (h : Steady s t) : Steady s t.fireOne := by
  unfold State.fireOne
  split
  · split
    · exact h.withUnfired false
    · exact (h.withUnfired _).fire ..
  · exact h

theorem resolveWithin (h : Steady s t) (i : EntryIx) : Steady s (t.resolveWithin i) := by
  unfold State.resolveWithin
  split
  · split
    · exact (h.fireWithin ..).ite h
    all_goals exact h
  · exact h

theorem recompute (h : Steady s t) (i : EntryIx) : Steady s (t.recompute i) := by
  rw [State.recompute_eq]
  exact (h.setBody ..).bumpFull.ite h

theorem stepTable (h : Steady s t) (old : Nat) : Steady s (t.stepTable old) :=
  ((foldl (fun _ i k => k.resolveWithin i) _ h).endGone t).ite (foldl (fun _ i k => k.recompute i) _ h)

theorem armAt (h : Steady s t) (i : EntryIx) (b : Body) (due : Nat) : Steady s (t.armAt i b due) :=
  ((h.setBody ..).bumpFull.fireWithin ..).ite (h.setBody ..).bumpFull

theorem captureAt (h : Steady s t) (c : ChanNo) (k : RecordKind) (time : Nat) (i : EntryIx) :
    Steady s (t.captureAt c k time i) := by
  unfold State.captureAt
  split
  · split
    · split
      · split
        · exact h.armAt ..
        · exact (h.armAt ..).ite h
        all_goals exact h
      · exact h
    all_goals exact h
  · exact h

/-! ## Capture records (R142) -/

theorem setChannel (h : Steady s t) (c : ChanNo) (x : Channel) : Steady s (t.setChannel c x) := h.next (t.setChannel_only c x)

theorem handOn (depth : Nat) (h : Steady s t) (c : ChanNo) (k : RecordKind) (value : Nat) :
    Steady s (State.handOn depth t c k value) := by
  induction depth generalizing t c k value with
  | zero => exact h
  | succ n ih =>
    have acted : Steady s ((t.deliverCapture c k value).captureAll c k t.now) :=
      foldl (fun _ i j => j.captureAt c k t.now i) _ (h.deliverShared ..)
    unfold State.handOn
    refine acted.ite (foldl (fun _ _ j => ?_) _ acted)
    exact ((ih (j.setChannel ..) ..).ite (j.setChannel ..)).ite j

theorem produce (h : Steady s t) (c : ChanNo) (k : RecordKind) (value : Nat) : Steady s (t.produce c k value) :=
  (h.handOn 8 c k value).endGone t

theorem countEvent (h : Steady s t) (c : ChanNo) : Steady s (t.countEvent c) :=
  ((h.setChannel ..).produce ..).ite (h.setChannel ..)

theorem measureEdge (h : Steady s t) (c : ChanNo) (k : RecordKind) : Steady s (t.measureEdge c k) := by
  unfold State.measureEdge
  split
  · exact h.setChannel ..
  · exact (h.setChannel ..).produce ..

theorem actOnEdge (h : Steady s t) (c : ChanNo) (x : PinLevel) : Steady s (t.actOnEdge c x) := by
  unfold State.actOnEdge
  split
  · exact (h.produce ..).ite h
  · exact (h.measureEdge ..).ite h
  · exact h.measureEdge ..
  · exact (h.countEvent ..).ite h

theorem takeEdge (h : Steady s t) (c : ChanNo) : Steady s (t.takeEdge c) := by
  unfold State.takeEdge
  split
  · exact ((h.setChannel ..).actOnEdge ..).ite (h.setChannel ..)
  all_goals exact h

theorem overflowMeasure (h : Steady s t) (c : ChanNo) : Steady s (t.overflowMeasure c) := by
  unfold State.overflowMeasure
  split
  · exact ((h.setChannel ..).produce ..).ite h
  · exact h

/-- A raw level of a capture pin is no supply and no reset input. -/
theorem filterRaw (h : Steady s t) (c : ChanNo) (x : PinLevel) : Steady s (t.filterRaw c x) := by
  have taken : Steady s (if t.rawLevel c = x then t else t.takeEdge c) := h.ite (h.takeEdge c)
  have raw : Steady s (State.setRaw (if t.rawLevel c = x then t else t.takeEdge c) c x) :=
    taken.trans ⟨fun _ => .refl _, rfl, fun _ => .inl, rfl⟩
  exact raw.setChannel ..

end Steady

end Sys2Proof.Machine
end

section
/-! The clock supervisor, the adjustment queue, the advance of the count and the blocks of the requests leave the ports steady;
what is left of the port that begins a walk, gives everything up or comes to READY is said apart. -/

namespace Sys2Proof.Machine

namespace Steady

variable {s t : State}

/-! ## The clock supervisor (Chapter 2) -/

theorem setQuality (h : Steady s t) (q : Quality) : Steady s (t.setQuality q) := h.next (t.setQuality_only q)

theorem withMonitor (h : Steady s t) (m : Monitor) : Steady s { t with monitor := m } :=
  h.next (ps := [.monitor]) ⟨fun q hq => by cases q <;> first | rfl | exact absurd (by decide) hq⟩

theorem beginTracking (h : Steady s t) : Steady s t.beginTracking := (h.setQuality .tracking).raiseAll _

theorem refGoodReached (h : Steady s t) : Steady s t.refGoodReached := by
  unfold State.refGoodReached
  split
  · exact h
  · exact h.beginTracking
  · exact h.raiseAtHolder _
  · exact h

theorem refGoodLeft (h : Steady s t) : Steady s t.refGoodLeft := by
  unfold State.refGoodLeft
  split
  · exact (h.setQuality .holdover).raiseAll _
  all_goals exact h

theorem judgeQualifying (h : Steady s t) (e : Int) : Steady s (t.judgeQualifying e) :=
  ((h.withMonitor _).ite (h.withMonitor _).refGoodReached).ite (h.withMonitor _)

theorem judgeGood (h : Steady s t) (e : Int) : Steady s (t.judgeGood e) :=
  (h.withMonitor _).ite (h.withMonitor _).refGoodLeft

theorem endWindow (h : Steady s t) : Steady s t.endWindow := by
  unfold State.endWindow
  split
  · split
    · exact (h.next t.windowErrorNow_only).judgeQualifying _
    · exact (h.next t.windowErrorNow_only).judgeGood _
    all_goals exact h
  · exact h

theorem loseReference (h : Steady s t) : Steady s t.loseReference := by
  unfold State.loseReference
  split
  · exact h.withMonitor _
  · exact (h.withMonitor _).refGoodLeft
  all_goals exact h

theorem takeLoss (h : Steady s t) : Steady s t.takeLoss := h.loseReference.ite h

theorem takeReferenceEdge (h : Steady s t) (gap : Nat) : Steady s (t.takeReferenceEdge gap) := by
  unfold State.takeReferenceEdge State.takeEdgeAfter
  split
  · exact h
  · exact h.withMonitor _
  all_goals exact (h.loseReference.withMonitor _).ite (h.withMonitor _)

/-! ## Adjustments (Chapter 3) -/

theorem withBackup (h : Steady s t) (b : Backup) : Steady s { t with backup := b } :=
  h.next (ps := [.backup]) ⟨fun q hq => by cases q <;> first | rfl | exact absurd (by decide) hq⟩

theorem leaveUnset (h : Steady s t) : Steady s t.leaveUnset := h.beginTracking.ite (h.setQuality _)

theorem applyTime (h : Steady s t) (v : Nat) : Steady s (t.applyTime v) :=
  (((h.withBackup _).leaveUnset.ite (h.withBackup _)).stepTable _).raiseAll _

theorem slewLeaves (h : Steady s t) (n : BitVec 8) (o : AdjustOutcome) (left : Nat) : Steady s (t.slewLeaves n o left) :=
  h.toQueue (t.slewLeaves_only n o left) rfl

theorem withQueue (h : Steady s t) {a : Authority} (holder : a.holder = t.authority.holder) :
    Steady s { t with authority := a } :=
  h.toQueue (ps := [.authority]) ⟨fun q hq => by cases q <;> first | rfl | exact absurd (by decide) hq⟩ holder

theorem completeSlew (h : Steady s t) (left : Nat) : Steady s (t.completeSlew left) := by
  unfold State.completeSlew
  split
  · exact (h.slewLeaves ..).deliverTo ..
  · exact h

theorem beginSlew (h : Steady s t) (n : BitVec 8) (amount : Int) : Steady s (t.beginSlew n amount) := by
  have begun : Steady s { t with
      slew := { direction := if 0 ≤ amount then .positive else .negative, remaining := amount.natAbs, blockElapsed := 0 }
      authority := { t.authority with active := some { number := n, amount := amount } } } :=
    h.toQueue (ps := [.slew, .authority])
      ⟨fun q hq => by cases q <;> first | rfl | exact absurd (by decide) hq⟩ rfl
  exact (begun.completeSlew _).ite begun

theorem applyWaiting (h : Steady s t) (n : BitVec 8) (v : Option Nat) : Steady s (t.applyWaiting n v) := by
  unfold State.applyWaiting
  split
  · exact (h.applyTime _).deliverTo ..
  · exact h.deliverTo ..

theorem slewEnded (h : Steady s t) (left : Nat) : Steady s (t.slewEnded left) := by
  have done := h.completeSlew left
  unfold State.slewEnded
  dsimp only
  split
  · exact done
  · have taken := done.withQueue (a := { (t.completeSlew left).authority with waiting := none }) rfl
    split
    · exact taken.beginSlew ..
    · exact taken.applyWaiting ..
    · exact taken.applyWaiting ..

theorem discardQueue (h : Steady s t) (dest : Option Port) : Steady s (t.discardQueue dest) := by
  have first : Steady s (t.cancelActive dest) := by
    unfold State.cancelActive
    split
    · exact (h.slewLeaves ..).deliverTo ..
    · exact h
  unfold State.discardQueue State.cancelWaiting
  split
  · exact (first.withQueue (a := { (t.cancelActive dest).authority with waiting := none }) rfl).deliverTo ..
  · exact first

/-- The authority changes hands: an attached port is given it, or none is (R42). -/
theorem changeHolder (h : Steady s t) {new : Option Port} (attached : ∀ p, new = some p → t.attached p = true)
    (dest : Option Port) : Steady s (t.changeHolder new dest) := by
  have given : Steady s { t with authority := { t.authority with holder := new } } :=
    h.trans ⟨fun _ => .refl _, rfl, fun p holds => .inr (attached p holds), rfl⟩
  have told := (given.discardQueue dest).raiseAll .authorityChanged
  exact (told.raiseAtHolder _).ite told

/-! ## The advance of the count (Chapter 1) -/

theorem reachEnd (h : Steady s t) : Steady s t.reachEnd := by
  have fired : Steady s (t.holdRange.fireDue Config.endOfRange) := (h.next t.holdRange_only).fireWhere _
  have told := fired.raiseAll .rangeEnd
  exact told.ite (told.slewEnded _)

theorem advanceTo (h : Steady s t) (v : Nat) (fires : Bool) : Steady s (t.advanceTo v fires) :=
  (h.withBackup _).fireReached.ite ((h.withBackup _).withUnfired true)

theorem advanceOne (h : Steady s t) (fires : Bool) : Steady s (t.advanceOne fires) :=
  ((h.advanceTo ..).ite h.reachEnd).ite h

theorem endSlewIfDone (h : Steady s t) : Steady s t.endSlewIfDone := (h.slewEnded 0).ite h

theorem timebaseMicro (h : Steady s t) (fires : Bool) : Steady s (t.timebaseMicro fires) := by
  have counted := h.next t.countBlock_only
  have slewed : ∀ x : SlewState, Steady s { t with slew := x } := fun x =>
    h.next (ps := [.slew]) ⟨fun q hq => by cases q <;> first | rfl | exact absurd (by decide) hq⟩
  refine ite ?_ ((h.advanceOne fires).ite ((slewed _).advanceOne fires))
  unfold State.blockEnd
  split
  · exact (counted.advanceTo ..).endSlewIfDone.ite h.reachEnd
  · exact counted.endSlewIfDone
  · exact h

theorem countTimers (h : Steady s t) : Steady s t.countTimers := by
  refine h.trans ⟨fun p => by rw [t.countTimers_only.port p (by decide)]; exact .refl _, ?_,
    fun p holds => .inl (t.countTimers_only.authority ▸ holds), t.countTimers_only.running⟩
  rw [t.countTimers_counted.2.2.2, Option.map_map]
  rfl

/-! ## The blocks of the requests -/

theorem ite_fst {x y : State × Option Response} {c : Prop} [Decidable c] (h : Steady s x.1) (k : Steady s y.1) :
    Steady s (if c then x else y).1 := by
  split <;> assumption

theorem withHandle {index inst : Byte} {go : EntryIx → Body → State × Option Response} (h : Steady s t)
    (k : ∀ i b, Steady s (go i b).1) : Steady s (t.withHandle index inst go).1 := by
  unfold State.withHandle
  split
  · exact h
  · split
    · exact h
    · exact (k ..).ite_fst h

theorem withOwned {p : Port} {index inst : Byte} {go : EntryIx → Body → State × Option Response} (h : Steady s t)
    (k : ∀ i b, Steady s (go i b).1) : Steady s (t.withOwned p index inst go).1 :=
  h.withHandle fun i b => (k i b).ite_fst h

theorem withOwnChannel {p : Port} {channel : Byte} {go : ChanNo → State × Option Response} (h : Steady s t)
    (k : ∀ c, Steady s (go c).1) : Steady s (t.withOwnChannel p channel go).1 := by
  unfold State.withOwnChannel State.withChannel
  split
  · exact h
  · exact (k _).ite_fst h

theorem retimed (h : Steady s t) (i : EntryIx) (b : Body) (d : Definition) (r : RunState) : Steady s (t.retimed i b d r) :=
  (h.setBody ..).bumpBoth

theorem setRun (h : Steady s t) (i : EntryIx) (b : Body) (r : RunState) : Steady s (t.setRun i b r) :=
  (h.setBody ..).bumpFull

theorem allocate (h : Steady s t) (i : EntryIx) (b : Body) : Steady s (t.allocate i b) :=
  (h.next (ps := [.schedule]) (u := t.setEntry i _)
    ⟨fun q hq => by cases q <;> first | rfl | exact absurd (by decide) hq⟩).bumpBoth

end Steady

variable {u : State}

theorem blockClaimAuthority_steady (p : Port) (key : OptField 64) (attached : u.attached p = true) :
    Steady u (blockClaimAuthority p key u).1 := by
  have given : ∀ q, some p = some q → u.attached q = true := fun q e => Option.some.inj e ▸ attached
  unfold blockClaimAuthority
  split
  · exact .refl u
  · unfold State.claim
    split
    · exact (Steady.refl u).changeHolder given _
    · refine Steady.ite_fst (.refl u) ?_
      split
      · exact .refl u
      · exact ((Steady.refl u).changeHolder given _).ite_fst (.refl u)

theorem blockReleaseAuthority_steady (p : Port) : Steady u (blockReleaseAuthority p u).1 :=
  .ite_fst (.refl u) ((Steady.refl u).changeHolder (new := none) nofun _)

theorem State.applyAnswer_steady (v : Option Nat) : Steady u (u.applyAnswer v).1 := by
  unfold State.applyAnswer
  split
  · exact .refl u
  · exact (Steady.refl u).applyTime _

theorem State.enqueue_steady (k : AdjustKind) : Steady u (u.enqueue k) := (Steady.refl u).toQueue (u.enqueue_only k) rfl

theorem blockSetTime_steady (p : Port) (sec : BitVec 32) (us : BitVec 24) : Steady u (blockSetTime p sec us u).1 :=
  .ite_fst (.refl u) <| .ite_fst (.refl u) <| .ite_fst (.refl u) <| .ite_fst (u.enqueue_steady _) (u.applyAnswer_steady _)

theorem blockStep_steady (p : Port) (amount : BitVec 32) : Steady u (blockStep p amount u).1 :=
  .ite_fst (.refl u) <| .ite_fst (.refl u) <| .ite_fst (.refl u) <| .ite_fst (.refl u) <|
    .ite_fst (u.enqueue_steady _) (u.applyAnswer_steady _)

theorem blockSlew_steady (p : Port) (amount : BitVec 32) : Steady u (blockSlew p amount u).1 :=
  .ite_fst (.refl u) <| .ite_fst (.refl u) <| .ite_fst (.refl u) <| .ite_fst (.refl u) <|
    .ite_fst (u.enqueue_steady _) (((Steady.refl u).toQueue u.takeNumber_only rfl).beginSlew ..)

theorem blockCancelAdjust_steady (p : Port) : Steady u (blockCancelAdjust p u).1 :=
  .ite_fst (.refl u) ((Steady.refl u).discardQueue _)

theorem blockResumeReference_steady (p : Port) : Steady u (blockResumeReference p u).1 :=
  .ite_fst (.refl u) <| .ite_fst (.refl u) <| .ite_fst (.refl u) (Steady.refl u).beginTracking

theorem blockClearBackup_steady (p : Port) : Steady u (blockClearBackup p u).1 :=
  .ite_fst (.refl u) <| .ite_fst (.refl u) <| .ite_fst (.refl u)
    (((((Steady.refl u).withBackup Backup.reset).withMonitor Monitor.off).raiseAll _).causeAttached _)

theorem blockArmEntry_steady (p : Port) (f : ArmFields) : Steady u (blockArmEntry p f u).1 := by
  unfold blockArmEntry
  split
  · exact .refl u
  · refine .ite_fst (.refl u) <| .ite_fst (.refl u) <| .ite_fst (.refl u) ?_
    split
    · exact .refl u
    · unfold State.armInto
      split
      · exact .refl u
      · exact .refl u
      · exact (Steady.refl u).allocate ..
      · exact (Steady.refl u).allocate ..
      · exact ((Steady.refl u).allocate ..).fire ..

theorem State.retimeArmed_steady (i : EntryIx) (b : Body) (due : Nat) (d : Definition) (late : Bool) :
    Steady u (u.retimeArmed i b due d late).1 := by
  unfold State.retimeArmed
  split
  · exact .refl u
  · exact .refl u
  · exact (Steady.refl u).retimed ..
  · exact (Steady.refl u).retimed ..
  · exact ((Steady.refl u).retimed ..).fire ..

theorem State.retimeHeld_steady (i : EntryIx) (b : Body) (due : Nat) (d : Definition) (late : Bool) :
    Steady u (u.retimeHeld i b due d late).1 := by
  unfold State.retimeHeld
  split
  · exact .refl u
  · exact .refl u
  all_goals exact (Steady.refl u).retimed ..

theorem blockRetimeEntry_steady (p : Port) (index inst : Byte) (block : DefBlock) (late : Byte) :
    Steady u (blockRetimeEntry p index inst block late u).1 := by
  unfold blockRetimeEntry
  split
  · exact .refl u
  all_goals
    refine (Steady.refl u).withOwned fun i b => ?_
    split
    · refine .ite_fst (.refl u) ?_
      split
      · exact u.retimeArmed_steady ..
      · exact u.retimeHeld_steady ..
      · exact (Steady.refl u).retimed ..
      all_goals exact .refl u
    all_goals exact .refl u

theorem blockHoldEntry_steady (p : Port) (index inst : Byte) : Steady u (blockHoldEntry p index inst u).1 := by
  refine (Steady.refl u).withOwned fun i b => ?_
  split
  · exact (Steady.refl u).setRun ..
  · exact (Steady.refl u).setRun ..
  all_goals exact .refl u

theorem blockUnholdEntry_steady (p : Port) (index inst : Byte) : Steady u (blockUnholdEntry p index inst u).1 := by
  refine (Steady.refl u).withOwned fun i b => ?_
  split
  · exact (Steady.refl u).setRun ..
  · exact (((Steady.refl u).setRun ..).resolveWithin i).endGone _
  all_goals exact .refl u

theorem blockCancelEntry_steady (p : Port) (index inst : Byte) : Steady u (blockCancelEntry p index inst u).1 :=
  (Steady.refl u).withOwned fun i _ => ((Steady.refl u).vacate i).endGone u

theorem blockReleaseChannel_steady (p : Port) (channel : Byte) : Steady u (blockReleaseChannel p channel u).1 :=
  (Steady.refl u).withOwnChannel fun c => .ite_fst (.refl u) (((Steady.refl u).setChannel c _).endGone u)

theorem blockShareChannel_steady (p : Port) (channel flag : Byte) : Steady u (blockShareChannel p channel flag u).1 := by
  unfold blockShareChannel
  split
  · exact (Steady.refl u).withOwnChannel fun c =>
      ((Steady.refl u).setChannel c _).ite ((((Steady.refl u).setChannel c _).endSubs _).ite (.refl u))
  all_goals exact .refl u

/-! ## The requests that touch their own port alone -/

section OwnPort

variable {p : Port} (ready : (u.port p).state = .ready)
include ready

/-- A port that is READY with another queue, condition set, mask or reset-cause set. -/
theorem Steady.ownPort {x : PortUnit} (state : x.state = (u.port p).state) (slot : x.slot = (u.port p).slot)
    (transfer : x.transfer = (u.port p).transfer) : Steady u (u.setPort p x) :=
  (Steady.refl u).setPort p (.of_attached (by rw [ready]; nofun) state slot transfer)

theorem blockTakeRecord_steady : Steady u (blockTakeRecord p u).1 := by
  unfold blockTakeRecord
  split
  · exact .refl u
  · exact .ownPort ready rfl rfl rfl

theorem blockAckConditions_steady (named : Byte) : Steady u (blockAckConditions p named u).1 :=
  .ite_fst (.refl u) (.ownPort ready rfl rfl rfl)

theorem blockSetMask_steady (mask : Byte) : Steady u (blockSetMask p mask u).1 :=
  .ite_fst (.refl u) (.ownPort ready rfl rfl rfl)

theorem blockReadResetCause_steady : Steady u (blockReadResetCause p u).1 := .ownPort ready rfl rfl rfl

end OwnPort

end Sys2Proof.Machine
end

section
/-! The ports consistent, said of each port unit and of the ports together; what a request, a fetch, the walk, a port reset
and a device reset make of it (R39, R169, R172, R178 to R182, R185, R188; log 9). -/

namespace Sys2Proof.Machine

/-! ## The property of one port, and of the ports together -/

/-- What PortsConsistent says of one port unit by itself (R169, R179 to R181, R188). -/
structure PortUnit.Consistent (u : PortUnit) : Prop where
  held : u.state = .resetHold → u.cleared = u
  pending : u.slot = .pending ↔ u.state = .executing
  sampled : ∀ status slot, u.transfer = .begun status slot →
    (slot = u.slot ∨ slot = .pending ∧ u.slot ≠ .empty) ∧ (status.getLsbD 2 = true ↔ slot = .pending)

/-- What PortsConsistent says, part by part. -/
structure PortsSound (s : State) : Prop where
  units : ∀ p, (s.port p).Consistent
  holder : ∀ p, s.authority.holder = some p → (s.port p).state ≠ .resetHold
  walk : ∀ p, (s.port p).state = .executing ↔ s.digest.map Walk.requester = some p
  resting : s.running = false → ∀ p, (s.port p).state = .resetHold

theorem portsConsistent_iff {s : State} : PortsConsistent s ↔ PortsSound s := by
  have requester : ∀ p, (∃ w, s.digest = some w ∧ w.requester = p) ↔ s.digest.map Walk.requester = some p := fun p =>
    Option.map_eq_some_iff.symm
  constructor
  · rintro ⟨held, walk, pending, resting, sampled⟩
    exact ⟨fun p => ⟨fun e => (held p e).1, pending p, sampled p⟩, fun p holds e => (held p e).2 holds,
      fun p => (walk p).trans (requester p), resting⟩
  · rintro ⟨units, holder, walk, resting⟩
    exact ⟨fun p e => ⟨(units p).held e, fun holds => holder p holds e⟩, fun p => (walk p).trans (requester p).symm,
      fun p => (units p).pending, resting, fun p => (units p).sampled⟩

/-! ## One port -/

theorem Transfer.broken_not_begun (x : Transfer) (status : Byte) (slot : Slot) : x.broken ≠ .begun status slot := by
  cases x <;> nofun

/-- Bit 2 of the status byte says whether the port is EXECUTING (R188). -/
theorem PortUnit.statusByte_executing (u : PortUnit) : u.statusByte.getLsbD 2 = true ↔ u.state = .executing := by
  have bit : ∀ (slot : Fin 3) (e n c : Bool), (BitVec.ofNat 8 (slot.val + (if e = true then 4 else 0) +
      (if n = true then 8 else 0) + (if c = true then 0 else 16))).getLsbD 2 = e := by decide
  have code : u.slot.code < 3 := by unfold Slot.code; split <;> decide
  have := bit ⟨u.slot.code, code⟩ (decide (u.state = .executing)) u.notice (decide (u.causes = 0))
  simp only [decide_eq_true_eq] at this
  exact (congrArg (· = true) this).to_iff.trans decide_eq_true_iff

/-- A port that hears no transaction as in RESET_HOLD is not in it (R178). -/
theorem PortUnit.state_of_hears {u : PortUnit} (h : u.hears ≠ .resetHold) : u.state ≠ .resetHold := fun hold => by
  unfold PortUnit.hears at h
  rw [hold] at h
  cases e : u.transfer <;> simp [e] at h

theorem PortUnit.state_of_hears_ready {u : PortUnit} (h : u.hears = .ready) : u.state = .ready := by
  unfold PortUnit.hears at h
  split at h
  · split at h
    · cases h
    · exact h
  · exact h
  · cases h

namespace PortUnit.Consistent

variable {u v : PortUnit}

theorem steady (h : u.Consistent) (k : u.Steady v) : v.Consistent where
  held hold := by rw [k.held (k.state ▸ hold)]; exact h.held (k.state ▸ hold)
  pending := by rw [k.slot, k.state]; exact h.pending
  sampled := by rw [k.slot, k.transfer]; exact h.sampled

/-- A transaction's end (R179). -/
theorem ended (h : u.Consistent) (bs : List Byte) : PortUnit.Consistent { u with miso := bs, transfer := .idle } where
  held hold := congrArg (fun v : PortUnit => { v with miso := bs, transfer := .idle }) (h.held hold)
  pending := h.pending
  sampled := nofun

theorem closed (h : u.Consistent) : PortUnit.Consistent { u with transfer := .idle } := h.ended u.miso

/-- A response put in the slot of a port that is READY (R180). -/
theorem answered (ready : u.state = .ready) (idle : u.transfer = .idle) (r : Response) :
    PortUnit.Consistent { u with slot := .ready r } where
  held hold := nomatch ready.symm.trans hold
  pending := ⟨nofun, fun executing => nomatch ready.symm.trans executing⟩
  sampled _ _ begun := nomatch idle.symm.trans begun

/-- CS goes low: what is sampled is what the port holds (R179, R181, R188). -/
theorem opened (h : u.Consistent) : u.opened.Consistent := by
  by_cases high : u.transfer = .idle
  · rw [PortUnit.opened_high high]
    refine ⟨fun hold => ?_, h.pending, fun status slot begun => ?_⟩
    · rw [if_pos hold]
      exact congrArg (fun v : PortUnit => { v with transfer := .abandoned }) (h.held hold)
    · dsimp only at begun ⊢
      split at begun
      · cases begun
      · cases begun
        exact ⟨.inl rfl, u.statusByte_executing.trans h.pending.symm⟩
  · rw [PortUnit.opened_low high]
    exact h

/-- A slot that a fetch has emptied was not PENDING (R181). -/
theorem fetchedSlot (h : u.Consistent) (n : Nat) : u.fetchedSlot n = u.slot ∨ u.fetchedSlot n = .empty ∧ u.slot ≠ .pending := by
  unfold PortUnit.fetchedSlot
  split
  next r shown =>
    have same : u.slot = .ready r := by
      unfold PortUnit.shownSlot at shown
      split at shown
      next status slot begun =>
        obtain ⟨now | ⟨pending, -⟩, -⟩ := h.sampled status slot begun
        · exact now.symm.trans shown
        · rw [pending] at shown; cases shown
      · exact shown
      · exact shown
    split
    · exact .inr ⟨rfl, by rw [same]; nofun⟩
    · exact .inl rfl
  · exact .inl rfl
  · exact .inl rfl

theorem fetched (h : u.Consistent) (attached : u.state ≠ .resetHold) (n : Nat) : (u.fetched n).Consistent where
  held hold := absurd hold attached
  pending := by
    unfold PortUnit.fetched
    dsimp only
    obtain same | ⟨empty, busy⟩ := h.fetchedSlot n
    · rw [same]; exact h.pending
    · rw [empty]; exact ⟨nofun, fun executing => absurd (h.pending.2 executing) busy⟩
  sampled := nofun

/-- A port reset (R182). -/
theorem cleared (hold : u.state = .resetHold) : u.cleared.Consistent where
  held _ := by
    unfold PortUnit.cleared
    cases u.transfer <;> rfl
  pending := ⟨nofun, fun executing => nomatch hold.symm.trans executing⟩
  sampled status slot := fun begun => absurd begun (Transfer.broken_not_begun _ status slot)

/-- A port that comes out of RESET_HOLD holds nothing (R178, R182). -/
theorem readied (h : u.Consistent) (hold : u.state = .resetHold) : PortUnit.Consistent { u with state := .ready } where
  held := nofun
  pending := ⟨fun pending => (nomatch hold.symm.trans (h.pending.1 pending)), nofun⟩
  sampled status slot := fun begun => by
    have broken : u.transfer = u.transfer.broken := congrArg PortUnit.transfer (h.held hold).symm
    exact absurd (broken.symm.trans begun) (Transfer.broken_not_begun _ status slot)

/-- The end of the walk of a port (R175). -/
theorem walkEnded (h : u.Consistent) (executing : u.state = .executing) (r : Response) :
    PortUnit.Consistent { u with slot := .ready r, state := .ready } where
  held := nofun
  pending := ⟨nofun, nofun⟩
  sampled status slot := fun begun => by
    obtain ⟨same, bit⟩ := h.sampled status slot begun
    have pending : slot = .pending := by
      obtain now | ⟨pending, -⟩ := same
      · exact now.trans (h.pending.2 executing)
      · exact pending
    exact ⟨.inr ⟨pending, nofun⟩, bit⟩

end PortUnit.Consistent

/-! ## The ports together -/

/-- A block answers with the ports as they should be, and leaves its own port READY where it has a response for it. -/
structure Served (p : Port) (x : State × Option Response) : Prop where
  sound : PortsSound x.1
  ready : x.2.isSome = true → (x.1.port p).state = .ready ∧ (x.1.port p).transfer = .idle

namespace PortsSound

variable {s t : State}

theorem steady (h : PortsSound s) (k : Steady s t) : PortsSound t where
  units p := (h.units p).steady (k.ports p)
  holder p holds := by
    rw [(k.ports p).state]
    obtain before | attached := k.holder p holds
    · exact h.holder p before
    · exact State.attached_iff.1 attached
  walk p := by rw [(k.ports p).state, k.walk]; exact h.walk p
  resting off p := by rw [(k.ports p).state]; exact h.resting (k.running ▸ off) p

/-- A change that the ports, the walk and the authority do not see, and that does not stop the part. -/
theorem of_same (h : PortsSound s) (ports : t.ports = s.ports) (digest : t.digest = s.digest)
    (authority : t.authority = s.authority) (resting : t.running = false → s.running = false) : PortsSound t := by
  have port : ∀ p, t.port p = s.port p := fun p => by unfold State.port; rw [ports]
  exact ⟨fun p => port p ▸ h.units p, fun p holds => port p ▸ h.holder p (authority ▸ holds),
    fun p => by rw [port p, digest]; exact h.walk p, fun off p => port p ▸ h.resting (resting off) p⟩

theorem setPort (h : PortsSound s) {p : Port} {x : PortUnit} (unit : x.Consistent) (state : x.state = (s.port p).state) :
    PortsSound (s.setPort p x) := by
  have states : ∀ q, ((s.setPort p x).port q).state = (s.port q).state := fun q => by
    rw [State.port_setPort]
    split
    next e => rw [state, e]
    · rfl
  refine ⟨fun q => ?_, fun q holds => states q ▸ h.holder q holds, fun q => states q ▸ h.walk q,
    fun off q => states q ▸ h.resting off q⟩
  rw [State.port_setPort]
  split
  · exact unit
  · exact h.units q

theorem running_of_attached (h : PortsSound s) {p : Port} (attached : (s.port p).state ≠ .resetHold) : s.running = true :=
  Bool.eq_true_of_not_eq_false fun off => attached (h.resting off p)

/-- With no walk in progress no port is EXECUTING, and with one its requester is (R172). -/
theorem executing (h : PortsSound s) {w : Walk} (walk : s.digest = some w) : (s.port w.requester).state = .executing :=
  (h.walk _).2 (by rw [walk]; rfl)

/-! ## Transactions -/

theorem shiftOut (h : PortsSound s) (p : Port) (bs : List Byte) : PortsSound (s.shiftOut p bs) :=
  h.setPort ((h.units p).ended bs) rfl

theorem setSlot (h : PortsSound s) {p : Port} (ready : (s.port p).state = .ready) (idle : (s.port p).transfer = .idle)
    (r : Response) : PortsSound (s.setSlot p (.ready r)) := h.setPort (.answered ready idle r) rfl

theorem fetchAt (h : PortsSound s) (p : Port) (n : Nat) : PortsSound (s.fetchAt p n) := by
  have attached : (s.port p).hears ≠ .resetHold → PortsSound (s.setPort p ((s.port p).fetched n)) := fun hears =>
    h.setPort ((h.units p).fetched (PortUnit.state_of_hears hears) n) rfl
  unfold State.fetchAt
  split
  · refine h.setPort (h.units p).opened ?_
    unfold PortUnit.opened
    cases (s.port p).transfer <;> cases (s.port p).state <;> rfl
  · split
    next => exact h.shiftOut ..
    next e => exact attached (by rw [e]; nofun)
    next e => exact attached (by rw [e]; nofun)

/-- The port of a transaction that has ended at a port which hears it. -/
theorem shifted_ready {p : Port} (hears : (s.port p).hears = .ready) (bs : List Byte) :
    ((s.shiftOut p bs).port p).state = .ready ∧ ((s.shiftOut p bs).port p).transfer = .idle := by
  have ready := PortUnit.state_of_hears_ready hears
  rw [State.port_shiftOut, if_pos rfl]
  exact ⟨ready, rfl⟩

theorem refuseFrame (h : PortsSound s) (p : Port) (n : Nat) (x : Status) : PortsSound (s.refuseFrame p n x) := by
  unfold State.refuseFrame
  split
  · exact h.shiftOut ..
  · exact h.shiftOut ..
  next hears =>
    obtain ⟨ready, idle⟩ := shifted_ready hears ((s.port p).requestMiso n)
    exact (h.shiftOut ..).setSlot ready idle _

/-- A request, where its block serves every READY port whose transaction is over (R178 to R180). -/
theorem request (h : PortsSound s) (p : Port) (n : Nat) {block : State → State × Option Response}
    (serves : ∀ u, PortsSound u → (u.port p).state = .ready → (u.port p).transfer = .idle → Served p (block u)) :
    PortsSound (s.request p n block) := by
  unfold State.request
  split
  · exact h.shiftOut ..
  · exact h.shiftOut ..
  next hears =>
    obtain ⟨ready, idle⟩ := shifted_ready hears ((s.port p).requestMiso (n + 3))
    have served := serves _ (h.shiftOut p ((s.port p).requestMiso (n + 3))) ready idle
    split <;> rename_i e <;> rw [e] at served
    · obtain ⟨ready', idle'⟩ := served.ready rfl
      exact served.sound.setSlot ready' idle' _
    · exact served.sound

/-- A block that leaves the ports steady serves its port. -/
theorem served (h : PortsSound s) {p : Port} (ready : (s.port p).state = .ready) (idle : (s.port p).transfer = .idle)
    {x : State × Option Response} (k : Steady s x.1) : Served p x :=
  ⟨h.steady k, fun _ => ⟨(k.ports p).state.trans ready, (k.ports p).transfer.trans idle⟩⟩

/-! ## The walk (R172, R175) -/

theorem beginWalk (h : PortsSound s) {p : Port} (ready : (s.port p).state = .ready) (idle : (s.port p).transfer = .idle)
    (none : s.digest = none) (sc : Scope) (ct : Content) : PortsSound (s.beginWalk p sc ct).1 := by
  have port : ∀ q, (s.beginWalk p sc ct).1.port q =
      if q = p then { s.port p with state := .executing, slot := .pending } else s.port q := fun q =>
    State.port_setPort _ p q _
  have walk : (s.beginWalk p sc ct).1.digest.map Walk.requester = some p := rfl
  have running : (s.beginWalk p sc ct).1.running = true := h.running_of_attached (p := p) (by rw [ready]; nofun)
  refine ⟨fun q => ?_, fun q holds => ?_, fun q => ?_, fun off => nomatch running.symm.trans off⟩ <;> rw [port q] <;> split
  · exact ⟨nofun, ⟨fun _ => rfl, fun _ => rfl⟩, fun _ _ begun => nomatch idle.symm.trans begun⟩
  · exact h.units q
  · nofun
  · exact h.holder q holds
  next e => rw [walk, e]; exact ⟨fun _ => rfl, fun _ => rfl⟩
  next e =>
    rw [walk, h.walk q, none]
    exact ⟨nofun, fun same => absurd (Option.some.inj same).symm e⟩

theorem blockDigest (h : PortsSound s) {p : Port} (ready : (s.port p).state = .ready) (idle : (s.port p).transfer = .idle)
    (scope content : Byte) : Served p (blockDigest p scope content s) := by
  have refused : Served p (s.refuse .badArg) := h.served ready idle (.refl s)
  unfold Sys2Proof.Machine.blockDigest
  split
  next sc ct _ _ =>
    split
    next => exact h.served ready idle (.refl s)
    next free => exact ⟨h.beginWalk ready idle (Option.not_isSome_iff_eq_none.1 free) sc ct, nofun⟩
  · exact refused
  · exact refused

theorem endWalk (h : PortsSound s) {w v : Walk} (walk : s.digest = some w) (same : v.requester = w.requester) :
    PortsSound (s.endWalk v) := by
  have executing := same ▸ h.executing walk
  have port : ∀ q, (s.endWalk v).port q = if q = v.requester then
      { s.port v.requester with slot := .ready (s.walkResponse v), state := .ready } else s.port q := fun q =>
    State.port_setPort _ _ q _
  have running : (s.endWalk v).running = true := h.running_of_attached (p := v.requester) (by rw [executing]; nofun)
  refine ⟨fun q => ?_, fun q holds => ?_, fun q => ?_, fun off => nomatch running.symm.trans off⟩ <;> rw [port q] <;> split
  · exact (h.units _).walkEnded executing _
  · exact h.units q
  · nofun
  · exact h.holder q holds
  · exact ⟨nofun, nofun⟩
  next e =>
    rw [h.walk q, walk]
    exact ⟨fun k => absurd (same.trans (Option.some.inj k)).symm e, nofun⟩

/-- A walk in progress replaced by one of the same requester. -/
theorem withWalk (h : PortsSound s) {w v : Walk} (walk : s.digest = some w) (same : v.requester = w.requester) :
    PortsSound { s with digest := some v } :=
  h.steady ⟨fun _ => .refl _, by rw [walk, Option.map_some, Option.map_some, same], fun _ => .inl, rfl⟩

theorem examineNext (h : PortsSound s) : PortsSound s.examineNext := by
  unfold State.examineNext
  split
  next w walk =>
    split
    · split
      next more =>
        have same : (w.examined (s.entry ⟨w.nextIndex, more⟩).body).requester = w.requester := by
          unfold Walk.examined
          split
          · split <;> rfl
          · rfl
        unfold State.storeWalk
        split
        · exact h.withWalk walk same
        · exact h.endWalk walk same
      · exact h
    · exact h
  · exact h

/-! ## Time passes -/

theorem takeDue (h : PortsSound s) (d : DueEvent) : PortsSound (s.takeDue d) := by
  cases d with
  | pulseEnd l => exact h.steady ((Steady.refl s).next (s.endPulse_only l))
  | holdExpiry l => exact h.steady ((Steady.refl s).expireHold l)
  | overflow c => exact h.steady ((Steady.refl s).overflowMeasure c)
  | edge c => exact h.steady ((Steady.refl s).takeEdge c)
  | windowEnd => exact h.steady (Steady.refl s).endWindow
  | loss => exact h.steady (Steady.refl s).takeLoss
  | examine => exact h.examineNext
  | firing => exact h.steady (Steady.refl s).fireOne

theorem takeDues (h : PortsSound s) (l : List DueEvent) : PortsSound (l.foldl State.takeDue s) :=
  foldl_keeps (P := PortsSound) (fun _ d k => k.takeDue d) l s h

theorem runMicro (h : PortsSound s) (first : List DueEvent) (fires : Bool) : PortsSound (s.runMicro first fires) := by
  have settled : PortsSound s.settle := (h.steady (Steady.refl s).fireUnfired).takeDues dueOrder
  exact ((settled.steady (Steady.refl _).countTimers).takeDues first).steady ((Steady.refl _).timebaseMicro fires)

theorem micro (h : PortsSound s) (first : List DueEvent) (fires : Bool) : PortsSound (s.micro first fires) := by
  cases running : s.running with
  | true => rw [State.micro, if_pos running]; exact h.runMicro first fires
  | false => exact h.steady ((Steady.refl s).next (State.micro_resting running first fires))

theorem finishAdvance (h : PortsSound s) (first : List DueEvent) : PortsSound (s.finishAdvance first) :=
  iteInduction (fun _ => (h.takeDues first).steady (Steady.refl _).fireUnfired) fun _ => h

end PortsSound

/-! ## A port that gives everything up (R182) -/

theorem State.giveUp_steady (s : State) (p : Port) : Steady s (s.giveUp p) := by
  have freed : Steady s (s.freeEntriesOf p) := .foldl (fun _ i k => (k.vacate i).ite k) _ (.refl s)
  have released := ((freed.next (State.releaseLines_only _ p)).next (State.releaseChannels_only _ p)).endGone s
  have dropped := released.next (State.dropSubs_only _ p)
  exact (dropped.changeHolder (new := none) nofun none).ite dropped

theorem State.giveUp_holder (s : State) (p : Port) : (s.giveUp p).authority.holder ≠ some p := by
  unfold State.giveUp State.releaseAuthorityOf
  split
  · rw [State.changeHolder_authority]; nofun
  · assumption

/-- A walk of another port is not abandoned (R176). -/
theorem State.abandonWalk_other {s : State} {p : Port} (other : s.digest.map Walk.requester ≠ some p) :
    s.abandonWalk p = s := by
  unfold State.abandonWalk
  cases walk : s.digest with
  | none => rfl
  | some w => exact if_neg fun own => other (by rw [walk, ← own]; rfl)

/-- A port whose walk is abandoned is no requester of one (R176). -/
theorem State.abandonWalk_requester (s : State) (p q : Port) :
    (s.abandonWalk p).digest.map Walk.requester = some q ↔ s.digest.map Walk.requester = some q ∧ q ≠ p := by
  unfold State.abandonWalk
  cases walk : s.digest with
  | none => simp [walk]
  | some w =>
    dsimp only
    split
    next own => simp only [Option.map_none, Option.map_some, Option.some.injEq]; grind
    next other => simp only [walk, Option.map_some, Option.some.injEq]; grind

namespace PortsSound

variable {s t : State}

/-- A port reset leaves the port in RESET_HOLD with nothing, its walk abandoned, and the other ports as they should be. -/
theorem portGone (h : PortsSound s) (running : s.running = true) (p : Port) :
    PortsSound (s.portGone p) ∧ ((s.portGone p).port p).state = .resetHold := by
  set v := s.setPortState p .resetHold with hv
  have gone := v.giveUp_steady p
  set w := v.giveUp p with hw
  have before : ∀ q, v.port q = if q = p then { s.port p with state := .resetHold } else s.port q := fun q =>
    s.port_setPort p q _
  have hold : (w.port p).state = .resetHold := by rw [(gone.ports p).state, before, if_pos rfl]
  have own : (s.portGone p).port p = (w.port p).cleared := by
    change ((w.abandonWalk p).setPort p ((w.abandonWalk p).port p).cleared).port p = _
    rw [State.port_setPort, if_pos rfl, (State.abandonWalk_only ..).port]
  have other : ∀ q, q ≠ p → (s.port q).Steady ((s.portGone p).port q) := fun q hq => by
    change (s.port q).Steady (((w.abandonWalk p).setPort p ((w.abandonWalk p).port p).cleared).port q)
    have same := gone.ports q
    rw [before, if_neg hq] at same
    rw [State.port_setPort, if_neg hq, (State.abandonWalk_only ..).port]
    exact same
  have holder : (s.portGone p).authority = w.authority := (w.abandonWalk_only p).authority
  have walk : ∀ q, (s.portGone p).digest.map Walk.requester = some q ↔ s.digest.map Walk.requester = some q ∧ q ≠ p := fun q => by
    change (w.abandonWalk p).digest.map Walk.requester = some q ↔ _
    rw [State.abandonWalk_requester, gone.walk]
    rfl
  have runs : (s.portGone p).running = true := (State.portGone_only s p).running.trans running
  refine ⟨⟨fun q => ?_, fun q holds => ?_, fun q => ?_, fun off => nomatch runs.symm.trans off⟩, by rw [own]; exact hold⟩
  · by_cases e : q = p
    · subst e; rw [own]; exact .cleared hold
    · exact (h.units q).steady (other q e)
  · rw [holder] at holds
    have e : q ≠ p := fun e => v.giveUp_holder p (holds.trans (congrArg some e))
    rw [(other q e).state]
    obtain given | attached := gone.holder q holds
    · exact h.holder q given
    · rw [State.attached_iff, before, if_neg e] at attached
      exact attached
  · rw [walk]
    by_cases e : q = p
    · subst e
      rw [own]
      exact ⟨fun executing => (nomatch hold.symm.trans executing), fun k => absurd rfl k.2⟩
    · rw [(other q e).state, h.walk q]
      exact ⟨fun k => ⟨k, e⟩, fun k => k.1⟩

/-- A port comes out of RESET_HOLD on a part that runs, with the cause of it (R178, R183). -/
theorem readied (h : PortsSound s) (running : s.running = true) {p : Port} (hold : (s.port p).state = .resetHold)
    (c : ResetCause) : PortsSound ((s.setPortState p .ready).addCauseAt p c) := by
  have ready : ((s.setPortState p .ready).port p).state = .ready := by
    unfold State.setPortState
    rw [State.port_setPort, if_pos rfl]
  refine PortsSound.steady ?_ (.ownPort ready rfl rfl rfl)
  unfold State.setPortState
  refine ⟨fun q => ?_, fun q holds => ?_, fun q => ?_, fun off => nomatch running.symm.trans off⟩ <;>
    rw [State.port_setPort] <;> split
  · exact (h.units p).readied hold
  · exact h.units q
  · nofun
  · exact h.holder q holds
  next e =>
    subst e
    refine ⟨nofun, fun k => ?_⟩
    rw [(h.walk q).2 k] at hold
    cases hold
  · exact h.walk q

/-- DETACH: everything is given up as in a port reset, and the port is READY again (R182). -/
theorem detached (h : PortsSound s) {p : Port} (ready : (s.port p).state = .ready) :
    PortsSound ((s.detached p).addCauseAt p .detach) := by
  have running := h.running_of_attached (p := p) (by rw [ready]; nofun)
  obtain ⟨gone, hold⟩ := h.portGone running p
  have other : ((s.setPortState p .resetHold).giveUp p).digest.map Walk.requester ≠ some p := fun own => by
    rw [((s.setPortState p .resetHold).giveUp_steady p).walk] at own
    cases ((h.walk p).2 own).symm.trans ready
  have same : s.detached p = (s.portGone p).setPortState p .ready := by
    unfold State.detached State.portGone
    rw [State.abandonWalk_other other]
  rw [same]
  exact gone.readied ((State.portGone_only s p).running.trans running) hold .detach

end PortsSound

end Sys2Proof.Machine
end

section
/-! Every step keeps the ports consistent: the resets, and then command by command. -/

namespace Sys2Proof.Machine

namespace PortsSound

variable {s t : State}

/-! ## The resets (R21, R178, R185) -/

/-- The main domain in reset: every port is in RESET_HOLD with nothing (log 9). -/
theorem of_held (h : HeldInReset t) : PortsSound t := by
  have state : ∀ p, (t.port p).state = .resetHold := fun p => by rw [h.ports p]
  refine ⟨fun p => ⟨fun _ => ?_, ?_, fun status slot begun => ?_⟩, fun p holds => ?_, fun p => ?_, fun _ => state⟩
  · have broken : (t.port p).transfer.broken = (t.port p).transfer := by
      obtain idle | abandoned := h.broken p
      · rw [idle]; rfl
      · rw [abandoned]; rfl
    have unit := h.ports p
    generalize t.port p = u at unit broken ⊢
    unfold PortUnit.cleared
    rw [broken, unit]
  · rw [h.ports p]; exact ⟨nofun, nofun⟩
  · obtain idle | abandoned := h.broken p
    · cases idle.symm.trans begun
    · cases abandoned.symm.trans begun
  · rw [h.authority] at holds; cases holds
  · rw [state p, h.digest]; exact ⟨nofun, nofun⟩

/-- The part leaves reset with no walk in progress: a port is READY or in RESET_HOLD, and the holder is an attached one
(R39, R185). -/
theorem leaveReset (running : s.running = true) (walk : s.digest = none) (straps : BitVec 3) :
    PortsSound (s.leaveReset straps) := by
  have only := s.leaveReset_only straps
  refine ⟨fun p => ?_, fun p holds => ?_, fun p => ?_, fun off => nomatch (only.running.trans running).symm.trans off⟩
  · rw [State.port_leaveReset]
    refine ⟨fun hold => ?_, ⟨nofun, fun executing => ?_⟩, fun status slot begun => ?_⟩
    · dsimp only at hold
      have low : ¬ s.pins.prst.get p = .high := fun high => by rw [if_pos high] at hold; cases hold
      unfold PortUnit.cleared
      dsimp only
      rw [if_neg (show ¬ (s.pins.prst.get p = .high ∧ s.backup.rangeHeld = true) from fun k => low k.1)]
      cases (s.port p).transfer <;> rfl
    · dsimp only at executing
      split at executing <;> cases executing
    · exact absurd begun (Transfer.broken_not_begun _ status slot)
  · rw [State.leaveReset_authority] at holds
    have attached : s.leaveChannels.leavePorts.attached p = true := by
      dsimp only at holds
      unfold State.strapHolder at holds
      split at holds
      · split at holds
        next attached => cases holds; exact attached
        · cases holds
      · cases holds
    rw [State.attached_leavePorts] at attached
    rw [State.port_leaveReset, if_pos (of_decide_eq_true attached)]
    nofun
  · rw [only.digest, walk, State.port_leaveReset]
    dsimp only
    split <;> exact ⟨nofun, nofun⟩

theorem powerOn (s : State) (straps : BitVec 3) (causes : BitVec 5) : PortsSound (s.powerOn straps causes) := by
  set up : State := { s.resetMain with pins := { s.pins with mainSupply := true }, leaveCauses := causes } with hup
  have changed : OnlyChanges [.pins, .leaveCauses] s.resetMain up :=
    ⟨fun q hq => by cases q <;> first | rfl | exact absurd (by decide) hq⟩
  refine iteInduction (fun _ => of_held (s.resetMain_held.of_only changed)) fun free => ?_
  exact leaveReset (s := up) ((State.running_iff _).2 ⟨rfl, Bool.eq_false_iff.2 free⟩) rfl straps

/-- No walk is in progress on a part that does not run (R177; log 9). -/
theorem no_walk (h : PortsSound s) (off : s.running = false) : s.digest = none := by
  cases walk : s.digest with
  | none => rfl
  | some w => exact absurd ((h.executing walk).symm.trans (h.resting off _)) nofun

end PortsSound

/-! ## Every command -/

/-- Every command but a transaction's bytes keeps the ports as they should be: most leave them steady, and those that take a
port from one state to another do it by their own lemmas. -/
theorem exec_portsSound_proper (i : Instr) (s t : State) (proper : ∀ p bs inc, i ≠ .badRequest p bs inc)
    (h : exec i s = .next t) (sound : PortsSound s) : PortsSound t := by
  have asked : ∀ {p n block}, (∀ u, (u.port p).state = .ready → Steady u (block u).1) → PortsSound (s.request p n block) :=
    fun keeps => sound.request _ _ fun u hu ready idle => hu.served ready idle (keeps u ready)
  have alone : ∀ {p n block ps}, (∀ u, OnlyChanges ps u (block u).1) →
      (Part.ports ∉ ps ∧ Part.digest ∉ ps ∧ Part.authority ∉ ps ∧ Part.pins ∉ ps) → PortsSound (s.request p n block) :=
    fun only n => asked fun u _ => (Steady.refl u).next (only u) n
  cases i
  case badRequest p bs inc => exact absurd rfl (proper p bs inc)
  case claimAuthority p key =>
    cases h; exact asked fun u ready => blockClaimAuthority_steady p key (State.attached_iff.2 (by rw [ready]; nofun))
  case releaseAuthority p => cases h; exact asked fun u _ => blockReleaseAuthority_steady p
  case setKey p key => cases h; exact alone (blockSetKey_only p key) (by decide)
  case setTime p sec us => cases h; exact asked fun u _ => blockSetTime_steady p sec us
  case step p amount => cases h; exact asked fun u _ => blockStep_steady p amount
  case slew p amount => cases h; exact asked fun u _ => blockSlew_steady p amount
  case cancelAdjust p => cases h; exact asked fun u _ => blockCancelAdjust_steady p
  case selectSource p v => cases h; exact alone (blockSelectSource_only p v) (by decide)
  case resumeReference p => cases h; exact asked fun u _ => blockResumeReference_steady p
  case clearBackup p => cases h; exact asked fun u _ => blockClearBackup_steady p
  case armEntry p f => cases h; exact asked fun u _ => blockArmEntry_steady p f
  case retimeEntry p index inst d late => cases h; exact asked fun u _ => blockRetimeEntry_steady p index inst d late
  case holdEntry p index inst => cases h; exact asked fun u _ => blockHoldEntry_steady p index inst
  case unholdEntry p index inst => cases h; exact asked fun u _ => blockUnholdEntry_steady p index inst
  case cancelEntry p index inst => cases h; exact asked fun u _ => blockCancelEntry_steady p index inst
  case readEntry p index inst => cases h; exact alone (blockReadEntry_only index inst) (by decide)
  case listEntries p sc start => cases h; exact alone (blockListEntries_only p sc start) (by decide)
  case setQuota p target quota => cases h; exact alone (blockSetQuota_only p target quota) (by decide)
  case digest p sc ct => cases h; exact sound.request _ _ fun u hu ready idle => hu.blockDigest ready idle sc ct
  case claimLine p l => cases h; exact alone (blockClaimLine_only p l) (by decide)
  case releaseLine p l => cases h; exact alone (blockReleaseLine_only p l) (by decide)
  case pinLine p l => cases h; exact alone (blockPinLine_only p l) (by decide)
  case configureLine p l idle w x => cases h; exact alone (blockConfigureLine_only p l idle w x) (by decide)
  case driveLine p l a => cases h; exact alone (blockDriveLine_only p l a) (by decide)
  case readLine p l => cases h; exact alone (blockReadLine_only l) (by decide)
  case claimChannel p c => cases h; exact alone (blockClaimChannel_only p c) (by decide)
  case releaseChannel p c => cases h; exact asked fun u _ => blockReleaseChannel_steady p c
  case shareChannel p c flag => cases h; exact asked fun u _ => blockShareChannel_steady p c flag
  case configureChannel p c m e src l => cases h; exact alone (blockConfigureChannel_only p c m e src l) (by decide)
  case startChannel p c => cases h; exact alone (blockStartChannel_only p c) (by decide)
  case stopChannel p c => cases h; exact alone (blockStopChannel_only p c) (by decide)
  case setReload p c reload => cases h; exact alone (blockSetReload_only p c reload) (by decide)
  case readChannel p c => cases h; exact alone (blockReadChannel_only c) (by decide)
  case subscribe p k a b ks l => cases h; exact alone (blockSubscribe_only p k a b ks l) (by decide)
  case unsubscribe p index => cases h; exact alone (blockUnsubscribe_only p index) (by decide)
  case takeRecord p => cases h; exact asked fun u ready => blockTakeRecord_steady ready
  case ackConditions p c => cases h; exact asked fun u ready => blockAckConditions_steady ready c
  case setMask p m => cases h; exact asked fun u ready => blockSetMask_steady ready m
  case readResetCause p => cases h; exact asked fun u ready => blockReadResetCause_steady ready
  case readTime | readCalendar | readAdjust | readClock | readConditions | identify =>
    cases h; exact asked fun u _ => .refl u
  case detach p =>
    cases h
    exact sound.request _ _ fun u hu ready _ => ⟨hu.detached ready, nofun⟩
  case fetch p n => cases h; exact sound.fetchAt p n
  case portReset p =>
    cases h
    have low : PortsSound (s.setPrst p .low) := sound.of_same rfl rfl rfl id
    refine iteInduction (fun on => (low.portGone ?_ p).1) fun _ => low
    exact (Bool.and_eq_true_iff.1 on).1
  case portLeavesResetHold p =>
    cases h
    have high : PortsSound (s.setPrst p .high) := sound.of_same rfl rfl rfl id
    refine iteInduction (fun on => ?_) fun _ => high
    obtain ⟨running, unattached⟩ := Bool.and_eq_true_iff.1 on
    have hold : (s.port p).state = .resetHold := Classical.byContradiction fun attached => by
      rw [State.attached_iff.2 attached] at unattached; cases unattached
    exact high.readied running hold .portReset
  case deviceReset =>
    cases h
    refine iteInduction (fun _ => .of_held s.takeReset_held.1) fun off => sound.of_same rfl rfl rfl fun _ => ?_
    exact Bool.eq_false_iff.2 off
  case partLeavesReset straps =>
    cases h
    refine iteInduction (fun reset => ?_) fun _ => sound
    have off : s.running = false := by unfold State.running; rw [reset]; simp
    refine iteInduction (fun main => ?_) fun _ => sound.of_same rfl rfl rfl fun _ => off
    exact .leaveReset (s := s.holdReset false) ((State.running_iff _).2 ⟨main, rfl⟩) (sound.no_walk off) straps
  case powerOnRetained straps => cases h; exact iteInduction (fun _ => .powerOn ..) fun _ => sound
  case powerOnBackupLost straps => cases h; exact iteInduction (fun _ => .powerOn ..) fun _ => sound
  case mainSupplyLoss => cases h; exact iteInduction (fun _ => .of_held s.losePower_held.1) fun _ => sound
  case backupSupplyLoss =>
    cases h; exact iteInduction (fun _ => sound.of_same rfl rfl rfl id) fun _ => sound.of_same rfl rfl rfl id
  case backupSupplyReturn =>
    cases h; exact iteInduction (fun _ => sound.of_same rfl rfl rfl id) fun _ => sound.of_same rfl rfl rfl id
  case timebaseAdvance part =>
    cases h
    cases part with
    | whole first | count first => exact sound.micro ..
    | firings first => exact sound.finishAdvance first
  case slewBlockEnd part | slewEnd part =>
    cases h
    cases part with
    | whole first | count first => exact iteInduction (fun _ => sound.runMicro ..) fun _ => sound
    | firings first => exact sound.finishAdvance first
  case referenceEdge gap => cases h; exact sound.steady (((Steady.refl s).takeReferenceEdge gap).ite (.refl s))
  case windowEnd => cases h; exact sound.steady ((Steady.refl s).endWindow.ite (.refl s))
  case referenceLoss => cases h; exact sound.steady ((Steady.refl s).loseReference.ite (.refl s))
  case pulseEnd l => cases h; exact sound.steady (((Steady.refl s).next (s.endPulse_only l)).ite (.refl s))
  case holdExpiry l => cases h; exact sound.steady (((Steady.refl s).expireHold l).ite (.refl s))
  case capturePinChange c x =>
    cases h
    exact iteInduction (fun _ => sound.steady ((Steady.refl s).filterRaw c x)) fun _ => sound.of_same rfl rfl rfl id
  case edgeTaken c => cases h; exact sound.steady (((Steady.refl s).takeEdge c).ite (.refl s))
  case measurementOverflow c => cases h; exact sound.steady (((Steady.refl s).overflowMeasure c).ite (.refl s))
  case counterExpiry c => cases h; exact sound.steady (((Steady.refl s).countEvent c).ite (.refl s))
  case digestExamineIndex => cases h; exact iteInduction (fun _ => sound.examineNext) fun _ => sound

/-- Every command keeps the ports as they should be: a transaction's bytes end it, refuse it, fetch, or run the request
that they spell (R180). -/
theorem exec_portsSound {i : Instr} {s t : State} (h : exec i s = .next t) (sound : PortsSound s) : PortsSound t := by
  by_cases frame : ∃ p bs inc, i = .badRequest p bs inc
  · obtain ⟨p, bs, inc, rfl⟩ := frame
    change s.transact p bs.length (decodeFrame p bs inc) = .next t at h
    cases e : decodeFrame p bs inc <;> rw [e] at h
    case nothing => cases h; exact sound.setPort (sound.units p).closed rfl
    case fetch k => cases h; exact sound.fetchAt p k
    case frameError | badRequest | badArg => cases h; exact sound.refuseFrame ..
    case request i =>
      obtain same | ⟨run, proper, -⟩ := dispatchRequest_cases i s
      · cases same.symm.trans h; exact sound
      · exact exec_portsSound_proper i s t proper (run.symm.trans h) sound
  · exact exec_portsSound_proper i s t (fun p bs inc e => frame ⟨p, bs, inc, e⟩) h sound

/-- Settles O54, by the property of each port unit, and that the ports agree with the walk, the holder and the pins. -/
theorem stepsKeepPortsConsistent : Obligations.StepsKeepPortsConsistent := by
  intro s t ports h
  rw [portsConsistent_iff] at ports ⊢
  exact step_keeps (P := PortsSound) (Q := fun _ => True) (fun _ _ k => k.of_same rfl rfl rfl id) (fun _ _ k => k)
    (fun _ _ _ h _ => exec_portsSound h) h trivial ports

end Sys2Proof.Machine
end

section
/-! What CLAIM_AUTHORITY, RELEASE_AUTHORITY, SET_KEY and CANCEL_ADJUST answer and leave (R41 to R44, R55, R56). -/

namespace Sys2Proof.Machine

/-! ## A request whose block reaches the ports -/

/-- Copies are stored whatever the slot holds. -/
theorem PortUnit.storesIf_slot (u : PortUnit) (a : Bool) (rs : List (Nat × Record)) (x : Slot) :
    { u.storesIf a rs with slot := x } = PortUnit.storesIf a rs { u with slot := x } := by
  have stored : ∀ u : PortUnit, { u.stores rs with slot := x } = PortUnit.stores rs { u with slot := x } := by
    induction rs with
    | nil => exact fun u => rfl
    | cons c cs ih =>
      intro u
      refine (ih (u.storeCopy { level := c.1, gap := false, record := c.2 })).trans ?_
      rw [PortUnit.storeCopy_slot]
      rfl
  cases a with
  | false => rfl
  | true => exact stored u

/-- The ports after a request, where its block changes each port by a function that does not see the slot, and then answers. -/
theorem State.port_request {s t : State} {p : Port} {n : Nat} {F : Port → PortUnit → PortUnit}
    (ports : ∀ q, t.port q = F q ((s.shiftOut p ((s.port p).requestMiso (n + 3))).port q))
    (slot : ∀ v x, { F p v with slot := x } = F p { v with slot := x }) (r : Response) (q : Port) :
    (t.setSlot p (.ready r)).port q = F q (if q = p then (s.port p).replied n r else s.port q) := by
  rw [State.port_setSlot]
  by_cases e : q = p
  · subst e
    rw [if_pos rfl, if_pos rfl, ports, slot, s.port_shiftOut, if_pos rfl, PortUnit.replied_eq]
  · rw [if_neg e, if_neg e, ports, s.port_shiftOut, if_neg e]

/-- The key field of a request that is in form (R187). -/
theorem OptField.read_of_wellFormed {n : Nat} {k : OptField n} (h : k.wellFormed = true) :
    OptField.read k = some (if k.presence = 1 then some k.value else none) := by
  unfold OptField.wellFormed at h
  unfold OptField.read
  split
  next absent => rw [if_neg (by rw [absent]; decide)]
  next present =>
    have one : k.presence = 1 := by
      rw [Bool.or_eq_true, Bool.and_eq_true, beq_iff_eq, beq_iff_eq] at h
      exact h.resolve_right fun k => present k.1
    rw [if_pos one, if_pos one]

/-! ## CLAIM_AUTHORITY (R41, R42) -/

/-- What a claim that is granted, or transferred from the holder, does from s to t (R41, R42). -/
def TakesAuthority (p : Port) (s t : State) : Prop :=
  OnlyChanges [.slew, .authority, .ports] s t ∧ t.slew = s.discardSlew ∧
    t.authority = { s.authority with holder := some p, active := none, waiting := none, report := s.discardReport } ∧
    ∀ q, t.port q =
      let u := if q = p then (s.port p).replied 9
        { status := .ok, fields := [1, byteOf p.val, 1, 1] ++ s.stamp.bytes } else s.port q
      let v := u.storesIf (decide (s.authority.holder = some q) && s.attached q) s.discardRecords
      let w := v.raisedIf (s.attached q) .authorityChanged
      w.raisedIf (decide (q = p) && decide (s.backup.quality = .holdover) && decide (s.monitor.state = .refGood)) .refReady

theorem State.claimAnswer_unchanged (s : State) {p : Port} (holder : s.authority.holder = some p) :
    s.claimAnswer false = s.answer .ok ([1, byteOf p.val, 0] ++ List.replicate 11 0) := by
  unfold State.claimAnswer
  rw [holder, optPort_eq]
  rfl

theorem State.claimAnswer_changed (s : State) (p : Port) (dest : Option Port) :
    (s.changeHolder (some p) dest).claimAnswer true =
      (s.changeHolder (some p) dest).answer .ok ([1, byteOf p.val, 1, 1] ++ s.stamp.bytes) := by
  unfold State.claimAnswer
  rw [State.changeHolder_authority, (s.changeHolder_only (some p) dest).stamp, optPort_eq]
  rfl

/-- CLAIM_AUTHORITY by the table of R41, from a state with the authority and the backup domain of s. -/
theorem blockClaimAuthority_eq {s u : State} (authority : u.authority = s.authority) (backup : u.backup = s.backup)
    (p : Port) {k : OptField 64} (formed : k.wellFormed = true) :
    blockClaimAuthority p k u = match s.authority.holder with
      | none => (u.changeHolder (some p) none).answer .ok ([1, byteOf p.val, 1, 1] ++ u.stamp.bytes)
      | some q =>
        if q = p then u.answer .ok ([1, byteOf p.val, 0] ++ List.replicate 11 0)
        else match s.backup.key with
          | none => u.refuse .authorityHeld
          | some key =>
            if (if k.presence = 1 then some k.value else none) = some key then
              (u.changeHolder (some p) (some q)).answer .ok ([1, byteOf p.val, 1, 1] ++ u.stamp.bytes)
            else u.refuse .keyMismatch := by
  unfold blockClaimAuthority
  rw [OptField.read_of_wellFormed formed]
  dsimp only
  unfold State.claim
  rw [authority, backup]
  cases holder : s.authority.holder with
  | none => exact u.claimAnswer_changed p none
  | some q =>
    dsimp only
    by_cases own : q = p
    · rw [if_pos own, if_pos own, u.claimAnswer_unchanged (p := p) (by rw [authority, holder, own])]
    · rw [if_neg own, if_neg own]
      cases s.backup.key with
      | none => rfl
      | some key =>
        dsimp only
        rw [u.claimAnswer_changed]

/-- A claim that is taken, the records of the discarded queue going to the old holder (R42). -/
theorem takesAuthority {s : State} {p : Port} (ready : Ready s p) {block : State → State × Option Response}
    (hb : block (s.shiftOut p ((s.port p).requestMiso (9 + 3))) =
      ((s.shiftOut p ((s.port p).requestMiso (9 + 3))).changeHolder (some p) s.authority.holder).answer .ok
        ([1, byteOf p.val, 1, 1] ++ s.stamp.bytes)) :
    TakesAuthority p s (s.request p 9 block) := by
  set u := s.shiftOut p ((s.port p).requestMiso (9 + 3)) with hu
  have called : ∀ q, (decide (some p = some q) && s.attached q && decide (s.backup.quality = .holdover) &&
      decide (s.monitor.state = .refGood)) =
        (decide (q = p) && decide (s.backup.quality = .holdover) && decide (s.monitor.state = .refGood)) := fun q => by
    by_cases e : q = p
    · subst e; rw [ready.attached]; simp
    · simp [e, Ne.symm e]
  refine ⟨(State.request_answered_only ready 9 hb (u.changeHolder_only ..)).mono (by decide), ?_⟩
  rw [State.request_answered ready 9 hb]
  refine ⟨u.changeHolder_slew .., u.changeHolder_authority .., fun q => ?_⟩
  rw [State.port_request (F := fun q v => ((v.storesIf (decide (s.authority.holder = some q) && s.attached q)
    s.discardRecords).raisedIf (s.attached q) .authorityChanged).raisedIf (decide (some p = some q) && s.attached q &&
      decide (s.backup.quality = .holdover) && decide (s.monitor.state = .refGood)) .refReady) (fun q => ?_) (fun v x => ?_)]
  · dsimp only
    rw [called q]
  · rw [u.port_changeHolder, s.attached_shiftOut]
    rfl
  · dsimp only
    rw [PortUnit.raisedIf_slot, PortUnit.raisedIf_slot, PortUnit.storesIf_slot]

/-- Settles O19, by the table of R41. -/
theorem claimAuthorityDecides : Obligations.ClaimAuthorityDecides := by
  intro p k s ready formed
  refine ⟨_, rfl, ?_⟩
  have block := blockClaimAuthority_eq (s := s) (u := s.shiftOut p ((s.port p).requestMiso (9 + 3))) rfl rfl p formed
  have taken := takesAuthority ready (block := blockClaimAuthority p k)
  rw [block] at taken
  change match s.authority.holder with
    | none => TakesAuthority p s _
    | some q => if q = p then Reported p 9 _ s _ else match s.backup.key with
      | none => Refused p 9 .authorityHeld s _
      | some key => if (if k.presence = 1 then some k.value else none) = some key then TakesAuthority p s _
        else Refused p 9 .keyMismatch s _
  split
  next free =>
    rw [free] at taken
    exact taken rfl
  next q held =>
    rw [held] at block taken
    dsimp only at block taken
    by_cases own : q = p
    · rw [if_pos own] at block ⊢
      exact State.request_reported ready 9 _ block
    rw [if_neg own] at block taken ⊢
    split
    next keyless =>
      rw [keyless] at block
      exact State.request_refused ready 9 _ block
    next key keyed =>
      rw [keyed] at block taken
      dsimp only at block taken
      by_cases known : (if k.presence = 1 then some k.value else none) = some key
      · rw [if_pos known] at taken ⊢
        exact taken rfl
      · rw [if_neg known] at block ⊢
        exact State.request_refused ready 9 _ block

/-! ## RELEASE_AUTHORITY and SET_KEY (R42 to R44) -/

theorem releaseAuthority_decides (p : Port) {s : State} (ready : Ready s p) :
    let t := s.request p 0 (blockReleaseAuthority p)
    if s.authority.holder ≠ some p then Refused p 0 .notAuthority s t
    else OnlyChanges [.slew, .authority, .ports] s t ∧ t.slew = s.discardSlew ∧
      t.authority = { s.authority with holder := none, active := none, waiting := none, report := s.discardReport } ∧
      ∀ q, t.port q =
        (if q = p then ((s.port p).replied 0 { status := .ok, fields := [] }).stores s.discardRecords
          else s.port q).raisedIf (s.attached q) .authorityChanged := by
  dsimp only
  set u := s.shiftOut p ((s.port p).requestMiso (0 + 3)) with hu
  by_cases holder : s.authority.holder ≠ some p
  · rw [if_pos holder]
    exact State.request_refused ready 0 _ (if_pos (decide_eq_false holder))
  rw [if_neg holder]
  have block : blockReleaseAuthority p u = (u.changeHolder none (some p)).answer .ok [] :=
    if_neg (by rw [State.isHolder, decide_eq_false_iff_not]; exact holder)
  refine ⟨(State.request_answered_only ready 0 block (u.changeHolder_only ..)).mono (by decide), ?_⟩
  rw [State.request_answered ready 0 block]
  refine ⟨u.changeHolder_slew .., u.changeHolder_authority .., fun q => ?_⟩
  rw [State.port_request (F := fun q v => (v.storesIf (decide (some p = some q) && s.attached q)
    s.discardRecords).raisedIf (s.attached q) .authorityChanged) (fun q => ?_) (fun v x => ?_)]
  · by_cases e : q = p
    · subst e
      rw [if_pos rfl, if_pos rfl, ready.attached, decide_eq_true rfl]
      rfl
    · rw [if_neg e, if_neg e, decide_eq_false fun same => e (Option.some.inj same).symm]
      rfl
  · rw [u.port_changeHolder, s.attached_shiftOut]
    rfl
  · rw [PortUnit.raisedIf_slot, PortUnit.storesIf_slot]

theorem setKey_decides (p : Port) {k : OptField 64} (formed : k.wellFormed = true) {s : State} (ready : Ready s p) :
    let t := s.request p 9 (blockSetKey p k)
    if s.authority.holder ≠ some p then Refused p 9 .notAuthority s t
    else OnlyChanges [.backup, .ports] s t ∧
      t.backup = { s.backup with key := if k.presence = 1 then some k.value else none } ∧
      Replied p 9 { status := .ok, fields := [] } s t := by
  dsimp only
  set u := s.shiftOut p ((s.port p).requestMiso (9 + 3)) with hu
  by_cases holder : s.authority.holder ≠ some p
  · rw [if_pos holder]
    exact State.request_refused ready 9 _ (if_pos (decide_eq_false holder))
  rw [if_neg holder]
  have block : blockSetKey p k u = (u.setKey (if k.presence = 1 then some k.value else none)).answer .ok [] := by
    unfold blockSetKey
    rw [if_neg (by rw [State.isHolder, decide_eq_false_iff_not]; exact holder), OptField.read_of_wellFormed formed]
  obtain ⟨only, replied⟩ := State.request_replied ready 9 block (u.setKey_only _)
  refine ⟨only.mono (by decide), ?_, replied⟩
  rw [State.request_answered ready 9 block]
  rfl

/-- Settles O20, each request in the order of its rule. -/
theorem releaseAuthorityAndSetKey : Obligations.ReleaseAuthorityAndSetKey := fun p _ _ ready formed =>
  ⟨⟨_, rfl, releaseAuthority_decides p ready⟩, ⟨_, rfl, setKey_decides p formed ready⟩⟩

/-! ## CANCEL_ADJUST (R56) -/

/-- The number of adjustments removed and the slew remaining, as CANCEL_ADJUST returns them (R56, R193). -/
theorem cancelBytes_eq (a : Authority) (remaining : Nat) :
    byteOf a.held :: optNat 3 (a.active.map fun _ => remaining) =
      byteOf (a.active.toList.length + a.waiting.toList.length) ::
        (if a.active.isSome then 1 :: bytesBE 3 remaining else [0, 0, 0, 0]) := by
  unfold Authority.held
  cases a.active <;> cases a.waiting <;> rfl

/-- Settles O24: the holder's queue is discarded, its records going to the holder. -/
theorem cancelAdjustDiscardsQueue : Obligations.CancelAdjustDiscardsQueue := by
  intro p s ready
  refine ⟨_, rfl, ?_⟩
  set u := s.shiftOut p ((s.port p).requestMiso (0 + 3)) with hu
  by_cases holder : s.authority.holder ≠ some p
  · rw [if_pos holder]
    exact State.request_refused ready 0 _ (if_pos (decide_eq_false holder))
  rw [if_neg holder, ← cancelBytes_eq]
  have block : blockCancelAdjust p u = (u.discardQueue (some p)).answer .ok
      (byteOf s.authority.held :: optNat 3 (s.authority.active.map fun _ => s.slew.remaining)) :=
    if_neg (by rw [State.isHolder, decide_eq_false_iff_not]; exact holder)
  have discarded := u.discardQueue_spec (some p)
  have ports := State.port_request (s := s) (n := 0) (p := p) (t := u.discardQueue (some p))
    (F := fun q v => v.storesIf (decide (some p = some q) && s.attached q) s.discardRecords)
    (fun q => by rw [discarded.ports q, s.attached_shiftOut]; rfl) (fun v x => PortUnit.storesIf_slot ..)
  refine ⟨(State.request_answered_only ready 0 block (u.discardQueue_only _)).mono (by decide), ?_⟩
  rw [State.request_answered ready 0 block]
  refine ⟨discarded.slew, discarded.authority, ?_, fun q hq => ?_⟩
  · rw [ports, if_pos rfl, ready.attached, decide_eq_true rfl]
    rfl
  · rw [ports, if_neg hq, decide_eq_false fun same => hq (Option.some.inj same).symm]
    rfl

end Sys2Proof.Machine
end

section
/-! SET_TIME and STEP (R48 to R51): in the order of their rules, and what a value applied at once leaves at the ports. -/

namespace Sys2Proof.Machine

/-! ## What a port keeps as records and conditions reach it -/

/-- From u to v a port has stored records and raised conditions alone: nothing but its queue, its gap mark and its
conditions has changed, and no condition is gone (R155, R160, R164). -/
structure PortUnit.Receives (u v : PortUnit) : Prop where
  state : v.state = u.state
  slot : v.slot = u.slot
  causes : v.causes = u.causes
  mask : v.mask = u.mask
  miso : v.miso = u.miso
  transfer : v.transfer = u.transfer
  holds : ∀ k, u.holds k = true → v.holds k = true

namespace PortUnit.Receives

variable {u v w : PortUnit}

theorem refl (u : PortUnit) : u.Receives u := ⟨rfl, rfl, rfl, rfl, rfl, rfl, fun _ => id⟩

theorem trans (h : u.Receives v) (k : v.Receives w) : u.Receives w where
  state := k.state.trans h.state
  slot := k.slot.trans h.slot
  causes := k.causes.trans h.causes
  mask := k.mask.trans h.mask
  miso := k.miso.trans h.miso
  transfer := k.transfer.trans h.transfer
  holds c hc := k.holds c (h.holds c hc)

end PortUnit.Receives

/-- A port holds a condition after one is raised where it held it, and where it is the one raised. -/
theorem PortUnit.holds_raise (u : PortUnit) (j k : Condition) : (u.raise k).holds j = (u.holds j || decide (j = k)) := by
  unfold PortUnit.holds PortUnit.raise addBit
  rw [BitVec.getLsbD_or]
  refine congrArg _ ?_
  cases j <;> cases k <;> rfl

theorem PortUnit.raise_receives (u : PortUnit) (k : Condition) : u.Receives (u.raise k) :=
  ⟨rfl, rfl, rfl, rfl, rfl, rfl, fun j h => by rw [PortUnit.holds_raise, h, Bool.true_or]⟩

theorem PortUnit.raisedIf_receives (u : PortUnit) (a : Bool) (k : Condition) : u.Receives (u.raisedIf a k) := by
  cases a with
  | false => exact .refl u
  | true => exact u.raise_receives k

theorem PortUnit.storeCopy_receives (u : PortUnit) (c : Copy) : u.Receives (u.storeCopy c) := by
  unfold PortUnit.storeCopy
  split
  · exact ⟨rfl, rfl, rfl, rfl, rfl, rfl, fun _ => id⟩
  · split <;> exact ⟨rfl, rfl, rfl, rfl, rfl, rfl, fun j h => by
      rw [PortUnit.holds_raise]; exact Bool.or_eq_true_iff.2 (.inl h)⟩

theorem PortUnit.storesIf_receives (u : PortUnit) (a : Bool) (rs : List (Nat × Record)) : u.Receives (u.storesIf a rs) := by
  have stored : ∀ u : PortUnit, u.Receives (u.stores rs) := by
    induction rs with
    | nil => exact .refl
    | cons c cs ih => exact fun u => (u.storeCopy_receives _).trans (ih _)
  cases a with
  | false => exact .refl u
  | true => exact stored u

/-! ## What a value applied does to the ports -/

theorem FiresInOrder.receives {late : Bool} {l : List EntryIx} {s t : State} (h : FiresInOrder late l s t) (q : Port) :
    (s.port q).Receives (t.port q) := by
  induction l generalizing s with
  | nil => rw [show t = s from h]; exact .refl _
  | cons i is ih =>
    obtain ⟨u, ⟨b, due, -, -, -, -, -, -, -, -, ports⟩, rest⟩ := h
    have first : (s.port q).Receives (u.port q) := by rw [ports q]; exact PortUnit.storesIf_receives ..
    exact first.trans (ih rest)

theorem FreedEnd.receives {s t u : State} (h : FreedEnd s t u) (q : Port) : (t.port q).Receives (u.port q) := by
  obtain ⟨-, -, ports⟩ := h
  rw [ports q]
  exact PortUnit.storesIf_receives ..

/-- What a value applied does to the table, where the count was the old one (R107, R110, R159). -/
def TableStepped (old : Nat) (s t : State) : Prop :=
  if old ≤ s.now then ∃ v, FiresInOrder true s.overdue s v ∧ FreedEnd s v t else Recomputed s t

theorem State.stepTable_tableStepped (s : State) (old : Nat) : TableStepped old s (s.stepTable old) := by
  unfold TableStepped State.stepTable
  split
  next forward =>
    have fires := s.resolutions_inOrder
    exact ⟨_, fires, State.endGone_freedEnd fun c => fires.only.channel c⟩
  next backward => exact s.stepBackward_recomputed

theorem TableStepped.receives {old : Nat} {s t : State} (h : TableStepped old s t) (q : Port) :
    (s.port q).Receives (t.port q) := by
  unfold TableStepped at h
  split at h
  next forward =>
    obtain ⟨v, fires, ended⟩ := h
    exact (fires.receives q).trans (ended.receives q)
  next backward => rw [OnlyChanges.port h.1]; exact .refl _

theorem State.raiseAll_receives (s : State) (k : Condition) (q : Port) : (s.port q).Receives ((s.raiseAll k).port q) := by
  rw [State.port_raiseAll]
  exact PortUnit.raisedIf_receives ..

/-- A condition raised at every attached port is held by each of them. -/
theorem State.holds_raiseAll {s : State} {q : Port} (attached : s.attached q = true) (k : Condition) :
    ((s.raiseAll k).port q).holds k = true := by
  rw [State.port_raiseAll, attached]
  exact (PortUnit.holds_raise ..).trans (by rw [decide_eq_true rfl, Bool.or_true])

/-- A value as the count, in a new epoch (R50). -/
def State.withValue (s : State) (v : Nat) : State :=
  { s with backup := { s.backup with count := v, rangeHeld := false, epoch := s.backup.epoch + 1 } }

/-- The quality that a set finds UNSET leaves it, and every other stays (R51). -/
def State.qualityKept (s : State) : State := if s.backup.quality = .unset then s.leaveUnset else s

/-- A value applied: the count and the quality, then the table, then TIME_STEPPED (R50, R51). -/
theorem State.applyTime_eq (s : State) (v : Nat) :
    s.applyTime v = ((s.withValue v).qualityKept.stepTable s.now).raiseAll .timeStepped := rfl

theorem State.qualityKept_receives (s : State) (q : Port) : (s.port q).Receives (s.qualityKept.port q) := by
  unfold State.qualityKept State.leaveUnset
  split
  · split
    · exact State.raiseAll_receives (s.setQuality .tracking) .trackingBegun q
    · exact .refl _
  · exact .refl _

theorem State.applyTime_receives (s : State) (v : Nat) (q : Port) : (s.port q).Receives ((s.applyTime v).port q) := by
  have kept := (s.withValue v).qualityKept_receives q
  have table := ((s.withValue v).qualityKept.stepTable_tableStepped s.now).receives q
  exact (kept.trans table).trans (State.raiseAll_receives ..)

theorem State.applyTime_holds_timeStepped {s : State} {q : Port} (attached : s.attached q = true) (v : Nat) :
    ((s.applyTime v).port q).holds .timeStepped = true := by
  have kept := (s.withValue v).qualityKept_receives q
  have table := ((s.withValue v).qualityKept.stepTable_tableStepped s.now).receives q
  rw [State.applyTime_eq]
  exact State.holds_raiseAll ((attached_of_state (kept.trans table).state).trans attached) _

/-- A set that finds the quality UNSET and the reference good begins tracking (R51). -/
theorem State.applyTime_holds_trackingBegun {s : State} (unset : s.backup.quality = .unset)
    (source : s.backup.source = .reference) (good : s.monitor.state = .refGood) {q : Port} (attached : s.attached q = true)
    (v : Nat) : ((s.applyTime v).port q).holds .trackingBegun = true := by
  have begun : ((s.withValue v).qualityKept.port q).holds .trackingBegun = true := by
    have kept : (s.withValue v).qualityKept = (s.withValue v).beginTracking :=
      (if_pos unset).trans (if_pos ⟨source, good⟩)
    rw [kept]
    exact State.holds_raiseAll (s := (s.withValue v).setQuality .tracking) attached _
  have table := ((s.withValue v).qualityKept.stepTable_tableStepped s.now).receives q
  exact (State.raiseAll_receives _ _ q).holds _ (table.holds _ begun)

/-! ## SET_TIME and STEP -/

theorem State.holds_setSlot (s : State) (p q : Port) (x : Slot) (k : Condition) :
    ((s.setSlot p x).port q).holds k = (s.port q).holds k := by
  rw [State.port_setSlot]
  split
  next e => rw [e]; rfl
  · rfl

/-- A request whose block applies a value at once (R50, R51). -/
theorem State.request_applied {s : State} {p : Port} (ready : Ready s p) {n v : Nat} {block : State → State × Option Response}
    (hb : block (s.shiftOut p ((s.port p).requestMiso (n + 3))) =
      (s.shiftOut p ((s.port p).requestMiso (n + 3))).applyAnswer (some v)) :
    Applied p n v s (s.request p n block) := by
  set u := s.shiftOut p ((s.port p).requestMiso (n + 3)) with hu
  have attached : ∀ q, s.attached q = true → u.attached q = true := fun q h => (s.attached_shiftOut ..).trans h
  have shifted : ∀ q, u.port q = _ := fun q => s.port_shiftOut p q _
  have receives := u.applyTime_receives v
  refine ⟨(State.request_answered_only ready n hb (u.applyTime_only v)).mono (by decide), ?_⟩
  rw [State.request_answered ready n hb]
  refine ⟨u.applyTime_backup v, fun q hq => ?_, fun unset source good q hq => ?_, ?_, ?_, ?_, fun q => ?_⟩
  · rw [State.holds_setSlot]
    exact State.applyTime_holds_timeStepped (attached q hq) v
  · rw [State.holds_setSlot]
    exact State.applyTime_holds_trackingBegun (s := u) unset source good (attached q hq) v
  · rw [State.port_setSlot, if_pos rfl]
    rfl
  · rw [State.port_setSlot, if_pos rfl]
    exact (receives p).miso.trans (by rw [shifted, if_pos rfl]; rfl)
  · rw [State.port_setSlot, if_pos rfl]
    exact (receives p).transfer.trans (by rw [shifted, if_pos rfl])
  · have kept := receives q
    rw [shifted] at kept
    rw [State.port_setSlot]
    by_cases e : q = p
    · subst e
      rw [if_pos rfl] at kept ⊢
      exact ⟨kept.state, kept.causes, kept.mask, fun other => absurd rfl other⟩
    · rw [if_neg e] at kept ⊢
      exact ⟨kept.state, kept.causes, kept.mask, fun _ => ⟨kept.slot, kept.transfer⟩⟩

/-- A request that its block puts behind the ACTIVE slew (R46, R47). -/
theorem State.request_queued {s : State} {p : Port} (ready : Ready s p) {n : Nat} {k : AdjustKind}
    {block : State → State × Option Response}
    (hb : block (s.shiftOut p ((s.port p).requestMiso (n + 3))) =
      (s.shiftOut p ((s.port p).requestMiso (n + 3))).queueAnswer k) :
    Queued p n k s (s.request p n block) := by
  obtain ⟨only, replied⟩ := State.request_replied ready n hb (State.enqueue_only _ k)
  refine ⟨only.mono (by decide), ?_, replied⟩
  rw [State.request_answered ready n hb]
  rfl

/-- SET_TIME in the order of R48, from a state with the authority of s. -/
theorem blockSetTime_eq {s u : State} (authority : u.authority = s.authority) (p : Port) (seconds : BitVec 32)
    (micros : BitVec 24) :
    blockSetTime p seconds micros u =
      if s.authority.holder ≠ some p then u.refuse .notAuthority
      else if 999999 < micros.toNat then u.refuse .badArg
      else if s.authority.active.isSome = true ∧ s.authority.waiting.isSome = true then u.refuse .busy
      else if s.authority.active.isSome = true then u.queueAnswer (.set (seconds.toNat * 1000000 + micros.toNat))
      else if 3155759999999999 < seconds.toNat * 1000000 + micros.toNat then u.refuse .range
      else u.applyAnswer (some (seconds.toNat * 1000000 + micros.toNat)) := by
  have target (v : Nat) : u.applyAnswer (setTarget v) =
      if 3155759999999999 < v then u.refuse .range else u.applyAnswer (some v) := by
    unfold setTarget Config.endOfRange
    by_cases beyond : 3155759999999999 < v
    · rw [if_pos beyond, if_neg (by omega)]; rfl
    · rw [if_neg beyond, if_pos (by omega)]
  unfold blockSetTime State.isHolder Authority.full
  rw [authority, target]
  simp only [decide_eq_false_iff_not, Bool.and_eq_true, ne_eq]

/-- STEP in the order of R49, from a state with the authority and the backup domain of s. -/
theorem blockStep_eq {s u : State} (authority : u.authority = s.authority) (backup : u.backup = s.backup) (p : Port)
    (amount : BitVec 32) :
    blockStep p amount u =
      if s.authority.holder ≠ some p then u.refuse .notAuthority
      else if amount = 0 then u.refuse .badArg
      else if s.backup.quality = .unset then u.refuse .noTime
      else if s.authority.active.isSome = true ∧ s.authority.waiting.isSome = true then u.refuse .busy
      else if s.authority.active.isSome = true then u.queueAnswer (.step amount.toInt)
      else if (s.backup.count : Int) + amount.toInt < 0 ∨ 3155759999999999 < (s.backup.count : Int) + amount.toInt then
        u.refuse .range
      else u.applyAnswer (some ((s.backup.count : Int) + amount.toInt).toNat) := by
  have target : u.applyAnswer (stepTarget u.now amount.toInt) =
      if (s.backup.count : Int) + amount.toInt < 0 ∨ 3155759999999999 < (s.backup.count : Int) + amount.toInt then
        u.refuse .range
      else u.applyAnswer (some ((s.backup.count : Int) + amount.toInt).toNat) := by
    unfold stepTarget State.now Config.endOfRange
    rw [backup]
    dsimp only
    by_cases beyond : (s.backup.count : Int) + amount.toInt < 0 ∨ 3155759999999999 < (s.backup.count : Int) + amount.toInt
    · rw [if_pos beyond, if_neg (by omega)]; rfl
    · rw [if_neg beyond, if_pos (by omega)]
  unfold blockStep State.isHolder Authority.full
  rw [authority, target, backup]
  simp only [decide_eq_false_iff_not, Bool.and_eq_true, ne_eq]

/-- Where a block answers by a test, what the request does is decided by that test. -/
theorem ite_of_eq_ite {α : Type} {a x y : α} {c : Prop} [Decidable c] {P Q : Prop} (h : a = if c then x else y)
    (yes : a = x → P) (no : a = y → Q) : if c then P else Q := by
  split
  next holds => exact yes (h.trans (if_pos holds))
  next fails => exact no (h.trans (if_neg fails))

/-- Settles O21, test by test in the order of R48. -/
theorem setTimeDecides : Obligations.SetTimeDecides := by
  intro p seconds micros s ready
  have refused {x : Status} := State.request_refused (x := x) ready 7 (block := blockSetTime p seconds micros)
  have block := blockSetTime_eq (s := s) (u := s.shiftOut p ((s.port p).requestMiso (7 + 3))) rfl p seconds micros
  exact ⟨_, rfl,
    ite_of_eq_ite block refused fun block =>
    ite_of_eq_ite block refused fun block =>
    ite_of_eq_ite block refused fun block =>
    ite_of_eq_ite block (State.request_queued ready) fun block =>
    ite_of_eq_ite block refused (State.request_applied ready)⟩

/-- Settles O22, test by test in the order of R49. -/
theorem stepDecides : Obligations.StepDecides := by
  intro p amount s ready
  have refused {x : Status} := State.request_refused (x := x) ready 4 (block := blockStep p amount)
  have block := blockStep_eq (s := s) (u := s.shiftOut p ((s.port p).requestMiso (4 + 3))) rfl rfl p amount
  exact ⟨_, rfl,
    ite_of_eq_ite block refused fun block =>
    ite_of_eq_ite block refused fun block =>
    ite_of_eq_ite block refused fun block =>
    ite_of_eq_ite block refused fun block =>
    ite_of_eq_ite block (State.request_queued ready) fun block =>
    ite_of_eq_ite block refused (State.request_applied ready)⟩

end Sys2Proof.Machine
end

section
/-! What SET_TIME and STEP do to the schedule table (R50, R105 to R110, R159). The model's request writes its response after
the table has been stepped, the statement before: both leave the same, since nothing in between sees what a slot holds. -/

namespace Sys2Proof.Machine

/-! ## What happens whatever a slot holds -/

theorem State.attached_setSlot (s : State) (p q : Port) (x : Slot) : (s.setSlot p x).attached q = s.attached q := by
  refine attached_of_state ?_
  rw [State.port_setSlot]
  split
  next e => rw [e]
  · rfl

/-- A port changed by what does not see the slot is changed so whatever the slot holds. -/
theorem State.port_setSlot_eq {s t : State} {q : Port} {F : PortUnit → PortUnit} (h : t.port q = F (s.port q))
    (slot : ∀ v x, { F v with slot := x } = F { v with slot := x }) (p : Port) (x : Slot) :
    (t.setSlot p x).port q = F ((s.setSlot p x).port q) := by
  rw [State.port_setSlot, State.port_setSlot]
  split
  next e =>
    subst e
    rw [h, slot]
  · exact h

theorem OnlyChanges.setSlot {ps : List Part} {s t : State} (h : OnlyChanges ps s t) (p : Port) (x : Slot) :
    OnlyChanges ps (s.setSlot p x) (t.setSlot p x) := by
  refine ⟨fun part absent => ?_⟩
  have same := h.keeps part absent
  cases part
  case ports =>
    have port : t.port p = s.port p := congrArg (·.get p) same
    show t.ports.set .. = s.ports.set ..
    rw [port, show t.ports = s.ports from same]
  all_goals exact same

theorem Fires.setSlot {whole late : Bool} {i : EntryIx} {b : Body} {due missed : Nat} {s t : State}
    (h : Fires whole i b due late missed s.line s.digest s.port s t) (p : Port) (x : Slot) :
    Fires whole i b due late missed (s.setSlot p x).line (s.setSlot p x).digest (s.setSlot p x).port (s.setSlot p x)
      (t.setSlot p x) := by
  obtain ⟨entries, quotas, rise, subs, lines, ports⟩ := h
  refine ⟨entries, quotas, rise, subs, lines, fun q => ?_⟩
  rw [State.attached_setSlot]
  exact State.port_setSlot_eq (F := fun v => v.storesIf _ _) (ports q) (fun v y => PortUnit.storesIf_slot ..) p x

theorem FiresInOrder.setSlot {late : Bool} {l : List EntryIx} {s t : State} (h : FiresInOrder late l s t) (p : Port)
    (x : Slot) : FiresInOrder late l (s.setSlot p x) (t.setSlot p x) := by
  induction l generalizing s with
  | nil => exact congrArg (State.setSlot · p x) h
  | cons i is ih =>
    obtain ⟨u, ⟨b, due, body, run, only, fires⟩, rest⟩ := h
    exact ⟨u.setSlot p x, ⟨b, due, body, run, only.setSlot p x, fires.setSlot p x⟩, ih rest⟩

theorem FreedEnd.setSlot {s t u : State} (h : FreedEnd s t u) (p : Port) (x : Slot) :
    FreedEnd (s.setSlot p x) (t.setSlot p x) (u.setSlot p x) := by
  obtain ⟨only, subs, ports⟩ := h
  refine ⟨only.setSlot p x, subs, fun q => ?_⟩
  rw [State.attached_setSlot]
  exact State.port_setSlot_eq (F := fun v => v.storesIf _ _) (ports q) (fun v y => PortUnit.storesIf_slot ..) p x

theorem Recomputed.setSlot {s t : State} (h : Recomputed s t) (p : Port) (x : Slot) :
    Recomputed (s.setSlot p x) (t.setSlot p x) := by
  obtain ⟨only, quotas, rise, walk, entries⟩ := h
  exact ⟨only.setSlot p x, quotas, rise, walk, entries⟩

theorem TableStepped.setSlot {old : Nat} {s t : State} (h : TableStepped old s t) (p : Port) (x : Slot) :
    TableStepped old (s.setSlot p x) (t.setSlot p x) := by
  unfold TableStepped at h ⊢
  rw [show (s.setSlot p x).now = s.now from rfl]
  split
  next forward =>
    rw [if_pos forward] at h
    obtain ⟨v, fires, ended⟩ := h
    exact ⟨v.setSlot p x, fires.setSlot p x, ended.setSlot p x⟩
  next backward =>
    rw [if_neg backward] at h
    exact h.setSlot p x

/-! ## A value applied at once -/

/-- The table stepped, TIME_STEPPED, and a response put in a slot: the same as where the response is there first (R50). -/
theorem State.stepTable_setSlot_stepped (s : State) (old : Nat) (p : Port) (x : Slot) :
    Stepped old [] (s.setSlot p x) (((s.stepTable old).raiseAll .timeStepped).setSlot p x) := by
  have table := s.stepTable_tableStepped old
  refine ⟨(s.stepTable old).setSlot p x, table.setSlot p x, (State.raiseAll_only ..).setSlot p x, fun q => ?_⟩
  have attached : (s.stepTable old).attached q = s.attached q := attached_of_state (table.receives q).state
  rw [PortUnit.storesIf_nil, State.attached_setSlot]
  exact State.port_setSlot_eq (F := PortUnit.raisedIf (s.attached q) .timeStepped)
    (by rw [State.port_raiseAll, attached]) (fun v y => PortUnit.raisedIf_slot ..) p x

theorem State.withValue_only (s : State) (v : Nat) : OnlyChanges [.backup] s (s.withValue v) := by
  refine ⟨fun part absent => ?_⟩
  cases part
  case backup => exact absurd (List.mem_singleton_self _) absent
  all_goals rfl

/-- The response to a value that a state has been given: its epoch and a timestamp (R48, R49). -/
def State.valueResponse (s : State) : Response :=
  { status := .ok, fields := bytesBE 2 s.backup.epoch.toNat ++ s.stamp.bytes }

/-- A request whose block applies a value at once, the quality not being UNSET: the value and the response, and then what
follows a value applied (R50). -/
theorem State.request_stepped {s : State} {p : Port} (ready : Ready s p) (set : s.backup.quality ≠ .unset) {n v : Nat}
    {block : State → State × Option Response}
    (hb : block (s.shiftOut p ((s.port p).requestMiso (n + 3))) =
      (s.shiftOut p ((s.port p).requestMiso (n + 3))).applyAnswer (some v)) :
    ∃ u, OnlyChanges [.backup, .ports] s u ∧
      u.backup = { s.backup with count := v, rangeHeld := false, epoch := s.backup.epoch + 1 } ∧
      PortBecomes p ((s.port p).replied n
        { status := .ok, fields := bytesBE 2 u.backup.epoch.toNat ++ u.stamp.bytes }) s u ∧
      Stepped s.backup.count [] u (s.request p n block) := by
  set w := s.shiftOut p ((s.port p).requestMiso (n + 3)) with hw
  have applied : w.applyTime v = ((w.withValue v).stepTable s.backup.count).raiseAll .timeStepped :=
    State.applyTime_set_eq (s := w) set v
  have backup : (w.applyTime v).backup = (w.withValue v).backup := by
    rw [applied]
    exact (State.raiseAll_only ..).backup.trans (State.stepTable_only ..).backup
  have stamp : (w.applyTime v).stamp = (w.withValue v).stamp := by
    rw [applied]
    exact (State.raiseAll_only ..).stamp.trans (State.stepTable_only ..).stamp
  have answer : block w = (w.applyTime v, some (w.withValue v).valueResponse) := by
    unfold State.valueResponse
    rw [hb, ← backup, ← stamp]
    rfl
  refine ⟨(w.withValue v).setSlot p (.ready (w.withValue v).valueResponse), ?_, rfl, ⟨?_, fun q hq => ?_⟩, ?_⟩
  · exact ((s.setPort_only ..).mono (by decide)).trans ((w.withValue_only v).mono (by decide)) |>.trans
      ((State.setPort_only ..).mono (by decide))
  · rw [State.port_setSlot, if_pos rfl, PortUnit.replied_eq]
    show { w.port p with slot := Slot.ready (w.withValue v).valueResponse } = _
    rw [hw, s.port_shiftOut, if_pos rfl]
    rfl
  · rw [State.port_setSlot, if_neg hq]
    exact (s.port_shiftOut ..).trans (if_neg hq)
  · rw [State.request_answered ready n answer, applied]
    exact State.stepTable_setSlot_stepped ..

/-- Settles O40: the request of either kind applies the value at once, and what follows is that of a value applied. -/
theorem stepResolvesOrRecomputes : Obligations.StepResolvesOrRecomputes := by
  intro p n value c s ready holder active set range instr
  have idle : ¬ s.authority.active.isSome = true := by rw [active]; nofun
  have free : ¬ (s.authority.active.isSome = true ∧ s.authority.waiting.isSome = true) := fun both => idle both.1
  obtain ⟨seconds, micros, rfl, rfl, arg, rfl⟩ | ⟨amount, rfl, rfl, nonzero, result⟩ := instr
  · have block := blockSetTime_eq (s := s) (u := s.shiftOut p ((s.port p).requestMiso (7 + 3))) rfl p seconds micros
    rw [if_neg (not_not.2 holder), if_neg (by omega), if_neg free, if_neg idle, if_neg (by omega)] at block
    obtain ⟨u, only, backup, port, stepped⟩ := State.request_stepped ready set block
    exact ⟨u, _, rfl, only, backup, port, stepped⟩
  · have block := blockStep_eq (s := s) (u := s.shiftOut p ((s.port p).requestMiso (4 + 3))) rfl rfl p amount
    rw [if_neg (not_not.2 holder), if_neg nonzero, if_neg set, if_neg free, if_neg idle, if_neg (by omega), ← result,
      Int.toNat_natCast] at block
    obtain ⟨u, only, backup, port, stepped⟩ := State.request_stepped ready set block
    exact ⟨u, _, rfl, only, backup, port, stepped⟩

end Sys2Proof.Machine
end

section
/-! Lines and channels with their owners and with the entries that name them (R61, R114, R115, R132, R134): one relation says
of two states that every line and every channel that was sound is so still, and every operation is shown to stand in it. -/

namespace Sys2Proof.Machine

/-! ## One line, one channel, and what a change leaves of them -/

/-- A line is consistent, and is owned by the owner of every entry that names it (R61, R114, R115). -/
structure State.LineSound (s : State) (l : LineNo) : Prop where
  consistent : (s.line l).Consistent
  owned : ∀ i b, (s.entry i).body = some b → b.namesLine l = true → (s.line l).owner = some b.owner

/-- A channel is consistent, and is owned by the owner of every AFTER entry it is the source of (R61, R132, R134). -/
structure State.ChannelSound (s : State) (c : ChanNo) : Prop where
  consistent : (s.channel c).Consistent c
  owned : ∀ i b, (s.entry i).body = some b → b.namesChannel c = true → (s.channel c).owner = some b.owner

/-- Every line and every channel that is sound in s is so in t. -/
structure KeepsSound (s t : State) : Prop where
  lines : ∀ l, s.LineSound l → t.LineSound l
  channels : ∀ c, s.ChannelSound c → t.ChannelSound c

theorem Body.namesLine_iff {l : LineNo} {b : Body} : b.namesLine l = true ↔ ∃ a, b.line = some (l, a) := by
  unfold Body.namesLine
  cases b.line with
  | none => simp
  | some x => obtain ⟨k, a⟩ := x; simp

theorem linesConsistent_iff {s : State} : LinesConsistent s ↔ ∀ l, s.LineSound l := by
  constructor
  · intro ⟨consistent, owned⟩ l
    refine ⟨consistent l, fun i b hb names => ?_⟩
    obtain ⟨a, ha⟩ := Body.namesLine_iff.1 names
    exact owned i b (l, a) hb ha
  · exact fun h => ⟨fun l => (h l).consistent, fun i b x hb hx =>
      (h x.1).owned i b hb (Body.namesLine_iff.2 ⟨x.2, hx⟩)⟩

theorem channelsConsistent_iff {s : State} : ChannelsConsistent s ↔ ∀ c, s.ChannelSound c :=
  ⟨fun ⟨consistent, owned⟩ c => ⟨consistent c, fun i b => owned i b c⟩,
    fun h => ⟨fun c => (h c).consistent, fun i b c => (h c).owned i b⟩⟩

/-- What an entry has to do with the lines and the channels: a body put at an index names none that is not its owner's,
where those are sound. -/
structure State.Binds (s : State) (b : Body) : Prop where
  line : ∀ l, b.namesLine l = true → s.LineSound l → (s.line l).owner = some b.owner
  channel : ∀ c, b.namesChannel c = true → s.ChannelSound c → (s.channel c).owner = some b.owner

/-- A body with the owner, the line and the source channel of one that the table holds. -/
theorem State.binds_of_held {s : State} {i : EntryIx} {a b : Body} (ha : (s.entry i).body = some a)
    (owner : b.owner = a.owner) (line : b.line = a.line)
    (channel : ∀ c, b.namesChannel c = true → a.namesChannel c = true) : s.Binds b where
  line l names sound := by
    rw [owner]; exact sound.owned i a ha (by unfold Body.namesLine at names ⊢; rwa [← line])
  channel c names sound := by rw [owner]; exact sound.owned i a ha (channel c names)

theorem State.binds_held {s : State} {i : EntryIx} {b : Body} (hb : (s.entry i).body = some b) : s.Binds b :=
  s.binds_of_held hb rfl rfl fun _ => id

namespace KeepsSound

variable {s t u : State}

theorem refl (s : State) : KeepsSound s s := ⟨fun _ => id, fun _ => id⟩

theorem trans (h : KeepsSound s t) (k : KeepsSound t u) : KeepsSound s u :=
  ⟨fun l sound => k.lines l (h.lines l sound), fun c sound => k.channels c (h.channels c sound)⟩

theorem ite {c : Prop} [Decidable c] (h : KeepsSound s t) (k : KeepsSound s u) : KeepsSound s (if c then t else u) := by
  split <;> assumption

theorem foldl {α : Type} {f : State → α → State} (each : ∀ t x, KeepsSound s t → KeepsSound s (f t x)) (l : List α)
    (h : KeepsSound s t) : KeepsSound s (l.foldl f t) := foldl_keeps each l t h

/-- A change that leaves what the entries, the lines and the channels show. -/
theorem same (h : KeepsSound s t) (entries : ∀ i, u.entry i = t.entry i) (lines : ∀ l, u.line l = t.line l)
    (channels : ∀ c, u.channel c = t.channel c) : KeepsSound s u := by
  refine h.trans ⟨fun l sound => ⟨?_, fun i b hb => ?_⟩, fun c sound => ⟨?_, fun i b hb => ?_⟩⟩
  · rw [lines]; exact sound.consistent
  · rw [lines]; exact sound.owned i b (entries i ▸ hb)
  · rw [channels]; exact sound.consistent
  · rw [channels]; exact sound.owned i b (entries i ▸ hb)

/-- A change that does not reach the table, the lines and the channels. -/
theorem next {ps : List Part} (h : KeepsSound s t) (only : OnlyChanges ps t u)
    (n : Part.schedule ∉ ps ∧ Part.lines ∉ ps ∧ Part.channels ∉ ps := by decide) : KeepsSound s u :=
  h.same (fun i => only.entry i n.1) (fun l => only.line l n.2.1) fun c => only.channel c n.2.2

/-- A line replaced by one that is consistent and as owned as its entries ask. -/
theorem setLine (h : KeepsSound s t) (l : LineNo) {x : Line} (consistent : t.LineSound l → x.Consistent)
    (owned : t.LineSound l → ∀ i b, (t.entry i).body = some b → b.namesLine l = true → x.owner = some b.owner) :
    KeepsSound s (t.setLine l x) := by
  refine h.trans ⟨fun k sound => ?_, fun c sound => ⟨sound.consistent, sound.owned⟩⟩
  have line := t.line_setLine l k x
  by_cases e : k = l
  · subst e
    rw [if_pos rfl] at line
    exact ⟨by rw [line]; exact consistent sound, by rw [line]; exact owned sound⟩
  · rw [if_neg e] at line
    exact ⟨by rw [line]; exact sound.consistent, by rw [line]; exact sound.owned⟩

/-- A line changed by its owner or by what acts on it. -/
theorem moveLine (h : KeepsSound s t) (l : LineNo) {x : Line} (owner : x.owner = (t.line l).owner)
    (consistent : t.LineSound l → x.Consistent) : KeepsSound s (t.setLine l x) :=
  h.setLine l consistent fun sound => owner ▸ sound.owned

/-- A channel replaced by one that is consistent and as owned as its entries ask. -/
theorem setChannel (h : KeepsSound s t) (c : ChanNo) {x : Channel} (consistent : t.ChannelSound c → x.Consistent c)
    (owned : t.ChannelSound c → ∀ i b, (t.entry i).body = some b → b.namesChannel c = true → x.owner = some b.owner) :
    KeepsSound s (t.setChannel c x) := by
  refine h.trans ⟨fun k sound => ⟨sound.consistent, sound.owned⟩, fun d sound => ?_⟩
  have channel := t.channel_setChannel c d x
  by_cases e : d = c
  · subst e
    rw [if_pos rfl] at channel
    exact ⟨by rw [channel]; exact consistent sound, by rw [channel]; exact owned sound⟩
  · rw [if_neg e] at channel
    exact ⟨by rw [channel]; exact sound.consistent, by rw [channel]; exact sound.owned⟩

/-- A channel changed by its owner or by what it captures. -/
theorem moveChannel (h : KeepsSound s t) (c : ChanNo) {x : Channel} (owner : x.owner = (t.channel c).owner)
    (consistent : t.ChannelSound c → x.Consistent c) : KeepsSound s (t.setChannel c x) :=
  h.setChannel c consistent fun sound => owner ▸ sound.owned

/-- The table changed at one index: a body that comes there names its owner's lines and channels alone. -/
theorem entryBecomes (h : KeepsSound s t) {i : EntryIx} {e : Entry} (becomes : EntryBecomes i e t u)
    (lines : ∀ l, u.line l = t.line l) (channels : ∀ c, u.channel c = t.channel c)
    (binds : ∀ b, e.body = some b → t.Binds b) : KeepsSound s u := by
  have found : ∀ j b, (u.entry j).body = some b → (t.entry j).body = some b ∨ t.Binds b := by
    intro j b hb
    by_cases hj : j = i
    · subst hj; exact .inr (binds b (becomes.1 ▸ hb))
    · exact .inl (becomes.2 j hj ▸ hb)
  refine h.trans ⟨fun l sound => ⟨?_, fun j b hb names => ?_⟩, fun c sound => ⟨?_, fun j b hb names => ?_⟩⟩
  · rw [lines]; exact sound.consistent
  · rw [lines]; exact (found j b hb).elim (fun old => sound.owned j b old names) fun new => new.line l names sound
  · rw [channels]; exact sound.consistent
  · rw [channels]; exact (found j b hb).elim (fun old => sound.owned j b old names) fun new => new.channel c names sound

theorem setBody (h : KeepsSound s t) (i : EntryIx) {b : Option Body} (binds : ∀ x, b = some x → t.Binds x) :
    KeepsSound s (t.setBody i b) :=
  h.entryBecomes (i := i) (e := { inst := (t.entry i).inst, body := b })
    ⟨by rw [State.entry_setBody, if_pos rfl], fun j hj => by rw [State.entry_setBody, if_neg hj]⟩
    (fun _ => rfl) (fun _ => rfl) binds

theorem bumpFull (h : KeepsSound s t) : KeepsSound s t.bumpFull :=
  h.same (fun _ => State.entry_bumpFull ..) (fun l => t.bumpFull_only.line l) fun c => t.bumpFull_only.channel c

theorem bumpBoth (h : KeepsSound s t) : KeepsSound s t.bumpBoth :=
  h.same (fun _ => State.entry_bumpBoth ..) (fun l => t.bumpBoth_only.line l) fun c => t.bumpBoth_only.channel c

theorem vacate (h : KeepsSound s t) (i : EntryIx) : KeepsSound s (t.vacate i) :=
  (h.setBody i fun _ e => by cases e).bumpBoth

theorem endGone (h : KeepsSound s t) (b : State) : KeepsSound s (t.endGone b) := h.next (t.endGone_only b)

end KeepsSound

/-! ## The drive of a line (R114, R120 to R122) -/

/-- An action leaves an owned line consistent (the table of R120). -/
theorem Line.Consistent.actedOn {x : Line} (h : x.Consistent) (owned : x.owner ≠ none) (a : LineAction)
    (last : Option LastAction) : Line.Consistent { x with drive := x.actedOn a, last := last } := by
  have started : ∀ n, x.startHold = .held n → n = if x.holdLimit = 0 then none else some (x.holdLimit * 1000) :=
    fun n e => (Drive.held.inj e).symm
  have drive : x.actedOn a = .pulsing x.width ∨ x.actedOn a = x.startHold ∨ x.actedOn a = .idle := by
    unfold Line.actedOn
    cases a <;> cases x.drive <;> simp
  refine ⟨h.pinnedOwned, fun none => absurd none owned, h.widthRange, h.limitRange, ?_, ?_, ?_⟩ <;>
    obtain e | e | e := drive <;> dsimp only <;> rw [e]
  · intro n k; cases k; exact le_rfl
  · nofun
  · nofun
  · nofun
  · intro n k
    have := started _ k
    split at this
    · cases this
    next limited => cases this; exact ⟨limited, le_rfl⟩
  · nofun
  · nofun
  · intro k
    have := started _ k
    split at this
    next unlimited => exact unlimited
    · cases this
  · nofun

/-- A drive that goes back to IDLE leaves a line consistent. -/
theorem Line.Consistent.idled {x : Line} (h : x.Consistent) : Line.Consistent { x with drive := .idle } :=
  ⟨h.pinnedOwned, fun none => ⟨rfl, (h.unownedIdle none).2⟩, h.widthRange, h.limitRange, nofun, nofun, nofun⟩

/-- A drive that has counted a microsecond leaves a line consistent. -/
theorem Line.Consistent.counted {x : Line} (h : x.Consistent) : Line.Consistent { x with drive := x.drive.counted } := by
  refine ⟨h.pinnedOwned, fun none => ⟨congrArg Drive.counted (h.unownedIdle none).1, (h.unownedIdle none).2⟩, h.widthRange,
    h.limitRange, fun n hn => ?_, fun n hn => ?_, fun hn => ?_⟩ <;> dsimp only at hn ⊢
  · obtain ⟨m, e, rfl⟩ : ∃ m, x.drive = .pulsing m ∧ m - 1 = n := by
      cases e : x.drive with
      | pulsing m => rw [e] at hn; exact ⟨m, rfl, Drive.pulsing.inj hn⟩
      | idle => rw [e] at hn; cases hn
      | held m => rw [e] at hn; cases m <;> cases hn
    exact (Nat.sub_le m 1).trans (h.pulse m e)
  · obtain ⟨m, e, rfl⟩ : ∃ m, x.drive = .held (some m) ∧ m - 1 = n := by
      cases e : x.drive with
      | pulsing m => rw [e] at hn; cases hn
      | idle => rw [e] at hn; cases hn
      | held m =>
        rw [e] at hn
        cases m with
        | none => cases hn
        | some m => exact ⟨m, rfl, Option.some.inj (Drive.held.inj hn)⟩
    exact ⟨(h.hold m e).1, (Nat.sub_le m 1).trans (h.hold m e).2⟩
  · refine h.unlimited ?_
    cases e : x.drive with
    | pulsing m => rw [e] at hn; cases hn
    | idle => rw [e] at hn; cases hn
    | held m =>
      rw [e] at hn
      cases m with
      | none => rfl
      | some m => cases hn

theorem Line.Consistent.released {x : Line} (h : x.Consistent) (unpinned : x.pinned = false) : x.released.Consistent :=
  ⟨fun pinned => absurd (unpinned.symm.trans pinned) nofun, fun _ => ⟨rfl, rfl⟩, h.widthRange, h.limitRange, nofun, nofun,
    nofun⟩

/-! ## A channel as it captures (R132, R133, R143 to R147) -/

theorem Channel.Consistent.counted {x : Channel} {c : ChanNo} (h : x.Consistent c) : x.counted.Consistent c where
  unowned := h.unowned
  reloadRange := h.reloadRange
  counterRange := by
    have reload := h.reloadRange
    have counter := h.counterRange
    unfold Channel.counted
    dsimp only
    split <;> omega
  levelRange := h.levelRange
  sourceBelow := h.sourceBelow
  phase := h.phase

/-- A channel with its measurement, its filter and its qualification changed, the measurement in a phase that it has. -/
theorem Channel.Consistent.measures {x : Channel} {c : ChanNo} (h : x.Consistent c) (filtered : PinLevel)
    (q : Qualification) {m : Option Nat}
    (phase : m.isSome = true → x.running = true ∧ (x.mode = .period ∨ x.mode = .width)) :
    Channel.Consistent { x with measuring := m, filtered := filtered, qualification := q } c :=
  ⟨h.unowned, h.reloadRange, h.counterRange, h.levelRange, h.sourceBelow, phase⟩

theorem Channel.Consistent.tick {x : Channel} {c : ChanNo} (h : x.Consistent c) : x.tick.Consistent c :=
  h.measures _ _ fun some => h.phase (by rwa [Option.isSome_map] at some)

theorem Channel.Consistent.released {x : Channel} {c : ChanNo} (h : x.Consistent c) : x.released.Consistent c :=
  ⟨fun _ => ⟨rfl, rfl⟩, h.reloadRange, h.reloadRange, h.levelRange, h.sourceBelow, nofun⟩

/-! ## The schedule table (R98 to R110) -/

/-- What a firing leaves of an entry names what the entry named (R102, R103). -/
theorem State.binds_afterFiring {s : State} {i : EntryIx} {a b : Body} (ha : (s.entry i).body = some a)
    {run : Option RunState} {late : Bool} {missed : Nat} {st : Timestamp}
    (after : a.afterFiring run late missed st = some b) : s.Binds b := by
  obtain ⟨defn, line, -⟩ := Body.afterFiring_fields after
  have owner : b.owner = a.owner := by
    unfold Body.afterFiring at after
    cases run with
    | some r => cases after; rfl
    | none => dsimp only at after; split at after <;> cases after; rfl
  exact s.binds_of_held ha owner line fun c names => by unfold Body.namesChannel at names ⊢; rwa [← defn]

/-- An entry whose due time is found again names what it named (R110). -/
theorem State.binds_found {s : State} {i : EntryIx} {b : Body} (hb : (s.entry i).body = some b) (now : Nat) :
    s.Binds (b.found now) := by
  refine s.binds_of_held hb ?_ ?_ fun c => ?_ <;> unfold Body.found <;> cases hd : b.defn <;>
    simp only [Body.namesChannel, hd, imp_self]

namespace KeepsSound

variable {s t u : State}

/-- The line action of an entry that fires (R99, R101): the line is its owner's. -/
theorem fireLine (h : KeepsSound s t) {i : EntryIx} {b : Body} (hb : (t.entry i).body = some b) (inst : BitVec 8) :
    KeepsSound s (t.fireLine i inst b) := by
  unfold State.fireLine
  cases hl : b.line with
  | none => exact h
  | some y =>
    refine h.moveLine y.1 rfl fun sound => sound.consistent.actedOn ?_ ..
    rw [sound.owned i b hb (Body.namesLine_iff.2 ⟨y.2, hl⟩)]
    nofun

theorem fireWithin (h : KeepsSound s t) (i : EntryIx) (late : Bool) (missed : Nat) :
    KeepsSound s (t.fireWithin i late missed) := by
  cases hd : (t.entry i).armedDue with
  | none => rw [State.fireWithin_not_armed hd]; exact h
  | some due =>
    obtain ⟨b, hb, hr⟩ := Entry.armedDue_eq_some.1 hd
    rw [State.fireWithin_armed hb hr]
    have driven := h.fireLine hb (t.entry i).inst
    have only : OnlyChanges [.lines] t (t.fireLine i (t.entry i).inst b) := State.fireLine_only ..
    have recorded := (driven.next (State.deliverShared_only _ (.entry i (t.entry i).inst)
      (b.record.map fun l => (b.owner, l)) (firingRecord i (t.entry i).inst b due late missed t.stamp))).bumpFull
    refine recorded.entryBecomes (State.settleFired_spec _ i b late due missed t.stamp).1
      (fun l => (State.settleFired_only ..).line l) (fun c => (State.settleFired_only ..).channel c) fun x hx => ?_
    refine State.binds_afterFiring (i := i) ?_ hx
    rw [State.entry_bumpFull, (State.deliverShared_only ..).entry i, only.entry i]
    exact hb

theorem fire (h : KeepsSound s t) (i : EntryIx) (late : Bool) (missed : Nat) : KeepsSound s (t.fire i late missed) :=
  (h.fireWithin i late missed).endGone t

theorem fireWhere (h : KeepsSound s t) (test : Nat → Bool) : KeepsSound s (t.fireWhere test) :=
  .foldl (fun _ i k => (k.fire i false 0).ite k) _ h

theorem fireReached (h : KeepsSound s t) : KeepsSound s t.fireReached := (h.fireWhere _).fireWhere _

theorem withUnfired (h : KeepsSound s t) (x : Bool) : KeepsSound s { t with unfired := x } := h.next (t.withUnfired_only x)

theorem fireUnfired (h : KeepsSound s t) : KeepsSound s t.fireUnfired := (h.withUnfired false).fireReached.ite h

theorem fireOne (h : KeepsSound s t) : KeepsSound s t.fireOne := by
  unfold State.fireOne
  split
  · split
    · exact h.withUnfired false
    · exact (h.withUnfired _).fire ..
  · exact h

theorem resolveWithin (h : KeepsSound s t) (i : EntryIx) : KeepsSound s (t.resolveWithin i) := by
  unfold State.resolveWithin
  split
  · split
    · exact (h.fireWithin ..).ite h
    all_goals exact h
  · exact h

theorem recompute (h : KeepsSound s t) (i : EntryIx) : KeepsSound s (t.recompute i) := by
  rw [State.recompute_eq]
  refine ((h.setBody i fun x hx => ?_).bumpFull).ite h
  obtain ⟨b, hb, rfl⟩ := Option.map_eq_some_iff.1 hx
  exact State.binds_found hb _

theorem stepTable (h : KeepsSound s t) (old : Nat) : KeepsSound s (t.stepTable old) :=
  ((foldl (fun _ i k => k.resolveWithin i) _ h).endGone t).ite (foldl (fun _ i k => k.recompute i) _ h)

/-- An entry in another state names what it named. -/
theorem setRun (h : KeepsSound s t) {i : EntryIx} {b : Body} (hb : (t.entry i).body = some b) (r : RunState) :
    KeepsSound s (t.setRun i b r) :=
  (h.setBody i fun x hx => by cases hx; exact t.binds_of_held hb rfl rfl fun _ => id).bumpFull

theorem armAt (h : KeepsSound s t) {i : EntryIx} {b : Body} (hb : (t.entry i).body = some b) (due : Nat) :
    KeepsSound s (t.armAt i b due) :=
  ((h.setRun hb (.armed due)).fireWithin ..).ite (h.setRun hb _)

theorem captureAt (h : KeepsSound s t) (c : ChanNo) (k : RecordKind) (time : Nat) (i : EntryIx) :
    KeepsSound s (t.captureAt c k time i) := by
  unfold State.captureAt
  split
  next b hb =>
    split
    · refine ite ?_ h
      split
      · exact h.armAt hb _
      · exact (h.armAt hb _).ite h
      all_goals exact h
    all_goals exact h
  · exact h

/-! ## Capture records and the events of the clocks -/

theorem handOn (depth : Nat) (h : KeepsSound s t) (c : ChanNo) (k : RecordKind) (value : Nat) :
    KeepsSound s (State.handOn depth t c k value) := by
  induction depth generalizing t c k value with
  | zero => exact h
  | succ n ih =>
    have acted : KeepsSound s ((t.deliverCapture c k value).captureAll c k t.now) :=
      foldl (fun _ i j => j.captureAt c k t.now i) _ (h.next (t.deliverCapture_only c k value))
    unfold State.handOn
    refine acted.ite (foldl (fun v d j => ?_) _ acted)
    have counted : KeepsSound s (v.setChannel d (v.channel d).counted) :=
      j.moveChannel d rfl fun sound => sound.consistent.counted
    exact ((ih counted ..).ite counted).ite j

theorem produce (h : KeepsSound s t) (c : ChanNo) (k : RecordKind) (value : Nat) : KeepsSound s (t.produce c k value) :=
  (h.handOn 8 c k value).endGone t

theorem countEvent (h : KeepsSound s t) (c : ChanNo) : KeepsSound s (t.countEvent c) := by
  have counted : KeepsSound s (t.setChannel c (t.channel c).counted) :=
    h.moveChannel c rfl fun sound => sound.consistent.counted
  exact (counted.produce ..).ite counted

theorem measureEdge (h : KeepsSound s t) {c : ChanNo} (running : (t.channel c).running = true)
    (mode : (t.channel c).mode = .period ∨ (t.channel c).mode = .width) (k : RecordKind) :
    KeepsSound s (t.measureEdge c k) := by
  have begun : KeepsSound s (t.beginMeasure c) :=
    h.moveChannel c rfl fun sound => sound.consistent.measures _ _ fun _ => ⟨running, mode⟩
  unfold State.measureEdge
  split
  · exact begun
  · exact begun.produce ..

theorem actOnEdge (h : KeepsSound s t) {c : ChanNo} (running : (t.channel c).running = true) (x : PinLevel) :
    KeepsSound s (t.actOnEdge c x) := by
  unfold State.actOnEdge
  split
  · exact (h.produce ..).ite h
  next mode => exact (h.measureEdge running (.inl mode) _).ite h
  next mode => exact h.measureEdge running (.inr mode) _
  · exact (h.countEvent c).ite h

theorem takeEdge (h : KeepsSound s t) (c : ChanNo) : KeepsSound s (t.takeEdge c) := by
  have filtered : KeepsSound s (t.setChannel c { t.channel c with filtered := t.rawLevel c, qualification := .none }) :=
    h.moveChannel c rfl fun sound => sound.consistent.measures _ _ sound.consistent.phase
  unfold State.takeEdge
  split
  · dsimp only
    split
    next running => exact filtered.actOnEdge (by rw [State.channel_setChannel, if_pos rfl]; exact running) _
    · exact filtered
  all_goals exact h

theorem overflowMeasure (h : KeepsSound s t) (c : ChanNo) : KeepsSound s (t.overflowMeasure c) := by
  have ended : KeepsSound s (t.setChannel c { t.channel c with measuring := none }) :=
    h.moveChannel c rfl fun sound => sound.consistent.measures _ _ (m := none) nofun
  unfold State.overflowMeasure
  split
  · exact (ended.produce ..).ite h
  · exact h

theorem filterRaw (h : KeepsSound s t) (c : ChanNo) (x : PinLevel) : KeepsSound s (t.filterRaw c x) := by
  have taken : KeepsSound s (if t.rawLevel c = x then t else t.takeEdge c) := h.ite (h.takeEdge c)
  exact (taken.next (State.setRaw_only _ c x)).moveChannel c rfl fun sound =>
    sound.consistent.measures _ _ sound.consistent.phase

theorem endPulse (h : KeepsSound s t) (l : LineNo) : KeepsSound s (t.endPulse l) := by
  unfold State.endPulse
  split
  · exact h.moveLine l rfl fun sound => sound.consistent.idled
  all_goals exact h

theorem expireHold (h : KeepsSound s t) (l : LineNo) : KeepsSound s (t.expireHold l) := by
  have idled : KeepsSound s (t.setLine l { t.line l with drive := .idle }) :=
    h.moveLine l rfl fun sound => sound.consistent.idled
  unfold State.expireHold
  split
  · exact idled.next (State.deliverTo_only ..)
  all_goals exact h

theorem takeDue (h : KeepsSound s t) (d : DueEvent) : KeepsSound s (t.takeDue d) := by
  cases d with
  | pulseEnd l => exact h.endPulse l
  | holdExpiry l => exact h.expireHold l
  | overflow c => exact h.overflowMeasure c
  | edge c => exact h.takeEdge c
  | windowEnd => exact h.next t.endWindow_only
  | loss => exact h.next t.takeLoss_only
  | examine => exact h.next t.examineNext_only
  | firing => exact h.fireOne

theorem takeDues (h : KeepsSound s t) (l : List DueEvent) : KeepsSound s (l.foldl State.takeDue t) :=
  foldl (fun _ d k => k.takeDue d) l h

/-! ## Time passes (Chapters 1 and 3) -/

theorem countTimers (h : KeepsSound s t) : KeepsSound s t.countTimers := by
  have lines : KeepsSound s t.countLines :=
    foldl (f := fun v l => v.setLine l { v.line l with drive := (v.line l).drive.counted })
      (fun _ l k => k.moveLine l rfl fun sound => sound.consistent.counted) _ h
  have channels : KeepsSound s t.countLines.countChannels :=
    foldl (f := fun v c => v.setChannel c (v.channel c).tick)
      (fun _ c k => k.moveChannel c rfl fun sound => sound.consistent.tick) _ lines
  exact channels.same (fun _ => rfl) (fun _ => rfl) fun _ => rfl

theorem applyTime (h : KeepsSound s t) (v : Nat) : KeepsSound s (t.applyTime v) := by
  have counted := h.next (t.withValue_only v)
  rw [State.applyTime_eq]
  exact ((((counted.next (State.leaveUnset_only _)).ite counted).stepTable _).next (State.raiseAll_only ..))

theorem applyWaiting (h : KeepsSound s t) (n : BitVec 8) (v : Option Nat) : KeepsSound s (t.applyWaiting n v) := by
  unfold State.applyWaiting
  split
  · exact (h.applyTime _).next (State.adjustDone_only ..)
  · exact h.next (State.adjustDone_only ..)

theorem slewEnded (h : KeepsSound s t) (left : Nat) : KeepsSound s (t.slewEnded left) := by
  have done := h.next (t.completeSlew_only left)
  have taken := h.next (t.slewLeft_only left)
  unfold State.slewEnded
  dsimp only
  split
  · exact done
  · split
    · exact taken.next (State.beginSlew_only ..)
    · exact taken.applyWaiting ..
    · exact taken.applyWaiting ..

theorem reachEnd (h : KeepsSound s t) : KeepsSound s t.reachEnd := by
  have fired : KeepsSound s (t.holdRange.fireDue Config.endOfRange) := (h.next t.holdRange_only).fireWhere _
  have told := fired.next (State.raiseAll_only _ .rangeEnd)
  exact told.ite (told.slewEnded _)

theorem advanceTo (h : KeepsSound s t) (v : Nat) (fires : Bool) : KeepsSound s (t.advanceTo v fires) := by
  have counted := h.next (t.atCount_only v)
  exact counted.fireReached.ite (counted.withUnfired true)

theorem advanceOne (h : KeepsSound s t) (fires : Bool) : KeepsSound s (t.advanceOne fires) :=
  ((h.advanceTo ..).ite h.reachEnd).ite h

theorem endSlewIfDone (h : KeepsSound s t) : KeepsSound s t.endSlewIfDone := (h.slewEnded 0).ite h

theorem timebaseMicro (h : KeepsSound s t) (fires : Bool) : KeepsSound s (t.timebaseMicro fires) := by
  have counted := h.next t.countBlock_only
  have slewed : ∀ x : SlewState, KeepsSound s { t with slew := x } := fun x =>
    h.same (fun _ => rfl) (fun _ => rfl) fun _ => rfl
  refine ite ?_ ((h.advanceOne fires).ite ((slewed _).advanceOne fires))
  unfold State.blockEnd
  split
  · exact (counted.advanceTo ..).endSlewIfDone.ite h.reachEnd
  · exact counted.endSlewIfDone
  · exact h

theorem runMicro (h : KeepsSound s t) (first : List DueEvent) (fires : Bool) : KeepsSound s (t.runMicro first fires) :=
  ((h.fireUnfired.takeDues dueOrder).countTimers.takeDues first).timebaseMicro fires

theorem micro (h : KeepsSound s t) (first : List DueEvent) (fires : Bool) : KeepsSound s (t.micro first fires) :=
  (h.runMicro first fires).ite <| ite (h.same (fun _ => rfl) (fun _ => rfl) fun _ => rfl) h

theorem finishAdvance (h : KeepsSound s t) (first : List DueEvent) : KeepsSound s (t.finishAdvance first) :=
  (h.takeDues first).fireUnfired.ite h

end KeepsSound

end Sys2Proof.Machine
end

section
/-! Every request, every event and every reset leaves the lines and the channels sound (R116 to R120, R135 to R141, R182,
R185), and so does every step. -/

namespace Sys2Proof.Machine

/-! ## The requests of the schedule unit (Chapter 4) -/

/-- No entry satisfies a test where none is counted. -/
theorem State.body_of_countEntries_eq_zero {s : State} {test : Body → Bool} (h : s.countEntries test = 0) {i : EntryIx}
    {b : Body} (hb : (s.entry i).body = some b) : test b = false := by
  unfold State.countEntries at h
  rw [List.length_eq_zero_iff, List.filter_eq_nil_iff] at h
  have := h i (mem_allEntries i)
  rw [hb] at this
  exact Bool.eq_false_iff.2 this

/-- What a request with a handle and the owner check can do: refuse, or go on with the entry it names (R64). -/
theorem State.withOwned_cases {P : State × Option Response → Prop} {s : State} {p : Port} {index inst : Byte}
    {go : EntryIx → Body → State × Option Response} (refused : ∀ x, P (s.refuse x))
    (goes : ∀ i b, (s.entry i).body = some b → P (go i b)) : P (s.withOwned p index inst go) := by
  unfold State.withOwned State.withHandle
  split
  · exact refused _
  next i _ =>
    split
    · exact refused _
    next b hb => exact iteInduction (fun _ => iteInduction (fun _ => goes i b hb) fun _ => refused _) fun _ => refused _

/-- The same of a line that the requester owns (R117 to R119, R124). -/
theorem State.withOwnLine_cases {P : State × Option Response → Prop} {s : State} {p : Port} {line : Byte}
    {go : LineNo → State × Option Response} (refused : ∀ x, P (s.refuse x))
    (goes : ∀ l, (s.line l).owner = some p → P (go l)) : P (s.withOwnLine p line go) := by
  unfold State.withOwnLine State.withLine
  split
  · exact refused _
  · exact iteInduction (fun own => goes _ own) fun _ => refused _

/-- The same of a channel that the requester owns (R136 to R141). -/
theorem State.withOwnChannel_cases {P : State × Option Response → Prop} {s : State} {p : Port} {channel : Byte}
    {go : ChanNo → State × Option Response} (refused : ∀ x, P (s.refuse x))
    (goes : ∀ c, (s.channel c).owner = some p → P (go c)) : P (s.withOwnChannel p channel go) := by
  unfold State.withOwnChannel State.withChannel
  split
  · exact refused _
  · exact iteInduction (fun own => goes _ own) fun _ => refused _

theorem Definition.namesChannel_of_retimes {d : Definition} {b : Body} (kind : d.retimes b.defn = true) (r : RunState)
    (c : ChanNo) (names : Body.namesChannel c { b with defn := d, run := r } = true) : b.namesChannel c = true := by
  unfold Body.namesChannel at names ⊢
  cases d with
  | after ch k x pol =>
    cases hb : b.defn with
    | after ch' k' x' pol' =>
      rw [hb] at kind
      have same : ch = ch' := of_decide_eq_true (Bool.and_eq_true_iff.1 (Bool.and_eq_true_iff.1 kind).1).1
      exact decide_eq_true (same ▸ of_decide_eq_true names)
    | atTime _ | every _ _ | calendar _ _ => rw [hb] at kind; cases kind
  | atTime _ | every _ _ | calendar _ _ => cases names

/-- The line and the source channel of a new entry are the requester's (R74 step 3). -/
theorem State.binds_of_ownsNamed {s : State} {p : Port} {a : ArmRequest} (owns : s.ownsNamed p a = true) (r : RunState) :
    s.Binds (a.body p r) := by
  obtain ⟨line, channel⟩ := Bool.and_eq_true_iff.1 owns
  refine ⟨fun l names _ => ?_, fun c names _ => ?_⟩
  · obtain ⟨x, hx⟩ := Body.namesLine_iff.1 names
    rw [show a.line = some (l, x) from hx] at line
    exact of_decide_eq_true line
  · unfold Body.namesChannel at names
    cases hd : a.defn with
    | after ch k x pol =>
      rw [show (a.body p r).defn = _ from hd] at names
      rw [hd] at channel
      exact of_decide_eq_true names ▸ of_decide_eq_true channel
    | atTime _ | every _ _ | calendar _ _ => rw [show (a.body p r).defn = _ from hd] at names; cases names

/-- What step 1 of R138 makes sure of. -/
theorem channelConfigOf_spec {channel mode edge source level : Byte} {k : ChannelConfig}
    (h : channelConfigOf channel mode edge source level = some k) :
    (1 ≤ k.level ∧ k.level ≤ 7) ∧ ∀ d, k.source = .channel d → d.val < k.channel.val := by
  unfold channelConfigOf at h
  simp only [Option.bind_eq_bind, Option.bind_eq_some_iff, Option.pure_def] at h
  obtain ⟨c, -, m, -, e, -, src, hsrc, l, hl, made⟩ := h
  cases made
  constructor
  · unfold levelOf at hl
    split at hl
    next within => cases hl; exact within
    · cases hl
  · rintro d rfl
    unfold countSourceOf at hsrc
    split at hsrc
    · cases hsrc
    · split at hsrc
      · split at hsrc
        next below => cases hsrc; exact below
        · cases hsrc
      · cases hsrc

theorem Line.reset_consistent : Line.reset.Consistent :=
  ⟨nofun, fun _ => ⟨rfl, rfl⟩, by decide, by decide, nofun, nofun, nofun⟩

namespace KeepsSound

variable {s t : State}

theorem ite_fst {x y : State × Option Response} {c : Prop} [Decidable c] (h : c → KeepsSound s x.1)
    (k : ¬ c → KeepsSound s y.1) : KeepsSound s (if c then x else y).1 := by
  split
  next yes => exact h yes
  next no => exact k no

theorem allocate (h : KeepsSound s t) (i : EntryIx) {b : Body} (binds : t.Binds b) : KeepsSound s (t.allocate i b) :=
  h.entryBecomes (i := i) (e := { inst := (t.entry i).inst + 1, body := some b })
    ⟨by rw [State.entry_allocate, if_pos rfl], fun j hj => by rw [State.entry_allocate, if_neg hj]⟩
    (fun l => (t.allocate_only i b).line l) (fun c => (t.allocate_only i b).channel c) fun x hx => by cases hx; exact binds

theorem retimed (h : KeepsSound s t) {i : EntryIx} {b : Body} (hb : (t.entry i).body = some b) {d : Definition}
    (kind : d.retimes b.defn = true) (r : RunState) : KeepsSound s (t.retimed i b d r) :=
  (h.setBody i fun x hx => by
    cases hx; exact t.binds_of_held hb rfl rfl fun c => Definition.namesChannel_of_retimes kind r c).bumpBoth

theorem blockArmEntry (p : Port) (f : ArmFields) : KeepsSound s (blockArmEntry p f s).1 := by
  unfold Sys2Proof.Machine.blockArmEntry
  split
  · exact refl s
  next a _ =>
    refine ite_fst (fun _ => refl s) fun _ => ite_fst (fun _ => refl s) fun owns => ite_fst (fun _ => refl s) fun _ => ?_
    have binds := fun r => State.binds_of_ownsNamed (Bool.eq_true_of_not_eq_false owns) r
    split
    · exact refl s
    next i _ =>
      unfold State.armInto
      split
      · exact refl s
      · exact refl s
      · exact (refl s).allocate i (binds _)
      · exact (refl s).allocate i (binds _)
      · exact ((refl s).allocate i (binds _)).fire ..

theorem retimeArmed {i : EntryIx} {b : Body} (hb : (s.entry i).body = some b) {d : Definition}
    (kind : d.retimes b.defn = true) (due : Nat) (late : Bool) : KeepsSound s (s.retimeArmed i b due d late).1 := by
  unfold State.retimeArmed
  split
  · exact refl s
  · exact refl s
  · exact (refl s).retimed hb kind _
  · exact (refl s).retimed hb kind _
  · exact ((refl s).retimed hb kind _).fire ..

theorem retimeHeld {i : EntryIx} {b : Body} (hb : (s.entry i).body = some b) {d : Definition}
    (kind : d.retimes b.defn = true) (due : Nat) (late : Bool) : KeepsSound s (s.retimeHeld i b due d late).1 := by
  unfold State.retimeHeld
  split
  · exact refl s
  · exact refl s
  all_goals exact (refl s).retimed hb kind _

theorem blockRetimeEntry (p : Port) (index inst : Byte) (block : DefBlock) (late : Byte) :
    KeepsSound s (blockRetimeEntry p index inst block late s).1 := by
  unfold Sys2Proof.Machine.blockRetimeEntry
  split
  · exact refl s
  all_goals
    refine State.withOwned_cases (P := fun x => KeepsSound s x.1) (fun _ => refl s) fun i b hb => ?_
    split
    · refine ite_fst (fun _ => refl s) fun ok => ?_
      have kind := Bool.eq_true_of_not_eq_false fun other => ok (.inl other)
      split
      · exact retimeArmed hb kind ..
      · exact retimeHeld hb kind ..
      · exact (refl s).retimed hb kind _
      all_goals exact refl s
    all_goals exact refl s

theorem blockHoldEntry (p : Port) (index inst : Byte) : KeepsSound s (blockHoldEntry p index inst s).1 := by
  refine State.withOwned_cases (P := fun x => KeepsSound s x.1) (fun _ => refl s) fun i b hb => ?_
  split
  · exact (refl s).setRun hb _
  · exact (refl s).setRun hb _
  all_goals exact refl s

theorem blockUnholdEntry (p : Port) (index inst : Byte) : KeepsSound s (blockUnholdEntry p index inst s).1 := by
  refine State.withOwned_cases (P := fun x => KeepsSound s x.1) (fun _ => refl s) fun i b hb => ?_
  split
  · exact (refl s).setRun hb _
  · exact (((refl s).setRun hb _).resolveWithin i).endGone _
  all_goals exact refl s

theorem blockCancelEntry (p : Port) (index inst : Byte) : KeepsSound s (blockCancelEntry p index inst s).1 :=
  State.withOwned_cases (P := fun x => KeepsSound s x.1) (fun _ => refl s) fun i _ _ => ((refl s).vacate i).endGone s

theorem blockSetQuota (p : Port) (target quota : Byte) : KeepsSound s (blockSetQuota p target quota s).1 := by
  refine ite_fst (fun _ => refl s) fun _ => ?_
  split
  · exact refl s
  · exact ite_fst (fun _ => refl s) fun _ => (refl s).same (fun _ => rfl) (fun _ => rfl) fun _ => rfl

theorem applyAnswer (v : Option Nat) : KeepsSound s (s.applyAnswer v).1 := by
  unfold State.applyAnswer
  split
  · exact refl s
  · exact (refl s).applyTime _

theorem blockSetTime (p : Port) (sec : BitVec 32) (us : BitVec 24) : KeepsSound s (blockSetTime p sec us s).1 :=
  ite_fst (fun _ => refl s) fun _ => ite_fst (fun _ => refl s) fun _ => ite_fst (fun _ => refl s) fun _ =>
    ite_fst (fun _ => (refl s).next (s.enqueue_only _)) fun _ => applyAnswer _

theorem blockStep (p : Port) (amount : BitVec 32) : KeepsSound s (blockStep p amount s).1 :=
  ite_fst (fun _ => refl s) fun _ => ite_fst (fun _ => refl s) fun _ => ite_fst (fun _ => refl s) fun _ =>
    ite_fst (fun _ => refl s) fun _ => ite_fst (fun _ => (refl s).next (s.enqueue_only _)) fun _ => applyAnswer _

/-! ## The requests of the trigger unit (R116 to R120, R124) -/

theorem blockClaimLine (p : Port) (line : Byte) : KeepsSound s (blockClaimLine p line s).1 := by
  unfold Sys2Proof.Machine.blockClaimLine State.withLine
  split
  · exact refl s
  next l _ =>
    dsimp only
    split
    next free =>
      refine (refl s).setLine l (fun sound => ?_) fun sound i b hb names => ?_
      · have ok := sound.consistent
        exact ⟨fun _ => nofun, nofun, ok.widthRange, ok.limitRange, ok.pulse, ok.hold, ok.unlimited⟩
      · rw [sound.owned i b hb names] at free; cases free
    · exact ite_fst (fun _ => refl s) fun _ => refl s

theorem blockReleaseLine (p : Port) (line : Byte) : KeepsSound s (blockReleaseLine p line s).1 := by
  refine State.withOwnLine_cases (P := fun x => KeepsSound s x.1) (fun _ => refl s) fun l _ => ?_
  refine ite_fst (fun _ => refl s) fun unpinned => ite_fst (fun _ => refl s) fun unnamed => ?_
  refine (refl s).setLine l (fun sound => sound.consistent.released (Bool.eq_false_iff.2 unpinned)) fun _ i b hb names => ?_
  rw [State.body_of_countEntries_eq_zero (not_not.1 unnamed) hb] at names
  cases names

theorem blockPinLine (p : Port) (line : Byte) : KeepsSound s (blockPinLine p line s).1 := by
  refine State.withOwnLine_cases (P := fun x => KeepsSound s x.1) (fun _ => refl s) fun l own => ?_
  refine (refl s).moveLine l (x := { s.line l with pinned := true }) rfl fun sound => ?_
  have ok := sound.consistent
  exact ⟨fun _ => by rw [own]; nofun, ok.unownedIdle, ok.widthRange, ok.limitRange, ok.pulse, ok.hold, ok.unlimited⟩

theorem blockConfigureLine (p : Port) (line idle : Byte) (w h : BitVec 16) :
    KeepsSound s (blockConfigureLine p line idle w h s).1 := by
  unfold Sys2Proof.Machine.blockConfigureLine
  split
  next level _ _ =>
    refine ite_fst (fun _ => refl s) fun wide => ?_
    refine State.withOwnLine_cases (P := fun x => KeepsSound s x.1) (fun _ => refl s) fun l own => ?_
    unfold State.configureLine
    split
    next off =>
      refine (refl s).moveLine l (x := (s.line l).configured level w.toNat h.toNat) rfl fun sound => ?_
      have ok := sound.consistent
      have width : w.toNat ≠ 0 := fun zero => wide (BitVec.eq_of_toNat_eq zero)
      refine ⟨ok.pinnedOwned, ok.unownedIdle, ⟨Nat.pos_of_ne_zero width, Nat.le_of_lt_succ w.isLt⟩,
        Nat.le_of_lt_succ h.isLt, ?_, ?_, ?_⟩ <;> dsimp only [Line.configured] <;> rw [off] <;> nofun
    all_goals exact refl s
  all_goals exact refl s

theorem blockDriveLine (p : Port) (line action : Byte) : KeepsSound s (blockDriveLine p line action s).1 := by
  unfold Sys2Proof.Machine.blockDriveLine
  split
  next a _ _ =>
    refine State.withOwnLine_cases (P := fun x => KeepsSound s x.1) (fun _ => refl s) fun l own => ?_
    have owned : (s.line l).owner ≠ none := by rw [own]; nofun
    have driven : KeepsSound s (s.applyAction l a (.drive p)) :=
      (refl s).moveLine l rfl fun sound => sound.consistent.actedOn owned ..
    exact driven
  all_goals exact refl s

/-! ## The requests of the capture unit (R135 to R141) -/

theorem blockClaimChannel (p : Port) (channel : Byte) : KeepsSound s (blockClaimChannel p channel s).1 := by
  unfold Sys2Proof.Machine.blockClaimChannel State.withChannel
  split
  · exact refl s
  next c _ =>
    dsimp only
    split
    next free =>
      refine (refl s).setChannel c (fun sound => ?_) fun sound i b hb names => ?_
      · have ok := sound.consistent
        exact ⟨nofun, ok.reloadRange, ok.counterRange, ok.levelRange, ok.sourceBelow, ok.phase⟩
      · rw [sound.owned i b hb names] at free; cases free
    · exact ite_fst (fun _ => refl s) fun _ => refl s

theorem blockReleaseChannel (p : Port) (channel : Byte) : KeepsSound s (blockReleaseChannel p channel s).1 := by
  refine State.withOwnChannel_cases (P := fun x => KeepsSound s x.1) (fun _ => refl s) fun c _ => ?_
  refine ite_fst (fun _ => refl s) fun unnamed => ?_
  have released : KeepsSound s (s.setChannel c (s.channel c).released) := by
    refine (refl s).setChannel c (fun sound => sound.consistent.released) fun _ i b hb names => ?_
    rw [State.body_of_countEntries_eq_zero (not_not.1 unnamed) hb] at names
    cases names
  exact released.endGone s

/-- A flag, a run state and a configuration that an owner gives its channel. -/
theorem ownChannelMoves {p : Port} {c : ChanNo} (own : (s.channel c).owner = some p) {x : Channel}
    (owner : x.owner = (s.channel c).owner)
    (ranges : (s.channel c).Consistent c → (1 ≤ x.reload ∧ x.reload ≤ 65535) ∧ (1 ≤ x.counter ∧ x.counter ≤ 65535) ∧
      (1 ≤ x.level ∧ x.level ≤ 7) ∧ ∀ d, x.source = .channel d → d.val < c.val)
    (phase : (s.channel c).Consistent c → x.measuring.isSome = true →
      x.running = true ∧ (x.mode = .period ∨ x.mode = .width)) :
    KeepsSound s (s.setChannel c x) :=
  (refl s).moveChannel c owner fun sound => by
    obtain ⟨reload, counter, level, source⟩ := ranges sound.consistent
    exact ⟨fun none => absurd (own.symm.trans (owner.symm.trans none)) nofun, reload, counter, level, source,
      phase sound.consistent⟩

theorem blockShareChannel (p : Port) (channel flag : Byte) : KeepsSound s (blockShareChannel p channel flag s).1 := by
  unfold Sys2Proof.Machine.blockShareChannel
  split
  next share _ _ =>
    refine State.withOwnChannel_cases (P := fun x => KeepsSound s x.1) (fun _ => refl s) fun c own => ?_
    have shared : ∀ x, KeepsSound s (s.setChannel c { s.channel c with shareable := x }) := fun x =>
      ownChannelMoves own rfl (fun ok => ⟨ok.reloadRange, ok.counterRange, ok.levelRange, ok.sourceBelow⟩) fun ok => ok.phase
    exact (shared true).ite (((shared false).next (State.endSubs_only ..)).ite (refl s))
  all_goals exact refl s

theorem blockConfigureChannel (p : Port) (c m e src l : Byte) : KeepsSound s (blockConfigureChannel p c m e src l s).1 := by
  unfold Sys2Proof.Machine.blockConfigureChannel
  split
  · exact refl s
  next k hk =>
    obtain ⟨level, below⟩ := channelConfigOf_spec hk
    refine ite_fst (fun _ => refl s) fun own => ite_fst (fun _ => refl s) fun stopped => ite_fst (fun _ => refl s) fun _ => ?_
    exact ownChannelMoves (not_not.1 own) rfl (fun ok => ⟨ok.reloadRange, ok.counterRange, level, below⟩) fun ok measures =>
      absurd (ok.phase measures).1 stopped

theorem blockStartChannel (p : Port) (channel : Byte) : KeepsSound s (blockStartChannel p channel s).1 := by
  refine State.withOwnChannel_cases (P := fun x => KeepsSound s x.1) (fun _ => refl s) fun c own => ?_
  have started : KeepsSound s (s.setChannel c (s.channel c).started) := by
    unfold Channel.started
    split
    · exact (refl s).moveChannel c rfl fun sound => sound.consistent
    · exact ownChannelMoves own rfl (fun ok => ⟨ok.reloadRange, ok.counterRange, ok.levelRange, ok.sourceBelow⟩)
        fun _ => nofun
  exact started

theorem blockStopChannel (p : Port) (channel : Byte) : KeepsSound s (blockStopChannel p channel s).1 := by
  refine State.withOwnChannel_cases (P := fun x => KeepsSound s x.1) (fun _ => refl s) fun c own => ?_
  have stopped : KeepsSound s (s.setChannel c (s.channel c).stopped) :=
    ownChannelMoves own rfl (fun ok => ⟨ok.reloadRange, ok.counterRange, ok.levelRange, ok.sourceBelow⟩) fun _ => nofun
  exact stopped

theorem blockSetReload (p : Port) (channel : Byte) (reload : BitVec 16) :
    KeepsSound s (blockSetReload p channel reload s).1 := by
  refine ite_fst (fun _ => refl s) fun nonzero => ?_
  have range : 1 ≤ reload.toNat ∧ reload.toNat ≤ 65535 :=
    ⟨Nat.pos_of_ne_zero fun zero => nonzero (BitVec.eq_of_toNat_eq zero), Nat.le_of_lt_succ reload.isLt⟩
  refine State.withOwnChannel_cases (P := fun x => KeepsSound s x.1) (fun _ => refl s) fun c own => ?_
  have reloaded : KeepsSound s (s.setChannel c ((s.channel c).reloaded reload.toNat)) := by
    refine ownChannelMoves own rfl (fun ok => ⟨range, ?_, ok.levelRange, ok.sourceBelow⟩) fun ok => ok.phase
    unfold Channel.reloaded
    dsimp only
    split
    · exact ok.counterRange
    · exact range
  exact reloaded

end KeepsSound

/-! ## A port that gives everything up (R86, R129, R151, R182) -/

/-- The entries of a port are freed, and the others as they were (R86). -/
theorem State.entry_freeEntriesOf (s : State) (p : Port) (i : EntryIx) :
    (s.freeEntriesOf p).entry i =
      if (s.entry i).body.any (fun b => decide (b.owner = p)) = true then { inst := (s.entry i).inst, body := none }
      else s.entry i := by
  have h := foldl_each (get := State.entry)
    (f := fun t i => if (State.entry t i).body.any (fun b => decide (b.owner = p)) then t.vacate i else t)
    (g := fun _ e => if e.body.any (fun b => decide (b.owner = p)) = true then { inst := e.inst, body := none } else e)
    (fun t i j => by
      split
      · exact t.entry_vacate i j
      · split
        next e => rw [e]
        · rfl) allEntries nodup_allEntries s i
  rw [if_pos (mem_allEntries i)] at h
  exact h

/-- The channels of a port are released, and the others as they were (R151). -/
theorem State.channel_releaseChannels (s : State) (p : Port) (c : ChanNo) :
    (s.releaseChannels p).channel c = if (s.channel c).owner = some p then (s.channel c).released else s.channel c := by
  have h := foldl_each (get := State.channel)
    (f := fun t c => if (State.channel t c).owner = some p then t.setChannel c (t.channel c).released else t)
    (g := fun _ x => if x.owner = some p then x.released else x)
    (fun t c d => by
      split
      · exact t.channel_setChannel c d _
      · split
        next e => rw [e]
        · rfl) allChannels nodup_allChannels s c
  rw [if_pos (mem_allChannels c)] at h
  exact h

/-- No entry is a port's after its entries are freed. -/
theorem State.owner_freeEntriesOf {s : State} {p : Port} {i : EntryIx} {b : Body}
    (hb : ((s.freeEntriesOf p).entry i).body = some b) : b.owner ≠ p := by
  rw [State.entry_freeEntriesOf] at hb
  split at hb
  · cases hb
  next other => rw [hb] at other; exact fun own => other (decide_eq_true own)

namespace KeepsSound

variable {s t : State}

/-- The lines and the channels of a port that owns no entry are released. -/
theorem releases (h : KeepsSound s t) {p : Port} (free : ∀ i b, (t.entry i).body = some b → b.owner ≠ p) :
    KeepsSound s ((t.releaseLines p).releaseChannels p) := by
  have entries : ∀ i, ((t.releaseLines p).releaseChannels p).entry i = t.entry i := fun i =>
    (State.releaseChannels_only ..).entry i |>.trans ((t.releaseLines_only p).entry i)
  have lines : ∀ l, ((t.releaseLines p).releaseChannels p).line l = _ := fun l =>
    ((State.releaseChannels_only _ p).line l).trans (t.line_releaseLines p l)
  have channels : ∀ c, ((t.releaseLines p).releaseChannels p).channel c = _ := fun c =>
    (State.channel_releaseChannels _ p c)
  refine h.trans ⟨fun l sound => ⟨?_, fun i b hb names => ?_⟩, fun c sound => ⟨?_, fun i b hb names => ?_⟩⟩
  · rw [lines]
    split
    next own => exact sound.consistent.released own.2
    · exact sound.consistent
  · rw [entries] at hb
    have owner := sound.owned i b hb names
    rw [lines, if_neg fun own => free i b hb (Option.some.inj (owner.symm.trans own.1))]
    exact owner
  · rw [channels, (t.releaseLines_only p).channel c]
    split
    · exact sound.consistent.released
    · exact sound.consistent
  · rw [entries] at hb
    have owner := sound.owned i b hb names
    rw [channels, (t.releaseLines_only p).channel c,
      if_neg fun own => free i b hb (Option.some.inj (owner.symm.trans own))]
    exact owner

theorem freeEntriesOf (h : KeepsSound s t) (p : Port) : KeepsSound s (t.freeEntriesOf p) :=
  foldl (fun _ i k => (k.vacate i).ite k) _ h

theorem giveUp (h : KeepsSound s t) (p : Port) : KeepsSound s (t.giveUp p) :=
  ((((h.freeEntriesOf p).releases fun _ _ => State.owner_freeEntriesOf).endGone t).next (State.dropSubs_only ..)).next
    (State.releaseAuthorityOf_only ..)

theorem portGone (h : KeepsSound s t) (p : Port) : KeepsSound s (t.portGone p) :=
  (((h.next (State.setPort_only t p _)).giveUp p).next (State.abandonWalk_only ..)).next (State.setPort_only ..)

theorem blockDetach (p : Port) : KeepsSound s (blockDetach p s).1 :=
  (((((refl s).next (State.setPort_only s p _)).giveUp p).next (State.setPort_only ..)).next (State.setPort_only ..)).next
    (State.setPort_only ..)

/-! ## The resets (R131, R152, R185) -/

/-- In reset every line and every channel is at its reset value, and no entry is in use. -/
theorem of_held (s : State) {t : State} (h : HeldInReset t) : KeepsSound s t := by
  refine ⟨fun l _ => ⟨?_, fun i b hb => ?_⟩, fun c _ => ⟨?_, fun i b hb => ?_⟩⟩
  · rw [h.lines]; exact Line.reset_consistent
  · rw [h.entries] at hb; cases hb
  · rw [h.channels]; exact ⟨fun _ => ⟨rfl, rfl⟩, by decide, by decide, by decide, nofun, nofun⟩
  · rw [h.entries] at hb; cases hb

theorem leaveReset (h : KeepsSound s t) (straps : BitVec 3) : KeepsSound s (t.leaveReset straps) := by
  have only := t.leaveReset_only straps
  refine h.trans ⟨fun l sound => ⟨?_, fun i b hb => ?_⟩, fun c sound => ⟨?_, fun i b hb => ?_⟩⟩
  · rw [only.line]; exact sound.consistent
  · rw [only.line]; exact sound.owned i b (only.entry i ▸ hb)
  · rw [State.channel_leaveReset]; exact sound.consistent.measures _ _ sound.consistent.phase
  · rw [State.channel_leaveReset]; exact sound.owned i b (only.entry i ▸ hb)

theorem powerOn (s t : State) (straps : BitVec 3) (causes : BitVec 5) : KeepsSound s (t.powerOn straps causes) := by
  have up : KeepsSound s { t.resetMain with pins := { t.pins with mainSupply := true }, leaveCauses := causes } :=
    (of_held s t.resetMain_held).same (fun _ => rfl) (fun _ => rfl) fun _ => rfl
  exact up.ite (up.leaveReset straps)

/-! ## Every command -/

theorem request (p : Port) (n : Nat) {block : State → State × Option Response} (keeps : ∀ u, KeepsSound u (block u).1) :
    KeepsSound s (s.request p n block) := by
  have shifted : ∀ bs, KeepsSound s (s.shiftOut p bs) := fun bs => (refl s).next (State.setPort_only ..)
  unfold State.request
  split
  · exact shifted _
  · exact shifted _
  · have kept := (shifted ((s.port p).requestMiso (n + 3))).trans (keeps _)
    split <;> rename_i e <;> rw [e] at kept
    · exact kept.next (State.setPort_only ..)
    · exact kept

end KeepsSound

/-- Every command but a transaction's bytes leaves the lines and the channels sound: those that reach them or the table by
their own lemmas, the rest by what they leave unchanged. -/
theorem exec_keepsSound_proper {i : Instr} {s t : State} (proper : ∀ p bs inc, i ≠ .badRequest p bs inc)
    (h : exec i s = .next t) : KeepsSound s t := by
  have frame := exec_changes_proper h proper
  have same : KeepsSound s s := .refl s
  cases i
  all_goals dsimp only [commandParts] at frame
  case setTime p sec us => cases h; exact .request p _ fun _ => .blockSetTime p sec us
  case step p amount => cases h; exact .request p _ fun _ => .blockStep p amount
  case armEntry p f => cases h; exact .request p _ fun _ => .blockArmEntry p f
  case retimeEntry p a b d late => cases h; exact .request p _ fun _ => .blockRetimeEntry p a b d late
  case holdEntry p a b => cases h; exact .request p _ fun _ => .blockHoldEntry p a b
  case unholdEntry p a b => cases h; exact .request p _ fun _ => .blockUnholdEntry p a b
  case cancelEntry p a b => cases h; exact .request p _ fun _ => .blockCancelEntry p a b
  case setQuota p a q => cases h; exact .request p _ fun _ => .blockSetQuota p a q
  case claimLine p l => cases h; exact .request p _ fun _ => .blockClaimLine p l
  case releaseLine p l => cases h; exact .request p _ fun _ => .blockReleaseLine p l
  case pinLine p l => cases h; exact .request p _ fun _ => .blockPinLine p l
  case configureLine p l idle w limit => cases h; exact .request p _ fun _ => .blockConfigureLine p l idle w limit
  case driveLine p l a => cases h; exact .request p _ fun _ => .blockDriveLine p l a
  case claimChannel p c => cases h; exact .request p _ fun _ => .blockClaimChannel p c
  case releaseChannel p c => cases h; exact .request p _ fun _ => .blockReleaseChannel p c
  case shareChannel p c f => cases h; exact .request p _ fun _ => .blockShareChannel p c f
  case configureChannel p c m e src l => cases h; exact .request p _ fun _ => .blockConfigureChannel p c m e src l
  case startChannel p c => cases h; exact .request p _ fun _ => .blockStartChannel p c
  case stopChannel p c => cases h; exact .request p _ fun _ => .blockStopChannel p c
  case setReload p c r => cases h; exact .request p _ fun _ => .blockSetReload p c r
  case detach p => cases h; exact .request p _ fun _ => .blockDetach p
  case portReset p =>
    cases h
    have low := same.next (s.setPrst_only p .low)
    exact (low.portGone p).ite low
  case deviceReset =>
    cases h
    exact (KeepsSound.of_held s s.takeReset_held.1).ite (same.next (s.holdReset_only true))
  case partLeavesReset straps =>
    cases h
    have left := same.next (s.holdReset_only false)
    exact ((left.leaveReset straps).ite left).ite same
  case powerOnRetained straps | powerOnBackupLost straps => cases h; exact (KeepsSound.powerOn ..).ite same
  case mainSupplyLoss => cases h; exact (KeepsSound.of_held s s.losePower_held.1).ite same
  case timebaseAdvance part =>
    cases h
    cases part with
    | whole first | count first => exact same.micro ..
    | firings first => exact same.finishAdvance first
  case slewBlockEnd part | slewEnd part =>
    cases h
    cases part with
    | whole first | count first => exact (same.runMicro ..).ite same
    | firings first => exact same.finishAdvance first
  case pulseEnd l => cases h; exact (same.endPulse l).ite same
  case holdExpiry l => cases h; exact (same.expireHold l).ite same
  case capturePinChange c x => cases h; exact (same.filterRaw c x).ite (same.next (s.setRaw_only c x))
  case edgeTaken c => cases h; exact (same.takeEdge c).ite same
  case measurementOverflow c => cases h; exact (same.overflowMeasure c).ite same
  case counterExpiry c => cases h; exact (same.countEvent c).ite same
  case badRequest p bs inc => exact absurd rfl (proper p bs inc)
  all_goals exact same.next frame

/-- Every step leaves the lines and the channels sound. -/
theorem step_keepsSound {s t : State} (h : step s = .next t) : KeepsSound s t := by
  refine step_keeps (P := KeepsSound s) (Q := fun _ => True) (fun _ _ k => k.same (fun _ => rfl) (fun _ => rfl) fun _ => rfl)
    (fun _ _ => id) (fun _ u v run _ k => ?_) h trivial (.refl s)
  exact exec_keeps (P := KeepsSound s) (Q := fun _ => True) (fun _ _ only k => k.next only)
    (fun _ _ _ proper run _ k => k.trans (exec_keepsSound_proper proper run)) run trivial k

/-- Settles O58: a line that is sound before a step is so after it. -/
theorem stepsKeepLinesConsistent : Obligations.StepsKeepLinesConsistent := fun _ _ before h =>
  linesConsistent_iff.2 fun l => (step_keepsSound h).lines l (linesConsistent_iff.1 before l)

/-- Settles O59: a channel that is sound before a step is so after it. -/
theorem stepsKeepChannelsConsistent : Obligations.StepsKeepChannelsConsistent := fun _ _ before h =>
  channelsConsistent_iff.2 fun c => (step_keepsSound h).channels c (channelsConsistent_iff.1 before c)

end Sys2Proof.Machine
end

section
/-! The operands of the requests of the schedule unit: a definition block and the definition that it spells, and the
fields of ARM_ENTRY and the request that they make (R61, R73, R74, R189). -/

namespace Sys2Proof.Machine

/-! ## Bytes and codes (R187) -/

theorem byteOf_toNat (b : Byte) : byteOf b.toNat = b := by
  unfold byteOf; rw [BitVec.ofNat_toNat, BitVec.setWidth_eq]

theorem Byte.toNat_le_one {b : Byte} : b.toNat ≤ 1 ↔ b = 0 ∨ b = 1 := by
  constructor
  · intro h; bv_omega
  · rintro (rfl | rfl) <;> decide

theorem flagOf_eq (b : Byte) : flagOf b = if b.toNat ≤ 1 then some (decide (b = 1)) else none := by
  unfold flagOf
  by_cases zero : b = 0
  · subst zero; rfl
  · by_cases one : b = 1
    · subst one; rfl
    · rw [if_neg zero, if_neg one, if_neg fun le => (Byte.toNat_le_one.1 le).elim zero one]

theorem levelOf_eq (b : Byte) : levelOf b = if 1 ≤ b.toNat ∧ b.toNat ≤ 7 then some b.toNat else none := rfl

theorem actionOf_isSome (b : Byte) : (actionOf b).isSome = decide (b.toNat < 4) := by
  unfold actionOf
  split
  next h => rw [h]; rfl
  next h => rw [h]; rfl
  next h => rw [h]; rfl
  next h => rw [h]; rfl
  next h0 h1 h2 h3 =>
    refine (decide_eq_false fun lt => ?_).symm
    have cases : b.toNat = 0 ∨ b.toNat = 1 ∨ b.toNat = 2 ∨ b.toNat = 3 := by omega
    rcases cases with h | h | h | h
    exacts [h0 h, h1 h, h2 h, h3 h]

theorem policyOf_spec {b : Byte} {x : Retrigger} (h : policyOf b = some x) : b.toNat ≤ 1 ∧ byteOf x.code = b := by
  unfold policyOf at h
  split at h
  next e => cases h; subst e; exact ⟨by decide, rfl⟩
  · split at h
    next e => cases h; subst e; exact ⟨by decide, rfl⟩
    · cases h

theorem policyOf_none {b : Byte} (h : policyOf b = none) : ¬ b.toNat ≤ 1 := by
  rintro le
  obtain rfl | rfl := Byte.toNat_le_one.1 le <;> cases h

/-! ## A definition block (R61, R189) -/

theorem targetOf_spec {s : BitVec 32} {m : BitVec 24} {t : Nat} (h : targetOf s m = some t) :
    (s.toNat ≤ 3155759999 ∧ m.toNat ≤ 999999) ∧ timeBytes t = bytesBE 4 s.toNat ++ bytesBE 3 m.toNat := by
  unfold targetOf at h
  split at h
  next within =>
    cases h
    refine ⟨within, ?_⟩
    unfold timeBytes secondsOf microsOf
    rw [show (s.toNat * 1000000 + m.toNat) / 1000000 = s.toNat by omega,
      show (s.toNat * 1000000 + m.toNat) % 1000000 = m.toNat by omega]
  · cases h

theorem targetOf_none {s : BitVec 32} {m : BitVec 24} (h : targetOf s m = none) :
    ¬ (s.toNat ≤ 3155759999 ∧ m.toNat ≤ 999999) := by
  unfold targetOf at h
  split at h
  · cases h
  next beyond => exact beyond

theorem patternFieldOf_spec {lo hi : Nat} {b : Byte} {f : Option Nat} (h : patternFieldOf lo hi b = some f) :
    (b = 0xFF ∨ lo ≤ b.toNat ∧ b.toNat ≤ hi) ∧ patternByte f = b := by
  unfold patternFieldOf at h
  split at h
  next absent => cases h; exact ⟨.inl absent, absent.symm⟩
  · split at h
    next within => cases h; exact ⟨.inr within, byteOf_toNat b⟩
    · cases h

theorem patternFieldOf_isSome (lo hi : Nat) (b : Byte) :
    (patternFieldOf lo hi b).isSome = decide (b = 0xFF ∨ lo ≤ b.toNat ∧ b.toNat ≤ hi) := by
  unfold patternFieldOf
  by_cases absent : b = 0xFF
  · rw [if_pos absent]; exact (decide_eq_true (.inl absent)).symm
  · rw [if_neg absent]
    by_cases within : lo ≤ b.toNat ∧ b.toNat ≤ hi
    · rw [if_pos within]; exact (decide_eq_true (.inr within)).symm
    · rw [if_neg within]; exact (decide_eq_false fun h => h.elim absent within).symm

/-- The pattern of a CALENDAR block, field by field. -/
theorem patternOf_eq_some {mo d w h mi s : Byte} {p : Pattern} :
    patternOf mo d w h mi s = some p ↔
      patternFieldOf 1 12 mo = some p.month ∧ patternFieldOf 1 31 d = some p.day ∧ patternFieldOf 1 7 w = some p.weekday ∧
        patternFieldOf 0 23 h = some p.hour ∧ patternFieldOf 0 59 mi = some p.minute ∧
        patternFieldOf 0 59 s = some p.second := by
  unfold patternOf
  simp only [Option.bind_eq_bind, Option.bind_eq_some_iff, Option.pure_def]
  constructor
  · rintro ⟨a, ha, b, hb, c, hc, e, he, f, hf, g, hg, made⟩
    cases made
    exact ⟨ha, hb, hc, he, hf, hg⟩
  · rintro ⟨ha, hb, hc, he, hf, hg⟩
    exact ⟨_, ha, _, hb, _, hc, _, he, _, hf, _, hg, rfl⟩

/-- What a block spells has the block's kind and bytes, and a block that spells a definition is within its ranges. -/
structure BlockSpells (block : DefBlock) (d : Definition) : Prop where
  inRange : blockInRange block = true
  kind : byteOf d.code = block.kind
  bytes : d.block = block.bytes

theorem definitionOf_spells {block : DefBlock} {d : Definition} (h : definitionOf block = some d) :
    BlockSpells block d := by
  cases block with
  | atTime s m =>
    obtain ⟨t, ht, rfl⟩ := Option.map_eq_some_iff.1 h
    obtain ⟨within, bytes⟩ := targetOf_spec ht
    exact ⟨decide_eq_true within, rfl, bytes⟩
  | every s m p =>
    unfold definitionOf at h
    dsimp only at h
    split at h
    next a ha =>
      split at h
      next long =>
        cases h
        obtain ⟨within, bytes⟩ := targetOf_spec ha
        exact ⟨decide_eq_true ⟨within.1, within.2, long⟩, rfl, congrArg (· ++ bytesBE 4 p.toNat) bytes⟩
      · cases h
    · cases h
  | calendar mo d w hh mi s o =>
    unfold definitionOf at h
    dsimp only at h
    split at h
    next pat hp =>
      split at h
      next micros =>
        cases h
        obtain ⟨h1, h2, h3, h4, h5, h6⟩ := patternOf_eq_some.1 hp
        have s1 := patternFieldOf_spec h1
        have s2 := patternFieldOf_spec h2
        have s3 := patternFieldOf_spec h3
        have s4 := patternFieldOf_spec h4
        have s5 := patternFieldOf_spec h5
        have s6 := patternFieldOf_spec h6
        refine ⟨decide_eq_true ⟨s1.1, s2.1, s3.1, s4.1.imp_right And.right, s5.1.imp_right And.right,
          s6.1.imp_right And.right, micros⟩, rfl, ?_⟩
        unfold Definition.block DefBlock.bytes
        dsimp only
        rw [s1.2, s2.2, s3.2, s4.2, s5.2, s6.2]
      · cases h
    · cases h
  | after c k y pol =>
    unfold definitionOf at h
    dsimp only at h
    split at h
    next ch po hc hp =>
      split at h
      next kinds =>
        cases h
        obtain ⟨le, code⟩ := policyOf_spec hp
        unfold channelOf at hc
        split at hc
        next lt =>
          cases hc
          obtain ⟨nonempty, capture⟩ := Bool.and_eq_true_iff.1 kinds
          refine ⟨decide_eq_true ⟨Nat.le_of_lt_succ lt, bne_iff_ne.1 nonempty, by simpa using capture, le⟩, rfl, ?_⟩
          unfold Definition.block DefBlock.bytes
          dsimp only
          rw [byteOf_toNat, code]
        · cases hc
      · cases h
    · cases h
  | unknown k => cases h

/-- A block within its ranges spells a definition. -/
theorem exists_definitionOf {block : DefBlock} (h : blockInRange block = true) : ∃ d, definitionOf block = some d := by
  cases block with
  | atTime s m =>
    have within := of_decide_eq_true h
    exact ⟨_, by unfold definitionOf targetOf; dsimp only; rw [if_pos within]; rfl⟩
  | every s m p =>
    obtain ⟨hs, hm, hp⟩ := of_decide_eq_true h
    exact ⟨_, by unfold definitionOf targetOf; dsimp only; rw [if_pos ⟨hs, hm⟩]; exact if_pos hp⟩
  | calendar mo d w hh mi s o =>
    obtain ⟨h1, h2, h3, h4, h5, h6, ho⟩ := of_decide_eq_true h
    have field : ∀ {lo hi : Nat} {b : Byte}, (b = 0xFF ∨ lo ≤ b.toNat ∧ b.toNat ≤ hi) →
        ∃ f, patternFieldOf lo hi b = some f :=
      fun h => Option.isSome_iff_exists.1 ((patternFieldOf_isSome ..).trans (decide_eq_true h))
    obtain ⟨f1, e1⟩ := field h1
    obtain ⟨f2, e2⟩ := field h2
    obtain ⟨f3, e3⟩ := field h3
    obtain ⟨f4, e4⟩ := field (h4.imp_right fun le => ⟨Nat.zero_le _, le⟩)
    obtain ⟨f5, e5⟩ := field (h5.imp_right fun le => ⟨Nat.zero_le _, le⟩)
    obtain ⟨f6, e6⟩ := field (h6.imp_right fun le => ⟨Nat.zero_le _, le⟩)
    have pattern := patternOf_eq_some (p := ⟨f1, f2, f3, f4, f5, f6⟩) |>.2 ⟨e1, e2, e3, e4, e5, e6⟩
    exact ⟨_, by unfold definitionOf; dsimp only; rw [pattern]; exact if_pos ho⟩
  | after c k y pol =>
    obtain ⟨hc, hk, hb, hp⟩ := of_decide_eq_true h
    have kinds : captureKinds k = true := by
      unfold captureKinds
      rw [hb]
      simpa using hk
    cases e : policyOf pol with
    | none => exact absurd hp (policyOf_none e)
    | some po =>
      refine ⟨.after ⟨c.toNat, Nat.lt_succ_of_le hc⟩ k y.toNat po, ?_⟩
      unfold definitionOf channelOf
      dsimp only
      rw [dif_pos (Nat.lt_succ_of_le hc), e]
      exact if_pos kinds
  | unknown k => cases h

theorem definitionOf_none {block : DefBlock} (h : blockInRange block = false) : definitionOf block = none := by
  cases e : definitionOf block with
  | none => rfl
  | some d => exact Bool.noConfusion ((definitionOf_spells e).inRange.symm.trans h)

theorem BlockSpells.isAt {block : DefBlock} {d : Definition} (h : BlockSpells block d) :
    d.isAt = decide (block.kind = 0) := by
  rw [← h.kind]
  cases d <;> rfl

/-! ## The fields of ARM_ENTRY (R73, R74 step 1) -/

theorem OptField.read_zero {n : Nat} {o : OptField n} (h : o.presence = 0) : OptField.read o = some none := if_pos h

theorem OptField.read_one {n : Nat} {o : OptField n} (h : o.presence = 1) : OptField.read o = some (some o.value) := by
  unfold OptField.read
  rw [if_neg (by rw [h]; decide), if_pos h]

theorem OptField.read_other {n : Nat} {o : OptField n} (zero : ¬ o.presence = 0) (one : ¬ o.presence = 1) :
    OptField.read o = none := by
  unfold OptField.read
  rw [if_neg zero, if_neg one]

theorem remainingOf_eq (o : OptField 16) :
    remainingOf o = if o.presence = 0 ∨ o.presence = 1 ∧ o.value ≠ 0 then
      some (if o.presence = 1 then some o.value.toNat else none) else none := by
  unfold remainingOf
  by_cases zero : o.presence = 0
  · rw [OptField.read_zero zero, if_pos (.inl zero), if_neg (by rw [zero]; decide)]
  · by_cases one : o.presence = 1
    · rw [OptField.read_one one, if_pos one]
      by_cases value : o.value = 0
      · rw [if_neg fun h => h.elim zero fun k => k.2 value]
        exact if_pos value
      · rw [if_pos (.inr ⟨one, value⟩)]
        exact if_neg value
    · rw [OptField.read_other zero one, if_neg fun h => h.elim zero fun k => one k.1]

theorem recordOf_eq (o : OptField 8) :
    recordOf o = if o.presence = 0 ∨ o.presence = 1 ∧ 1 ≤ o.value.toNat ∧ o.value.toNat ≤ 7 then
      some (if o.presence = 1 then some o.value.toNat else none) else none := by
  unfold recordOf
  by_cases zero : o.presence = 0
  · rw [OptField.read_zero zero, if_pos (.inl zero), if_neg (by rw [zero]; decide)]
  · by_cases one : o.presence = 1
    · rw [OptField.read_one one, if_pos one]
      dsimp only
      rw [levelOf_eq]
      by_cases level : 1 ≤ o.value.toNat ∧ o.value.toNat ≤ 7
      · rw [if_pos level, if_pos (.inr ⟨one, level⟩)]
        rfl
      · rw [if_neg level, if_neg fun h => h.elim zero fun k => level k.2]
        rfl
    · rw [OptField.read_other zero one, if_neg fun h => h.elim zero fun k => one k.1]

/-- The line action that ARM_ENTRY's fields spell (R73). -/
def armedLine (f : ArmFields) : Option (LineNo × LineAction) :=
  if h : f.linePresence = 1 ∧ f.line.toNat < 16 then (actionOf f.action).map fun a => (⟨f.line.toNat, h.2⟩, a) else none

theorem lineActionOf_eq (f : ArmFields) :
    lineActionOf f.linePresence f.line f.action =
      if f.linePresence = 0 ∨ f.linePresence = 1 ∧ f.line.toNat < 16 ∧ f.action.toNat < 4 then some (armedLine f)
      else none := by
  have action := actionOf_isSome f.action
  unfold lineActionOf lineOf armedLine
  by_cases zero : f.linePresence = 0
  · rw [if_pos zero, if_pos (.inl zero), dif_neg (by rw [zero]; exact fun h => absurd h.1 (by decide))]
  · rw [if_neg zero]
    by_cases one : f.linePresence = 1
    · rw [if_pos one]
      by_cases line : f.line.toNat < 16
      · rw [dif_pos line, dif_pos ⟨one, line⟩]
        cases e : actionOf f.action with
        | none =>
          rw [e] at action
          rw [if_neg fun h => h.elim zero fun k => of_decide_eq_false action.symm k.2.2]
        | some a =>
          rw [e] at action
          rw [if_pos (.inr ⟨one, line, of_decide_eq_true action.symm⟩)]
          rfl
      · rw [dif_neg line, if_neg fun h => h.elim zero fun k => line k.2.1]
    · rw [if_neg one, if_neg fun h => h.elim zero fun k => one k.1]

/-- The request that ARM_ENTRY's fields make with a definition (R73). -/
def armedRequest (f : ArmFields) (d : Definition) : ArmRequest :=
  { defn := d, lateOk := decide (f.lateOk = 1),
    remaining := if f.remaining.presence = 1 then some f.remaining.value.toNat else none, line := armedLine f,
    record := if f.record.presence = 1 then some f.record.value.toNat else none, shareable := decide (f.shareable = 1),
    tag := f.tag, keep := decide (f.keep = 1) }

/-- What ARM_ENTRY's fields and a definition of their block say of step 1 of R74, past the ranges of the block. -/
def ArmFieldsFit (f : ArmFields) : Prop :=
  f.lateOk.toNat ≤ 1 ∧ (f.lateOk = 1 → f.defn.kind = 0) ∧
    (f.remaining.presence = 0 ∨ f.remaining.presence = 1 ∧ f.remaining.value ≠ 0 ∧ f.defn.kind ≠ 0) ∧
    (f.linePresence = 0 ∨ f.linePresence = 1 ∧ f.line.toNat < 16 ∧ f.action.toNat < 4) ∧
    (f.record.presence = 0 ∨ f.record.presence = 1 ∧ 1 ≤ f.record.value.toNat ∧ f.record.value.toNat ≤ 7) ∧
    f.shareable.toNat ≤ 1 ∧ f.keep.toNat ≤ 1 ∧ (f.linePresence = 1 ∨ f.record.presence = 1)

theorem armAcceptable_iff (f : ArmFields) : armAcceptable f = true ↔ blockInRange f.defn = true ∧ ArmFieldsFit f := by
  unfold armAcceptable ArmFieldsFit
  rw [Bool.and_eq_true, decide_eq_true_iff]

/-- The line action is there where its presence byte is 1 and its fields are in their ranges. -/
theorem armedLine_isNone {f : ArmFields}
    (h : f.linePresence = 0 ∨ f.linePresence = 1 ∧ f.line.toNat < 16 ∧ f.action.toNat < 4) :
    (armedLine f).isNone = !decide (f.linePresence = 1) := by
  have action := actionOf_isSome f.action
  unfold armedLine
  obtain zero | ⟨one, line, act⟩ := h
  · rw [dif_neg (by rw [zero]; exact fun h => absurd h.1 (by decide)), zero]
    rfl
  · rw [decide_eq_true act] at action
    obtain ⟨a, e⟩ := Option.isSome_iff_exists.1 action
    rw [dif_pos ⟨one, line⟩, e, decide_eq_true one]
    rfl

/-- The last check of step 1 of R74 on what the fields make: a remaining count for AT, late-ok for another kind, or no
action. -/
theorem armRequestOf_guard_iff {f : ArmFields} {d : Definition} (spells : BlockSpells f.defn d)
    (line : f.linePresence = 0 ∨ f.linePresence = 1 ∧ f.line.toNat < 16 ∧ f.action.toNat < 4) :
    (d.isAt && (armedRequest f d).remaining.isSome || !d.isAt && (armedRequest f d).lateOk ||
        (armedRequest f d).line.isNone && (armedRequest f d).record.isNone) = true ↔
      (f.defn.kind = 0 ∧ f.remaining.presence = 1 ∨ ¬ f.defn.kind = 0 ∧ f.lateOk = 1) ∨
        ¬ f.linePresence = 1 ∧ ¬ f.record.presence = 1 := by
  unfold armedRequest
  rw [Bool.or_eq_true, Bool.or_eq_true, Bool.and_eq_true, Bool.and_eq_true, Bool.and_eq_true, Bool.not_eq_true',
    decide_eq_true_iff, spells.isAt, decide_eq_true_iff, decide_eq_false_iff_not, Option.isSome_ite,
    armedLine_isNone line, Bool.not_eq_true', decide_eq_false_iff_not, ← Option.not_isSome, Bool.not_eq_true',
    ← Bool.not_eq_true, Option.isSome_ite]

/-- Fields that pass step 1 of R74 are acceptable. -/
theorem armAcceptable_of_armRequestOf {f : ArmFields} {a : ArmRequest} (h : armRequestOf f = some a) :
    armAcceptable f = true := by
  unfold armRequestOf at h
  simp only [Option.bind_eq_bind, Option.bind_eq_some_iff] at h
  obtain ⟨d, hd, late, hlate, rem, hrem, line, hline, rec, hrec, share, hshare, keep, hkeep, made⟩ := h
  have spells := definitionOf_spells hd
  rw [flagOf_eq, Option.ite_none_right_eq_some] at hlate hshare hkeep
  rw [remainingOf_eq, Option.ite_none_right_eq_some] at hrem
  rw [lineActionOf_eq, Option.ite_none_right_eq_some] at hline
  rw [recordOf_eq, Option.ite_none_right_eq_some] at hrec
  obtain ⟨lateLe, lateEq⟩ := hlate
  obtain ⟨remFit, remEq⟩ := hrem
  obtain ⟨lineFit, lineEq⟩ := hline
  obtain ⟨recFit, recEq⟩ := hrec
  cases lateEq; cases remEq; cases lineEq; cases recEq
  have accepted := mt (armRequestOf_guard_iff spells lineFit).2 (Option.ite_none_left_eq_some.1 made).1
  refine (armAcceptable_iff f).2 ⟨spells.inRange, lateLe, fun one => ?_, ?_, lineFit, recFit, hshare.1, hkeep.1, ?_⟩
  · exact by_contra fun notAt => accepted (.inl (.inr ⟨notAt, one⟩))
  · exact remFit.imp_right fun ⟨one, value⟩ => ⟨one, value, fun isAt => accepted (.inl (.inl ⟨isAt, one⟩))⟩
  · exact by_contra fun none => accepted (.inr (not_or.1 none))

/-- Acceptable fields pass step 1 of R74 as the request they make with the definition of their block. -/
theorem armRequestOf_of_acceptable {f : ArmFields} {d : Definition} (h : armAcceptable f = true)
    (defn : definitionOf f.defn = some d) : armRequestOf f = some (armedRequest f d) := by
  obtain ⟨-, late, lateAt, remaining, line, record, shareable, keep, acts⟩ := (armAcceptable_iff f).1 h
  unfold armRequestOf
  rw [defn, flagOf_eq, flagOf_eq, flagOf_eq, remainingOf_eq, lineActionOf_eq, recordOf_eq, if_pos late,
    if_pos (remaining.imp_right fun h => ⟨h.1, h.2.1⟩), if_pos line, if_pos record, if_pos shareable, if_pos keep]
  refine if_neg fun refused => ?_
  obtain (⟨isAt, one⟩ | ⟨notAt, isLate⟩) | ⟨noLine, noRecord⟩ :=
    (armRequestOf_guard_iff (definitionOf_spells defn) line).1 refused
  · exact remaining.elim (fun zero => absurd (zero.symm.trans one) (by decide)) fun h => h.2.2 isAt
  · exact notAt (lateAt isLate)
  · exact acts.elim noLine noRecord

/-- Fields that are not acceptable do not pass step 1 of R74. -/
theorem armRequestOf_of_not_acceptable {f : ArmFields} (h : armAcceptable f = false) : armRequestOf f = none := by
  cases e : armRequestOf f with
  | none => rfl
  | some a => exact Bool.noConfusion ((armAcceptable_of_armRequestOf e).symm.trans h)

/-- The line that ARM_ENTRY's fields name, where they are in their ranges (R73). -/
theorem forall_armedLine {f : ArmFields} {P : LineNo → Prop}
    (h : f.linePresence = 0 ∨ f.linePresence = 1 ∧ f.line.toNat < 16 ∧ f.action.toNat < 4) :
    (∀ x, armedLine f = some x → P x.1) ↔ ∀ l : LineNo, f.linePresence = 1 → l.val = f.line.toNat → P l := by
  have action := actionOf_isSome f.action
  unfold armedLine
  constructor
  · intro named l one number
    obtain zero | ⟨-, line, act⟩ := h
    · exact absurd (zero.symm.trans one) (by decide)
    · rw [decide_eq_true act] at action
      obtain ⟨a, e⟩ := Option.isSome_iff_exists.1 action
      have eq : l = ⟨f.line.toNat, line⟩ := Fin.ext number
      subst eq
      exact named (_, a) (by rw [dif_pos ⟨one, line⟩, e]; rfl)
  · intro named x made
    split at made
    next fits =>
      obtain ⟨a, -, rfl⟩ := Option.map_eq_some_iff.1 made
      exact named _ fits.1 rfl
    · cases made

theorem byteOf_val_inj {c d : ChanNo} (h : byteOf c.val = byteOf d.val) : c = d := by
  have eq := congrArg BitVec.toNat h
  unfold byteOf at eq
  rw [BitVec.toNat_ofNat, BitVec.toNat_ofNat] at eq
  exact Fin.ext (by omega)

/-- The source channel that a block spells is the first of its bytes (R189). -/
theorem BlockSpells.forall_channel {block : DefBlock} {d : Definition} (h : BlockSpells block d) {P : ChanNo → Prop} :
    (∀ c k y pol, d = .after c k y pol → P c) ↔
      ∀ c : ChanNo, block.kind = 3 → block.bytes.head? = some (byteOf c.val) → P c := by
  rw [← h.kind, ← h.bytes]
  cases d with
  | after ch k y pol =>
    constructor
    · intro named c _ first
      exact byteOf_val_inj (Option.some.inj first) ▸ named ch k y pol rfl
    · rintro named c _ _ _ ⟨⟩
      exact named ch rfl rfl
  | atTime _ | every _ _ | calendar _ _ =>
    constructor
    · intro _ _ kind
      dsimp only [Definition.code] at kind
      exact absurd kind (by decide)
    · rintro _ _ _ _ _ ⟨⟩

/-- Step 3 of R74. -/
theorem State.ownsNamed_iff (s : State) (p : Port) (a : ArmRequest) :
    s.ownsNamed p a = true ↔ (∀ x, a.line = some x → (s.line x.1).owner = some p) ∧
      ∀ c k y pol, a.defn = .after c k y pol → (s.channel c).owner = some p := by
  unfold State.ownsNamed
  rw [Bool.and_eq_true, Option.all_eq_true]
  refine and_congr (forall_congr' fun x => imp_congr_right fun _ => decide_eq_true_iff) ?_
  cases a.defn with
  | after c k y pol =>
    rw [decide_eq_true_iff]
    constructor
    · rintro own _ _ _ _ ⟨⟩
      exact own
    · exact fun own => own c k y pol rfl
  | atTime _ | every _ _ | calendar _ _ =>
    constructor
    · rintro - _ _ _ _ ⟨⟩
    · exact fun _ => rfl

/-! ## Places in the table -/

theorem State.countEntries_eq (s : State) (test : Body → Bool) :
    s.countEntries test = ((List.finRange 64).filter fun i => (s.entry i).body.any test).length := by
  rw [finRange_entries]
  rfl

theorem State.portCount_eq (s : State) (p : Port) :
    s.portCount p = ((List.finRange 64).filter fun i => (s.entry i).body.any fun b => decide (b.owner = p)).length :=
  s.countEntries_eq _

theorem State.lowestFree_eq_find? (s : State) : s.lowestFree = Fin.find? fun i => (s.entry i).body.isNone := by
  unfold State.lowestFree
  rw [← finRange_entries, Fin.find?_eq_find?_finRange]

theorem State.lowestFree_eq_none_iff (s : State) : s.lowestFree = none ↔ ∀ i, (s.entry i).body ≠ none := by
  rw [State.lowestFree_eq_find?, Fin.find?_eq_none_iff]
  exact forall_congr' fun _ => Option.isNone_eq_false_iff.trans Option.isSome_iff_ne_none

theorem State.lowestFree_eq_some_iff (s : State) (i : EntryIx) :
    s.lowestFree = some i ↔ (s.entry i).body = none ∧ ∀ j, j < i → (s.entry j).body ≠ none := by
  rw [State.lowestFree_eq_find?, Fin.find?_eq_some_iff, Option.isNone_iff_eq_none]
  exact and_congr_right fun _ => forall_congr' fun j => imp_congr_right fun _ =>
    Option.isNone_eq_false_iff.trans Option.isSome_iff_ne_none

/-! ## First due times (R74 step 6, R76, R89, R90, R93) -/

theorem firstDue_atTime_armed {t now : Nat} (h : now < t) (late : Bool) : firstDue (.atTime t) late now = .armed t :=
  if_pos h

theorem firstDue_atTime_late {t now : Nat} (h : t ≤ now) : firstDue (.atTime t) true now = .late t :=
  if_neg (Nat.not_lt.2 h)

theorem firstDue_atTime_tooLate {t now : Nat} (h : t ≤ now) : firstDue (.atTime t) false now = .tooLate :=
  if_neg (Nat.not_lt.2 h)

theorem firstDue_calendar_armed {pat : Pattern} {off now m : Nat} (h : nextMatch pat off now = some m) (late : Bool) :
    firstDue (.calendar pat off) late now = .armed m := by
  unfold firstDue
  dsimp only
  rw [h]

theorem firstDue_calendar_noMatch {pat : Pattern} {off now : Nat} (h : nextMatch pat off now = none) (late : Bool) :
    firstDue (.calendar pat off) late now = .noMatch := by
  unfold firstDue
  dsimp only
  rw [h]

end Sys2Proof.Machine
end

section
/-! What a request with a handle answers, and what one that changes an entry, with or without a firing in the same event,
leaves (R64, R71, R72, R76, R78, R108, R180). -/

namespace Sys2Proof.Machine

/-! ## An entry replaced (R71, R72) -/

theorem EntrySet.setEntry_bumpBoth (s : State) (i : EntryIx) (e : Entry) :
    EntrySet i e 1 1 s (s.setEntry i e).bumpBoth := by
  have schedule := (s.setEntry i e).schedule_bumpBoth
  refine ⟨⟨?_, fun j hj => ?_⟩, ?_, ⟨?_, ?_⟩, State.digest_bumpBoth _⟩
  · rw [State.entry_bumpBoth, State.entry_setEntry, if_pos rfl]
  · rw [State.entry_bumpBoth, State.entry_setEntry, if_neg hj]
  all_goals rw [schedule]; rfl

theorem EntrySet.setEntry_bumpFull (s : State) (i : EntryIx) (e : Entry) :
    EntrySet i e 0 1 s (s.setEntry i e).bumpFull := by
  have schedule := (s.setEntry i e).schedule_bumpFull
  refine ⟨⟨?_, fun j hj => ?_⟩, ?_, ⟨?_, ?_⟩, State.digest_bumpFull _⟩
  · rw [State.entry_bumpFull, State.entry_setEntry, if_pos rfl]
  · rw [State.entry_bumpFull, State.entry_setEntry, if_neg hj]
  · rw [schedule]; rfl
  · rw [schedule]
    exact (BitVec.add_zero _).symm
  · rw [schedule]; rfl

theorem EntrySet.allocate (s : State) (i : EntryIx) (b : Body) :
    EntrySet i { inst := (s.entry i).inst + 1, body := some b } 1 1 s (s.allocate i b) :=
  EntrySet.setEntry_bumpBoth ..

theorem EntrySet.retimed (s : State) (i : EntryIx) (b : Body) (d : Definition) (r : RunState) :
    EntrySet i { inst := (s.entry i).inst, body := some { b with defn := d, run := r } } 1 1 s (s.retimed i b d r) :=
  EntrySet.setEntry_bumpBoth ..

theorem EntrySet.setRun (s : State) (i : EntryIx) (b : Body) (r : RunState) :
    EntrySet i { inst := (s.entry i).inst, body := some { b with run := r } } 0 1 s (s.setRun i b r) :=
  EntrySet.setEntry_bumpFull ..

theorem EntrySet.vacate (s : State) (i : EntryIx) :
    EntrySet i { inst := (s.entry i).inst, body := none } 1 1 s (s.vacate i) :=
  EntrySet.setEntry_bumpBoth ..

/-! ## What a response shows of an entry (R193) -/

theorem State.shownEntry_brief (t : State) (i : EntryIx) :
    t.shownEntry i false = (t.entry i).stateBytes.take 1 ++ optTime (t.entry i).due := by
  unfold State.shownEntry Entry.stateBytes Entry.due
  cases (t.entry i).body with
  | none => rfl
  | some b =>
    rw [Option.bind_some]
    dsimp only
    cases b.run.due <;> rfl

theorem State.shownEntry_full (t : State) (i : EntryIx) :
    t.shownEntry i true = (t.entry i).stateBytes ++ optTime (t.entry i).due := by
  unfold State.shownEntry Entry.stateBytes Entry.due
  cases (t.entry i).body with
  | none => rfl
  | some b =>
    rw [Option.bind_some]
    dsimp only
    cases b.run.due <;> rfl

theorem State.shownEntry_congr {s t : State} (h : t.schedule = s.schedule) (i : EntryIx) (x : Bool) :
    t.shownEntry i x = s.shownEntry i x := by
  unfold State.shownEntry State.entry
  rw [h]

theorem State.bothGenerations_congr {s t : State} (h : t.schedule = s.schedule) :
    t.bothGenerations = s.bothGenerations := by
  unfold State.bothGenerations
  rw [h]

/-! ## A request with a handle and the owner check (R64) -/

theorem State.withHandle_of_not_index {s : State} {a b : Byte} {go : EntryIx → Body → State × Option Response}
    (h : ¬ a.toNat < 64) : s.withHandle a b go = s.refuse .badArg := by
  unfold State.withHandle entryOf
  rw [dif_neg h]

theorem State.withHandle_of_free {s : State} {a b : Byte} {go : EntryIx → Body → State × Option Response}
    {h : a.toNat < 64} (free : (s.entry ⟨a.toNat, h⟩).body = none) : s.withHandle a b go = s.refuse .notFound := by
  unfold State.withHandle entryOf
  rw [dif_pos h]
  dsimp only
  rw [free]

theorem State.withHandle_of_body {s : State} {a b : Byte} {go : EntryIx → Body → State × Option Response}
    {h : a.toNat < 64} {e : Body} (body : (s.entry ⟨a.toNat, h⟩).body = some e) :
    s.withHandle a b go = if (s.entry ⟨a.toNat, h⟩).inst = b then go ⟨a.toNat, h⟩ e else s.refuse .notFound := by
  unfold State.withHandle entryOf
  rw [dif_pos h]
  dsimp only
  rw [body]

theorem State.request_ownedHandle {s : State} {p : Port} {n : Nat} {a b : Byte} {block : State → State × Option Response}
    {go : EntryIx → Body → State × Option Response} {Q : EntryIx → Body → Prop} (ready : Ready s p)
    (hb : block (s.shiftOut p ((s.port p).requestMiso (n + 3))) =
      (s.shiftOut p ((s.port p).requestMiso (n + 3))).withOwned p a b go)
    (goes : ∀ i e, (s.entry i).body = some e → (s.entry i).inst = b → e.owner = p →
      block (s.shiftOut p ((s.port p).requestMiso (n + 3))) = go i e → Q i e) :
    OwnedHandle p n a b s (s.request p n block) Q := by
  unfold OwnedHandle
  unfold State.withOwned at hb
  by_cases index : a.toNat < 64
  · rw [dif_pos index]
    cases body : (s.entry ⟨a.toNat, index⟩).body with
    | none => exact State.request_refused ready n _ (hb.trans (State.withHandle_of_free body))
    | some e =>
      replace hb := hb.trans (State.withHandle_of_body (s := s.shiftOut p _) body)
      dsimp only
      by_cases inst : (s.entry ⟨a.toNat, index⟩).inst = b
      · replace hb := hb.trans (if_pos inst)
        rw [if_neg (not_not.2 inst)]
        by_cases owner : e.owner = p
        · rw [if_neg (not_not.2 owner)]
          exact goes _ e body inst owner (hb.trans (if_pos owner))
        · rw [if_pos owner]
          exact State.request_refused ready n _ (hb.trans (if_neg owner))
      · rw [if_pos inst]
        exact State.request_refused ready n _ (hb.trans (if_neg inst))
  · rw [dif_neg index]
    exact State.request_refused ready n _ (hb.trans (State.withHandle_of_not_index index))

/-! ## A request that changes one entry -/

/-- What the answer of a request shows is read off the state that its block leaves. -/
theorem State.schedule_request {s : State} {p : Port} (ready : Ready s p) {n : Nat}
    {block : State → State × Option Response} {v : State} {r : Response} (hb : block (s.shiftOut p ((s.port p).requestMiso (n + 3))) = (v, some r)) :
    (s.request p n block).schedule = v.schedule := by
  rw [State.request_answered ready n hb]
  rfl

theorem State.request_entryAnswered {s : State} {p : Port} (ready : Ready s p) {n : Nat}
    {block : State → State × Option Response} {v : State} {fields : List Byte} {i : EntryIx} {e : Entry} {d f : Nat}
    (hb : block (s.shiftOut p ((s.port p).requestMiso (n + 3))) = v.answer .ok fields)
    (only : OnlyChanges [.schedule, .digest] (s.shiftOut p ((s.port p).requestMiso (n + 3))) v)
    (set : EntrySet i e d f (s.shiftOut p ((s.port p).requestMiso (n + 3))) v) :
    EntryAnswered p n i e d f fields s (s.request p n block) := by
  obtain ⟨changes, replied⟩ := State.request_replied ready n hb only
  refine ⟨changes.mono (by decide), ?_, replied⟩
  rw [State.request_answered ready n hb]
  exact set

/-! ## A request that fires an entry in the same event -/

/-- A firing does from a state what it does from any other with the same table, subscriptions and attached ports. -/
theorem Fires.rebase {whole late : Bool} {i : EntryIx} {b : Body} {due missed : Nat} {lines : LineNo → Line}
    {walk : Option Walk} {ports : Port → PortUnit} {s u t : State}
    (h : Fires whole i b due late missed lines walk ports u t)
    (schedule : u.schedule = s.schedule) (subs : ∀ j, u.sub j = s.sub j) (attached : ∀ q, u.attached q = s.attached q) :
    Fires whole i b due late missed lines walk ports s t := by
  simp only [Fires, EntryBecomes, GenerationsRise, SubsEnd, State.recordCopies, State.endedRecords, State.entry, subs,
    attached, schedule] at h ⊢
  exact h

/-- The table and the walk of one state, and the rest of another. -/
def State.withTableOf (s v : State) : State := { s with schedule := v.schedule, digest := v.digest }

theorem State.withTableOf_only (s v : State) : OnlyChanges [.schedule, .digest] s (s.withTableOf v) := by
  refine ⟨fun part absent => ?_⟩
  cases part
  case schedule => exact absurd (by decide) absent
  case digest => exact absurd (by decide) absent
  all_goals rfl

/-- A port where a response is put after a transaction that its block leaves alone. -/
theorem State.port_answered (s : State) (p : Port) (n : Nat) (r : Response) (q : Port) :
    ((s.shiftOut p ((s.port p).requestMiso (n + 3))).setSlot p (.ready r)).port q =
      if q = p then (s.port p).replied n r else s.port q := by
  by_cases here : q = p
  · rw [State.port_setSlot, if_pos here, State.port_shiftOut, if_pos rfl, if_pos here, PortUnit.replied_eq]
  · rw [State.port_setSlot, if_neg here, State.port_shiftOut, if_neg here, if_neg here]

theorem State.request_firesAtOnce {s : State} {p : Port} (ready : Ready s p) {n : Nat}
    {block : State → State × Option Response} {v : State} {fields : List Byte} {i : EntryIx} {inst : BitVec 8} {b : Body}
    {d f due missed : Nat}
    (hb : block (s.shiftOut p ((s.port p).requestMiso (n + 3))) = (v.fire i true missed).answer .ok fields)
    (only : OnlyChanges [.schedule, .digest] (s.shiftOut p ((s.port p).requestMiso (n + 3))) v)
    (set : EntrySet i { inst := inst, body := some b } d f (s.shiftOut p ((s.port p).requestMiso (n + 3))) v)
    (run : b.run = .armed due) :
    FiresAtOnce p n i inst b d f due missed fields s (s.request p n block) := by
  have changes := State.request_answered_only ready n hb ((only.mono (by decide)).trans (v.fire_only i true missed))
  refine ⟨changes.mono (by decide), s.withTableOf v, s.withTableOf_only v, set, ?_⟩
  have body : (v.entry i).body = some b := by rw [set.1.1]
  have fires := (State.fire_fires body run true missed).setSlot p (.ready { status := .ok, fields := fields })
  have lines : (v.setSlot p (.ready { status := .ok, fields := fields })).line = (s.withTableOf v).line :=
    funext fun l => only.line l
  have ports : (v.setSlot p (.ready { status := .ok, fields := fields })).port =
      fun q => if q = p then (s.port p).replied n { status := .ok, fields := fields } else s.port q := by
    funext q
    rw [← s.port_answered]
    simp only [State.port_setSlot, only.port]
  rw [State.request_answered ready n hb]
  rw [lines, ports] at fires
  refine fires.rebase rfl ((fun j => only.sub j)) fun q => ?_
  rw [State.attached_setSlot, only.attached q, State.attached_shiftOut]
  rfl

end Sys2Proof.Machine
end

section
/-! ARM_ENTRY: what refuses it, and the entry that it allocates (R63, R74 to R76). -/

namespace Sys2Proof.Machine

/-! ## The refusals (R74) -/

/-- Steps 2 to 7 of R74, for fields that pass step 1. -/
theorem blockArmEntry_of_acceptable {p : Port} {f : ArmFields} {d : Definition} (h : armAcceptable f = true)
    (defn : definitionOf f.defn = some d) (s : State) :
    blockArmEntry p f s =
      if s.backup.quality = .unset then s.refuse .noTime
      else if s.ownsNamed p (armedRequest f d) = false then s.refuse .notOwner
      else if s.schedule.quotas.get p ≤ s.portCount p then s.refuse .quota
      else s.lowestFree.elim (s.refuse .noRoom) (s.armInto p (armedRequest f d)) := by
  unfold blockArmEntry
  rw [armRequestOf_of_acceptable h defn]
  dsimp only
  cases s.lowestFree <;> rfl

theorem blockArmEntry_of_not_acceptable {p : Port} {f : ArmFields} (h : armAcceptable f = false) (s : State) :
    blockArmEntry p f s = s.refuse .badArg := by
  unfold blockArmEntry
  rw [armRequestOf_of_not_acceptable h]

/-- A request that passes steps 1 to 5 of R74 goes on with the FREE entry of the lowest index. -/
theorem blockArmEntry_into {p : Port} {f : ArmFields} {d : Definition} {s : State} {i : EntryIx}
    (h : armAcceptable f = true) (defn : definitionOf f.defn = some d) (set : ¬ s.backup.quality = .unset)
    (owns : ¬ s.ownsNamed p (armedRequest f d) = false) (room : ¬ s.schedule.quotas.get p ≤ s.portCount p)
    (free : s.lowestFree = some i) : blockArmEntry p f s = s.armInto p (armedRequest f d) i := by
  rw [blockArmEntry_of_acceptable h defn, if_neg set, if_neg owns, if_neg room, free, Option.elim_some]

theorem State.armInto_tooLate {s : State} {a : ArmRequest} (h : firstDue a.defn a.lateOk s.now = .tooLate) (p : Port)
    (i : EntryIx) : s.armInto p a i = s.refuse .tooLate := by
  unfold State.armInto
  rw [h]

theorem State.armInto_noMatch {s : State} {a : ArmRequest} (h : firstDue a.defn a.lateOk s.now = .noMatch) (p : Port)
    (i : EntryIx) : s.armInto p a i = s.refuse .badArg := by
  unfold State.armInto
  rw [h]

theorem State.armInto_armed {s : State} {a : ArmRequest} {d : Nat} (h : firstDue a.defn a.lateOk s.now = .armed d)
    (p : Port) (i : EntryIx) : s.armInto p a i = (s.allocate i (a.body p (.armed d))).armAnswer i 0 := by
  unfold State.armInto
  rw [h]

theorem State.armInto_waiting {s : State} {a : ArmRequest} (h : firstDue a.defn a.lateOk s.now = .waiting)
    (p : Port) (i : EntryIx) : s.armInto p a i = (s.allocate i (a.body p .waiting)).armAnswer i 0 := by
  unfold State.armInto
  rw [h]

theorem State.armInto_late {s : State} {a : ArmRequest} {d : Nat} (h : firstDue a.defn a.lateOk s.now = .late d)
    (p : Port) (i : EntryIx) :
    s.armInto p a i = ((s.allocate i (a.body p (.armed d))).fire i true 0).armAnswer i 1 := by
  unfold State.armInto
  rw [h]

/-- Step 3 of R74 refuses where a line or a source channel that the fields name is not the requester's. -/
theorem State.ownsNamed_armedRequest {f : ArmFields} {d : Definition} (h : armAcceptable f = true)
    (defn : definitionOf f.defn = some d) (s : State) (p : Port) :
    s.ownsNamed p (armedRequest f d) = false ↔
      (∃ l : LineNo, f.linePresence = 1 ∧ l.val = f.line.toNat ∧ (s.line l).owner ≠ some p) ∨
        ∃ c : ChanNo, f.defn.kind = 3 ∧ f.defn.bytes.head? = some (byteOf c.val) ∧ (s.channel c).owner ≠ some p := by
  obtain ⟨-, -, -, -, line, -⟩ := (armAcceptable_iff f).1 h
  rw [← Bool.not_eq_true, State.ownsNamed_iff]
  change ¬ ((∀ x, armedLine f = some x → _) ∧ ∀ c k y pol, d = .after c k y pol → _) ↔ _
  rw [forall_armedLine (P := fun l => (s.line l).owner = some p) line,
    (definitionOf_spells defn).forall_channel (P := fun c => (s.channel c).owner = some p)]
  rw [not_and_or]
  push Not
  rfl

/-- Settles O35: step 1 is what the fields spell, steps 2 to 5 are read off the table, and steps 6 and 7 off the first due
time of the definition. -/
theorem armEntryRefusesInOrder : Obligations.ArmEntryRefusesInOrder := by
  intro p f s ready
  refine ⟨_, rfl, ?_⟩
  intro n
  cases acceptable : armAcceptable f with
  | false =>
    rw [if_pos rfl]
    exact State.request_refused ready n _ (blockArmEntry_of_not_acceptable acceptable _)
  | true =>
    obtain ⟨d, defn⟩ := exists_definitionOf ((armAcceptable_iff f).1 acceptable).1
    have block := blockArmEntry_of_acceptable (p := p) acceptable defn (s.shiftOut p ((s.port p).requestMiso (n + 3)))
    rw [if_neg Bool.noConfusion]
    by_cases unset : s.backup.quality = .unset
    · rw [if_pos unset]
      exact State.request_refused ready n _ (block.trans (if_pos unset))
    rw [if_neg unset]
    replace block := block.trans (if_neg unset)
    by_cases owns : s.ownsNamed p (armedRequest f d) = false
    · rw [if_pos ((State.ownsNamed_armedRequest acceptable defn s p).1 owns)]
      exact State.request_refused ready n _ (block.trans (if_pos owns))
    rw [if_neg (mt (State.ownsNamed_armedRequest acceptable defn s p).2 owns)]
    replace block := block.trans (if_neg owns)
    rw [← State.portCount_eq]
    by_cases quota : s.schedule.quotas.get p ≤ s.portCount p
    · rw [if_pos quota]
      exact State.request_refused ready n _ (block.trans (if_pos quota))
    rw [if_neg quota]
    replace block := block.trans (if_neg quota)
    cases free : s.lowestFree with
    | none =>
      rw [if_pos (s.lowestFree_eq_none_iff.1 free)]
      rw [State.shiftOut_lowestFree, free] at block
      exact State.request_refused ready n _ block
    | some i =>
      rw [if_neg (mt s.lowestFree_eq_none_iff.2 (by rw [free]; exact nofun))]
      replace block := blockArmEntry_into (s := s.shiftOut p ((s.port p).requestMiso (n + 3))) acceptable defn unset owns
        quota free
      refine ⟨fun target spelt passed early => ?_, fun pat offset spelt noMatch => ?_⟩
      · cases defn.symm.trans spelt
        have due : firstDue (armedRequest f (.atTime target)).defn (decide (f.lateOk = 1)) s.now = .tooLate := by
          rw [early]
          exact firstDue_atTime_tooLate passed
        exact State.request_refused ready n _ (block.trans (State.armInto_tooLate (s := s.shiftOut p _) due p i))
      · cases defn.symm.trans spelt
        have due : firstDue (armedRequest f (.calendar pat offset)).defn (decide (f.lateOk = 1)) s.now = .noMatch :=
          firstDue_calendar_noMatch noMatch _
        exact State.request_refused ready n _ (block.trans (State.armInto_noMatch (s := s.shiftOut p _) due p i))

/-! ## The entry allocated (R75, R76) -/

theorem State.armAnswer_eq (v : State) (i : EntryIx) (n : Nat) :
    v.armAnswer i n = v.answer .ok
      ([byteOf i.val, (v.entry i).inst] ++ v.shownEntry i false ++ bytesBE 2 n ++ v.bothGenerations) := by
  rw [State.shownEntry_brief, ← List.append_assoc]
  rfl

section
variable {s : State} {p : Port} {n : Nat} {block : State → State × Option Response} {i : EntryIx} {b : Body}

theorem State.request_allocated (ready : Ready s p)
    (hb : block (s.shiftOut p ((s.port p).requestMiso (n + 3))) =
      ((s.shiftOut p ((s.port p).requestMiso (n + 3))).allocate i b).armAnswer i 0) :
    EntryAnswered p n i { inst := (s.entry i).inst + 1, body := some b } 1 1
      ([byteOf i.val, (s.entry i).inst + 1] ++ (s.request p n block).shownEntry i false ++ [0, 0] ++
        (s.request p n block).bothGenerations) s (s.request p n block) := by
  have set := EntrySet.allocate (s.shiftOut p ((s.port p).requestMiso (n + 3))) i b
  have only := State.allocate_only (s.shiftOut p ((s.port p).requestMiso (n + 3))) i b
  have schedule := State.schedule_request ready hb
  rw [State.shownEntry_congr schedule, State.bothGenerations_congr schedule]
  refine State.request_entryAnswered ready ?_ only set
  rw [hb, State.armAnswer_eq, set.1.1]
  rfl

theorem State.request_allocatedLate {due : Nat} (ready : Ready s p) (run : b.run = .armed due)
    (hb : block (s.shiftOut p ((s.port p).requestMiso (n + 3))) =
      (((s.shiftOut p ((s.port p).requestMiso (n + 3))).allocate i b).fire i true 0).armAnswer i 1) :
    FiresAtOnce p n i ((s.entry i).inst + 1) b 1 1 due 0
      ([byteOf i.val, (s.entry i).inst + 1] ++ (s.request p n block).shownEntry i false ++ [0, 1] ++
        (s.request p n block).bothGenerations) s (s.request p n block) := by
  have set := EntrySet.allocate (s.shiftOut p ((s.port p).requestMiso (n + 3))) i b
  have only := State.allocate_only (s.shiftOut p ((s.port p).requestMiso (n + 3))) i b
  have schedule := State.schedule_request ready hb
  rw [State.shownEntry_congr schedule, State.bothGenerations_congr schedule]
  have body : (((s.shiftOut p ((s.port p).requestMiso (n + 3))).allocate i b).entry i).body = some b := by rw [set.1.1]
  obtain ⟨⟨fired, -⟩, -⟩ := State.fire_fires body run true 0
  refine State.request_firesAtOnce ready ?_ only set run
  rw [hb, State.armAnswer_eq, fired, set.1.1]
  rfl

end

/-- Settles O36: the fields spell the request, no step of R74 refuses it, and the first due time of the definition decides
between the three things that may be done with the FREE entry of the lowest index. -/
theorem armEntryAllocates : Obligations.ArmEntryAllocates := by
  intro p f s i d ready acceptable defn set lines channels room free least
  have spells := definitionOf_spells defn
  refine ⟨spells.kind, spells.bytes, _, rfl, ?_⟩
  intro n inst body taken
  have owns : ¬ s.ownsNamed p (armedRequest f d) = false := by
    obtain ⟨-, -, -, -, line, -⟩ := (armAcceptable_iff f).1 acceptable
    exact Bool.not_eq_false _ ▸ (s.ownsNamed_iff p _).2 ⟨(forall_armedLine line).2 lines, channels⟩
  rw [← State.portCount_eq] at room
  have block := blockArmEntry_into (s := s.shiftOut p ((s.port p).requestMiso (n + 3))) acceptable defn set owns
    (Nat.not_le.2 room) ((s.lowestFree_eq_some_iff i).2 ⟨free, least⟩)
  cases d with
  | atTime target =>
    refine ⟨fun early => ?_, fun passed late => ?_⟩
    · exact State.request_allocated ready (block.trans (State.armInto_armed (firstDue_atTime_armed early _) p i))
    · have due : firstDue (armedRequest f (.atTime target)).defn (decide (f.lateOk = 1)) s.now = .late target := by
        rw [late]
        exact firstDue_atTime_late passed
      exact State.request_allocatedLate ready rfl (block.trans (State.armInto_late (s := s.shiftOut p _) due p i))
  | every a per => exact State.request_allocated ready (block.trans (State.armInto_armed rfl p i))
  | calendar pat off =>
    intro m found
    exact State.request_allocated ready (block.trans (State.armInto_armed (firstDue_calendar_armed found _) p i))
  | after c k y pol => exact State.request_allocated ready (block.trans (State.armInto_waiting rfl p i))

end Sys2Proof.Machine
end

section
/-! RETIME_ENTRY (R77 to R79). -/

namespace Sys2Proof.Machine

/-! ## What is sent (R77) -/

/-- The definitions that RETIME_ENTRY may give an entry: of its kind, and for AFTER with its channel, kinds and policy. -/
theorem Definition.retimes_iff (d e : Definition) :
    d.retimes e = true ↔ (match d, e with
      | .after c k _ pol, .after c' k' _ pol' => c = c' ∧ k = k' ∧ pol = pol'
      | x, y => x.code = y.code) := by
  cases d <;> cases e <;> simp [Definition.retimes, Definition.code, and_assoc]

theorem BlockSpells.isAt_eq_false {block : DefBlock} {d : Definition} (h : BlockSpells block d) :
    d.isAt = false ↔ block.kind ≠ 0 := by
  rw [h.isAt]
  exact decide_eq_false_iff_not

/-- What RETIME_ENTRY does with an entry that has a due time: it stays in its state with the new one, and where it may
fire it does so for an AT target that has passed (R78, R79). -/
def State.retimeMoved (s : State) (i : EntryIx) (b : Body) (due : Nat) (d : Definition) (lateOk fires : Bool)
    (stays : Nat → RunState) : State × Option Response :=
  match firstDue d lateOk s.now with
  | .tooLate => s.refuse .tooLate
  | .noMatch => s.refuse .badArg
  | .armed t => (s.retimed i b d (stays t)).retimeAnswer i
  | .waiting => (s.retimed i b d (stays due)).retimeAnswer i
  | .late t =>
    if fires then ((s.retimed i b d (.armed t)).fire i true 0).retimeAnswer i
    else (s.retimed i b d (stays t)).retimeAnswer i

section
variable {s : State} {d : Definition} {lateOk : Bool}

theorem State.retimeMoved_tooLate (h : firstDue d lateOk s.now = .tooLate) (i : EntryIx) (b : Body) (due : Nat)
    (fires : Bool) (stays : Nat → RunState) : s.retimeMoved i b due d lateOk fires stays = s.refuse .tooLate := by
  unfold State.retimeMoved
  rw [h]

theorem State.retimeMoved_noMatch (h : firstDue d lateOk s.now = .noMatch) (i : EntryIx) (b : Body) (due : Nat)
    (fires : Bool) (stays : Nat → RunState) : s.retimeMoved i b due d lateOk fires stays = s.refuse .badArg := by
  unfold State.retimeMoved
  rw [h]

theorem State.retimeMoved_armed {t : Nat} (h : firstDue d lateOk s.now = .armed t) (i : EntryIx) (b : Body) (due : Nat)
    (fires : Bool) (stays : Nat → RunState) :
    s.retimeMoved i b due d lateOk fires stays = (s.retimed i b d (stays t)).retimeAnswer i := by
  unfold State.retimeMoved
  rw [h]

theorem State.retimeMoved_waiting (h : firstDue d lateOk s.now = .waiting) (i : EntryIx) (b : Body) (due : Nat)
    (fires : Bool) (stays : Nat → RunState) :
    s.retimeMoved i b due d lateOk fires stays = (s.retimed i b d (stays due)).retimeAnswer i := by
  unfold State.retimeMoved
  rw [h]

theorem State.retimeMoved_late {t : Nat} (h : firstDue d lateOk s.now = .late t) (i : EntryIx) (b : Body) (due : Nat)
    (fires : Bool) (stays : Nat → RunState) :
    s.retimeMoved i b due d lateOk fires stays =
      if fires then ((s.retimed i b d (.armed t)).fire i true 0).retimeAnswer i
      else (s.retimed i b d (stays t)).retimeAnswer i := by
  unfold State.retimeMoved
  rw [h]

end

theorem State.retimeArmed_eq (s : State) (i : EntryIx) (b : Body) (due : Nat) (d : Definition) (lateOk : Bool) :
    s.retimeArmed i b due d lateOk = s.retimeMoved i b due d lateOk true .armed := by
  unfold State.retimeArmed State.retimeMoved
  cases firstDue d lateOk s.now <;> rfl

theorem State.retimeHeld_eq (s : State) (i : EntryIx) (b : Body) (due : Nat) (d : Definition) (lateOk : Bool) :
    s.retimeHeld i b due d lateOk = s.retimeMoved i b due d lateOk false .heldArmed := by
  unfold State.retimeHeld State.retimeMoved
  cases firstDue d lateOk s.now <;> rfl

/-- What RETIME_ENTRY does with an entry whose definition it may replace, by the entry's state (R77 step 5, R78, R79). -/
def State.retimeByRun (s : State) (i : EntryIx) (b : Body) (d : Definition) (lateOk : Bool) : State × Option Response :=
  match b.run with
  | .armed due => s.retimeMoved i b due d lateOk true .armed
  | .heldArmed due => s.retimeMoved i b due d lateOk false .heldArmed
  | .heldWaiting => (s.retimed i b d .heldWaiting).retimeAnswer i
  | .waiting => s.refuse .badArg
  | .spent => s.refuse .badArg

/-- RETIME_ENTRY of a known kind: the handle and the owner, the fields, the kind and late-ok, and then the state (R77). -/
theorem blockRetimeEntry_known {p : Port} {a b late : Byte} {block : DefBlock} (known : ∀ k, block ≠ .unknown k)
    (s : State) :
    ∃ go, blockRetimeEntry p a b block late s = s.withOwned p a b go ∧
      (∀ i e, blockInRange block = false ∨ 1 < late.toNat → go i e = s.refuse .badArg) ∧
      ∀ i e d, definitionOf block = some d → late.toNat ≤ 1 →
        go i e = if d.retimes e.defn = false ∨ late = 1 ∧ block.kind ≠ 0 then s.refuse .badArg
          else s.retimeByRun i e d (decide (late = 1)) := by
  cases block with
  | unknown k => exact absurd rfl (known k)
  | atTime _ _ | every _ _ _ | calendar _ _ _ _ _ _ _ | after _ _ _ _ =>
    refine ⟨_, rfl, fun i e wrong => ?_, fun i e d spelt flag => ?_⟩
    · obtain beyond | big := wrong
      · rw [definitionOf_none beyond]
      · rw [flagOf_eq, if_neg (Nat.not_le.2 big)]
        split <;> trivial
    · rw [spelt, flagOf_eq, if_pos flag]
      dsimp only
      simp only [State.retimeArmed_eq, State.retimeHeld_eq]
      exact if_congr (or_congr_right (and_congr decide_eq_true_iff (definitionOf_spells spelt).isAt_eq_false)) rfl rfl

section
variable {s : State} {p : Port} {n : Nat} {block : State → State × Option Response} {i : EntryIx} {b : Body}
  {d : Definition}

theorem State.retimeAnswer_eq (v : State) (i : EntryIx) :
    v.retimeAnswer i = v.answer .ok (v.shownEntry i true ++ v.bothGenerations) := by
  rw [State.shownEntry_full]
  rfl

theorem State.request_retimed {r : RunState} (ready : Ready s p)
    (hb : block (s.shiftOut p ((s.port p).requestMiso (n + 3))) =
      ((s.shiftOut p ((s.port p).requestMiso (n + 3))).retimed i b d r).retimeAnswer i) :
    EntryAnswered p n i { inst := (s.entry i).inst, body := some { b with defn := d, run := r } } 1 1
      ((s.request p n block).shownEntry i true ++ (s.request p n block).bothGenerations) s (s.request p n block) := by
  have schedule := State.schedule_request ready hb
  rw [State.shownEntry_congr schedule, State.bothGenerations_congr schedule]
  exact State.request_entryAnswered ready (hb.trans (State.retimeAnswer_eq ..)) (State.retimed_only ..)
    (EntrySet.retimed ..)

theorem State.request_retimedLate {due : Nat} (ready : Ready s p)
    (hb : block (s.shiftOut p ((s.port p).requestMiso (n + 3))) =
      (((s.shiftOut p ((s.port p).requestMiso (n + 3))).retimed i b d (.armed due)).fire i true 0).retimeAnswer i) :
    FiresAtOnce p n i (s.entry i).inst { b with defn := d, run := .armed due } 1 1 due 0
      ((s.request p n block).shownEntry i true ++ (s.request p n block).bothGenerations) s (s.request p n block) := by
  have schedule := State.schedule_request ready hb
  rw [State.shownEntry_congr schedule, State.bothGenerations_congr schedule]
  exact State.request_firesAtOnce ready (hb.trans (State.retimeAnswer_eq ..)) (State.retimed_only ..)
    (EntrySet.retimed ..) rfl

end

/-- Settles O37: past the handle, the fields and the kind, the entry's state decides; an entry with a due time moves as the
first due time of the new definition says, the ARMED and the HELD one alike but for the late firing. -/
theorem retimeEntryReplaces : Obligations.RetimeEntryReplaces := by
  intro p a b late block s ready
  refine ⟨fun k => ⟨_, rfl, State.request_refused ready 4 _ rfl⟩, fun known => ⟨_, rfl, ?_⟩⟩
  obtain ⟨go, passes, wrong, goes⟩ := blockRetimeEntry_known (p := p) (a := a) (b := b) (late := late) known
    (s.shiftOut p ((s.port p).requestMiso (block.length + 4 + 3)))
  refine State.request_ownedHandle ready passes fun i e body inst owner taken => ?_
  subst inst
  intro n refused
  refine ⟨fun beyond => State.request_refused ready n _ (taken.trans (wrong i e beyond)), ?_⟩
  intro _ flag d spelt
  replace taken := taken.trans (goes i e d spelt flag)
  refine ⟨(definitionOf_spells spelt).bytes, ?_⟩
  intro same becomes moved
  have same_iff : same ↔ d.retimes e.defn = true := (d.retimes_iff e.defn).symm
  have moves : ∀ due fires stays, blockRetimeEntry p a (s.entry i).inst block late
      (s.shiftOut p ((s.port p).requestMiso (n + 3))) =
        (s.shiftOut p ((s.port p).requestMiso (n + 3))).retimeMoved i e due d (decide (late = 1)) fires stays →
      moved due fires stays := by
    intro due fires stays made
    cases d with
    | atTime target =>
      show if _ then _ else _
      by_cases early : s.backup.count < target
      · rw [if_pos early]
        have first : firstDue (.atTime target) (decide (late = 1)) s.now = .armed target := firstDue_atTime_armed early _
        exact State.request_retimed ready (made.trans (State.retimeMoved_armed (s := s.shiftOut p _) first ..))
      · rw [if_neg early]
        have passed := Nat.not_lt.1 early
        obtain zero | one := Byte.toNat_le_one.1 flag
        · rw [if_pos zero]
          have first : firstDue (.atTime target) (decide (late = 1)) s.now = .tooLate := by
            rw [zero]
            exact firstDue_atTime_tooLate passed
          exact State.request_refused ready n _ (made.trans (State.retimeMoved_tooLate (s := s.shiftOut p _) first ..))
        · rw [if_neg (by rw [one]; decide)]
          have first : firstDue (.atTime target) (decide (late = 1)) s.now = .late target := by
            rw [one]
            exact firstDue_atTime_late passed
          replace made := made.trans (State.retimeMoved_late (s := s.shiftOut p _) first ..)
          cases fires with
          | false => exact State.request_retimed ready made
          | true => exact State.request_retimedLate ready made
    | every a per => exact State.request_retimed ready (made.trans (State.retimeMoved_armed rfl ..))
    | calendar pat off =>
      show match nextMatch pat off s.backup.count with
        | some m => becomes (stays m)
        | none => refused .badArg
      cases found : nextMatch pat off s.backup.count with
      | some m =>
        have first : firstDue (.calendar pat off) (decide (late = 1)) s.now = .armed m := firstDue_calendar_armed found _
        exact State.request_retimed ready (made.trans (State.retimeMoved_armed (s := s.shiftOut p _) first ..))
      | none =>
        have first : firstDue (.calendar pat off) (decide (late = 1)) s.now = .noMatch := firstDue_calendar_noMatch found _
        exact State.request_refused ready n _ (made.trans (State.retimeMoved_noMatch (s := s.shiftOut p _) first ..))
    | after c k y pol => exact State.request_retimed ready (made.trans (State.retimeMoved_waiting rfl ..))
  refine ⟨fun unfit => ?_, fun fits lateAt => ?_⟩
  · rw [same_iff, Bool.not_eq_true] at unfit
    exact State.request_refused ready n _ (taken.trans (if_pos unfit))
  · replace taken := taken.trans (if_neg fun unfit => ?_)
    · unfold State.retimeByRun at taken
      cases run : e.run with
      | waiting => rw [run] at taken; exact State.request_refused ready n _ taken
      | spent => rw [run] at taken; exact State.request_refused ready n _ taken
      | heldWaiting => rw [run] at taken; exact State.request_retimed ready taken
      | armed due => rw [run] at taken; exact moves due true .armed taken
      | heldArmed due => rw [run] at taken; exact moves due false .heldArmed taken
    · obtain other | ⟨isLate, notAt⟩ := unfit
      · exact Bool.noConfusion (other.symm.trans (same_iff.1 fits))
      · exact notAt (lateAt isLate)

end Sys2Proof.Machine
end

section
/-! HOLD_ENTRY, UNHOLD_ENTRY, CANCEL_ENTRY and SET_QUOTA (R69, R80 to R83, R108). -/

namespace Sys2Proof.Machine

/-! ## HOLD_ENTRY and UNHOLD_ENTRY (R80, R81, R108) -/

theorem State.holdAnswer_eq {v : State} {i : EntryIx} {b : Body} (body : (v.entry i).body = some b) :
    v.holdAnswer i = v.answer .ok ([byteOf b.run.code, byteOf b.run.heldFrom] ++ v.bothGenerations) := by
  unfold State.holdAnswer Entry.stateBytes
  rw [body]
  rfl

theorem State.unholdAnswer_eq (v : State) (i : EntryIx) :
    v.unholdAnswer i = v.answer .ok (v.shownEntry i false ++ v.bothGenerations) := by
  rw [State.shownEntry_brief]
  rfl

/-- Resolution of an entry whose due time lies ahead does nothing (R108). -/
theorem State.resolve_idle {s : State} {i : EntryIx} {b : Body} {due : Nat} (body : (s.entry i).body = some b)
    (run : b.run = .armed due) (ahead : s.now < due) : s.resolve i = s := by
  have idle : (s.entry i).armedDue.any (fun d => decide (d ≤ s.now)) = false := by
    unfold Entry.armedDue
    rw [body]
    dsimp only
    rw [run]
    exact decide_eq_false (Nat.not_le.2 ahead)
  unfold State.resolve
  rw [State.resolveWithin_idle idle]
  exact State.endGone_none (fun _ x => x) fun _ x => x

/-- Resolution of an overdue entry is its late firing (R105, R108). -/
theorem State.resolve_overdue {s : State} {i : EntryIx} {b : Body} {due : Nat} (body : (s.entry i).body = some b)
    (run : b.run = .armed due) (past : due ≤ s.now) : s.resolve i = s.fire i true (b.missedAt due s.now) := by
  unfold State.resolve State.fire
  rw [State.resolveWithin_overdue body run past]

section
variable {s : State} {p : Port} {n : Nat} {block : State → State × Option Response} {i : EntryIx} {b : Body}

theorem State.request_held {r : RunState} (ready : Ready s p)
    (hb : block (s.shiftOut p ((s.port p).requestMiso (n + 3))) =
      ((s.shiftOut p ((s.port p).requestMiso (n + 3))).setRun i b r).holdAnswer i) :
    EntryAnswered p n i { inst := (s.entry i).inst, body := some { b with run := r } } 0 1
      ([byteOf r.code, byteOf r.heldFrom] ++ (s.request p n block).bothGenerations) s (s.request p n block) := by
  have set := EntrySet.setRun (s.shiftOut p ((s.port p).requestMiso (n + 3))) i b r
  rw [State.bothGenerations_congr (State.schedule_request ready hb)]
  exact State.request_entryAnswered ready (hb.trans (State.holdAnswer_eq (congrArg Entry.body set.1.1)))
    (State.setRun_only ..) set

theorem State.request_unheld {r : RunState} (ready : Ready s p)
    (hb : block (s.shiftOut p ((s.port p).requestMiso (n + 3))) =
      ((s.shiftOut p ((s.port p).requestMiso (n + 3))).setRun i b r).unholdAnswer i) :
    EntryAnswered p n i { inst := (s.entry i).inst, body := some { b with run := r } } 0 1
      ((s.request p n block).shownEntry i false ++ (s.request p n block).bothGenerations) s (s.request p n block) := by
  have schedule := State.schedule_request ready hb
  rw [State.shownEntry_congr schedule, State.bothGenerations_congr schedule]
  exact State.request_entryAnswered ready (hb.trans (State.unholdAnswer_eq ..)) (State.setRun_only ..) (EntrySet.setRun ..)

theorem State.request_unheldLate {due missed : Nat} (ready : Ready s p)
    (hb : block (s.shiftOut p ((s.port p).requestMiso (n + 3))) =
      (((s.shiftOut p ((s.port p).requestMiso (n + 3))).setRun i b (.armed due)).fire i true missed).unholdAnswer i) :
    FiresAtOnce p n i (s.entry i).inst { b with run := .armed due } 0 1 due missed
      ((s.request p n block).shownEntry i false ++ (s.request p n block).bothGenerations) s (s.request p n block) := by
  have schedule := State.schedule_request ready hb
  rw [State.shownEntry_congr schedule, State.bothGenerations_congr schedule]
  exact State.request_firesAtOnce ready (hb.trans (State.unholdAnswer_eq ..)) (State.setRun_only ..)
    (EntrySet.setRun ..) rfl

/-- UNHOLD_ENTRY of an entry that is not HELD answers what it finds. -/
theorem State.request_unholdShown (ready : Ready s p)
    (hb : block (s.shiftOut p ((s.port p).requestMiso (n + 3))) =
      (s.shiftOut p ((s.port p).requestMiso (n + 3))).unholdAnswer i) :
    Reported p n ((s.request p n block).shownEntry i false ++ (s.request p n block).bothGenerations) s
      (s.request p n block) := by
  have schedule := State.schedule_request ready hb
  rw [State.shownEntry_congr schedule, State.bothGenerations_congr schedule]
  exact State.request_reported ready n _ (hb.trans (State.unholdAnswer_eq ..))

end

/-- Settles O38: past the handle and the owner, the state of the entry decides; an UNHOLD resolves the entry that it takes
back to ARMED, which does nothing before the kept due time and is a late firing from then on. -/
theorem holdAndUnholdEntry : Obligations.HoldAndUnholdEntry := by
  intro p a b s ready
  refine ⟨⟨_, rfl, State.request_ownedHandle ready rfl fun i e body inst owner taken => ?_⟩,
    ⟨_, rfl, State.request_ownedHandle ready rfl fun i e body inst owner taken => ?_⟩⟩
  · subst inst
    cases run : e.run with
    | armed d => rw [run] at taken; exact State.request_held ready taken
    | waiting => rw [run] at taken; exact State.request_held ready taken
    | heldArmed d =>
      rw [run] at taken
      refine State.request_reported ready 2 _ (taken.trans ((State.holdAnswer_eq (v := s.shiftOut p _) body).trans ?_))
      rw [run]
      rfl
    | heldWaiting =>
      rw [run] at taken
      refine State.request_reported ready 2 _ (taken.trans ((State.holdAnswer_eq (v := s.shiftOut p _) body).trans ?_))
      rw [run]
      rfl
    | spent => rw [run] at taken; exact State.request_refused ready 2 _ taken
  · subst inst
    cases run : e.run with
    | armed d => rw [run] at taken; exact State.request_unholdShown ready taken
    | waiting => rw [run] at taken; exact State.request_unholdShown ready taken
    | heldWaiting => rw [run] at taken; exact State.request_unheld ready taken
    | heldArmed d =>
      rw [run] at taken
      have set := EntrySet.setRun (s.shiftOut p ((s.port p).requestMiso (2 + 3))) i e (.armed d)
      have armed := congrArg Entry.body set.1.1
      have now := (State.setRun_only (s.shiftOut p ((s.port p).requestMiso (2 + 3))) i e (.armed d)).now
      show if _ then _ else _
      by_cases ahead : s.backup.count < d
      · rw [if_pos ahead]
        exact State.request_unheld ready
          (taken.trans (congrArg (State.unholdAnswer · i) (State.resolve_idle armed rfl (now.trans_lt ahead))))
      · rw [if_neg ahead]
        have late := State.resolve_overdue armed rfl ((Nat.not_lt.1 ahead).trans_eq now.symm)
        rw [now] at late
        exact State.request_unheldLate ready (taken.trans (congrArg (State.unholdAnswer · i) late))
    | spent => rw [run] at taken; exact State.request_refused ready 2 _ taken

/-! ## CANCEL_ENTRY and SET_QUOTA (R69, R82, R83) -/

/-- An entry freed in an event of its own (R83, R159). -/
theorem State.freeEntry_spec {s : State} {i : EntryIx} (used : (s.entry i).body.isSome = true) :
    let ends := fun u : Subscription => decide (u.source = .entry i (s.entry i).inst)
    EntrySet i { inst := (s.entry i).inst, body := none } 1 1 s (s.freeEntry i) ∧ SubsEnd ends s (s.freeEntry i) ∧
      ∀ q, (s.freeEntry i).port q = (s.port q).storesIf (s.attached q) (s.endedRecords ends s.stamp q) := by
  have set := EntrySet.vacate s i
  have vacated := s.vacate_only i
  have gone := State.sourceGone_of_entryBecomes set.1 used fun c => vacated.channel c
  have after := State.endGone_only (s.vacate i) s
  obtain ⟨ended, records⟩ := State.endGone_spec (s.vacate i) s
  simp only [gone, Option.isNone_none, Bool.true_and] at ended records
  obtain ⟨⟨entry, others⟩, quotas, ⟨rise, riseFull⟩, walk⟩ := set
  refine ⟨⟨⟨(after.entry i).trans entry, fun j hj => (after.entry j).trans (others j hj)⟩, ?_, ⟨?_, ?_⟩, ?_⟩, ?_, ?_⟩
  · exact (congrArg (·.quotas) after.schedule).trans quotas
  · exact (congrArg (·.defGen) after.schedule).trans rise
  · exact (congrArg (·.fullGen) after.schedule).trans riseFull
  · exact after.digest.trans walk
  · intro j
    have sub := ended j
    rw [vacated.sub j] at sub
    exact sub
  · intro q
    have port := records q
    rw [vacated.port q, vacated.attached q, vacated.stamp,
      State.endedRecords_congr (fun j => vacated.sub j) fun _ => rfl] at port
    exact port

theorem blockSetQuota_of_number {p : Port} {target quota : Byte} {s : State} (holder : s.isHolder p = true)
    (h : target.toNat < 4) (q : quota.toNat ≤ 64) :
    blockSetQuota p target quota s =
      (s.setQuota ⟨target.toNat, h⟩ quota.toNat).answer .ok
        [target, quota, byteOf (s.portCount ⟨target.toNat, h⟩)] := by
  unfold blockSetQuota portOf
  rw [if_neg (by rw [holder]; decide), dif_pos h]
  exact if_neg (Nat.not_lt.2 q)

theorem blockSetQuota_of_range {p : Port} {target quota : Byte} {s : State} (holder : s.isHolder p = true)
    (h : ¬ (target.toNat < 4 ∧ quota.toNat ≤ 64)) : blockSetQuota p target quota s = s.refuse .badArg := by
  unfold blockSetQuota portOf
  rw [if_neg (by rw [holder]; decide)]
  by_cases port : target.toNat < 4
  · rw [dif_pos port]
    exact if_pos (by omega)
  · rw [dif_neg port]

/-- Settles O39: a CANCEL is the entry freed and the response in the slot of a port that the end of the subscriptions sees
as it was; SET_QUOTA replaces a quota. -/
theorem cancelEntryAndSetQuota : Obligations.CancelEntryAndSetQuota := by
  intro p a b s ready
  refine ⟨⟨_, rfl, State.request_ownedHandle ready rfl fun i e body inst owner taken => ?_⟩, ⟨_, rfl, ?_⟩⟩
  · subst inst
    obtain ⟨set, ended, ports⟩ := State.freeEntry_spec (s := s.shiftOut p ((s.port p).requestMiso (2 + 3))) (i := i)
      (congrArg Option.isSome body)
    have only := State.request_answered_only ready 2 taken (State.freeEntry_only ..)
    intro ends
    rw [State.bothGenerations_congr (State.schedule_request ready taken)]
    rw [State.request_answered ready 2 taken] at only ⊢
    refine ⟨only.mono (by decide), set, ended, fun q => ?_⟩
    rw [← s.port_answered]
    have := State.port_setSlot_eq (F := fun v => v.storesIf _ _) (ports q) (fun v y => PortUnit.storesIf_slot ..) p
    rw [State.attached_shiftOut] at this
    exact this _
  · by_cases holder : s.authority.holder = some p
    · rw [if_neg (not_not.2 holder)]
      have isHolder : (s.shiftOut p ((s.port p).requestMiso (2 + 3))).isHolder p = true := decide_eq_true holder
      by_cases range : a.toNat < 4 ∧ b.toNat ≤ 64
      · rw [dif_pos range]
        have block := blockSetQuota_of_number isHolder range.1 range.2
        obtain ⟨only, replied⟩ := State.request_replied ready 2 block (State.setQuota_only ..)
        refine ⟨only.mono (by decide), State.schedule_request ready block, ?_⟩
        have count : s.portCount ⟨a.toNat, range.1⟩ = ((List.finRange 64).filter fun i =>
            (s.entry i).body.any fun e => decide (e.owner.val = a.toNat)).length := by
          rw [State.portCount_eq]
          simp only [Fin.ext_iff]
        rw [← count]
        exact replied
      · rw [dif_neg range]
        exact State.request_refused ready 2 _ (blockSetQuota_of_range isHolder range)
    · rw [if_pos holder]
      exact State.request_refused ready 2 _ (if_pos (decide_eq_false holder))

end Sys2Proof.Machine
end

section
/-! READ_ENTRY and LIST_ENTRIES (R64, R84, R85, R193). -/

namespace Sys2Proof.Machine

/-! ## The fields of READ_ENTRY (R84, R193) -/

theorem optTime_eq (x : Option Nat) :
    optTime x = (match x with
      | none => List.replicate 8 0
      | some d => 1 :: bytesBE 4 (d / 1000000) ++ bytesBE 3 (d % 1000000)) := by
  cases x <;> rfl

theorem optNat_two_eq (x : Option Nat) :
    optNat 2 x = (match x with
      | none => [0, 0, 0]
      | some r => 1 :: bytesBE 2 r) := by
  cases x <;> rfl

theorem Body.lineBytes_eq (b : Body) :
    b.lineBytes = (match b.line with
      | none => [0, 0, 0]
      | some x => [1, byteOf x.1.val, byteOf x.2.code]) := by
  unfold Body.lineBytes
  cases b.line <;> rfl

theorem Body.recordBytes_eq (b : Body) :
    b.recordBytes = (match b.record with
      | none => [0, 0]
      | some l => [1, byteOf l]) := by
  unfold Body.recordBytes
  cases b.record with
  | none => rfl
  | some l => exact congrArg (1 :: ·) (bytesBE_one l)

theorem Body.lastBytes_eq (b : Body) :
    b.lastBytes = (match b.last with
      | none => List.replicate 14 0
      | some l => 1 :: l.stamp.bytes ++ [flagByte l.late] ++ bytesBE 2 l.missed) := by
  unfold Body.lastBytes
  cases b.last <;> rfl

/-! ## The fields of LIST_ENTRIES (R85, R193) -/

theorem State.freeEntries_eq (s : State) :
    s.freeEntries = ((List.finRange 64).filter fun i => (s.entry i).body.isNone).length := by
  have total := List.length_eq_length_filter_add (l := List.finRange 64) fun i => (s.entry i).body.any fun _ => true
  rw [List.length_finRange] at total
  have none : ∀ i, (!(s.entry i).body.any fun _ => true) = (s.entry i).body.isNone := fun i => by
    cases (s.entry i).body <;> rfl
  unfold State.freeEntries
  rw [State.countEntries_eq]
  simp only [none] at total
  exact Nat.sub_eq_of_eq_add (total.trans (Nat.add_comm ..))

theorem scopeOf_of_le {a : Byte} (h : a.toNat ≤ 1) : ∃ sc, scopeOf a = some sc ∧ (sc = .all ↔ a = 1) := by
  obtain rfl | rfl := Byte.toNat_le_one.1 h
  · exact ⟨.own, rfl, by decide⟩
  · exact ⟨.all, rfl, by decide⟩

theorem scopeOf_of_not_le {a : Byte} (h : ¬ a.toNat ≤ 1) : scopeOf a = none := by
  unfold scopeOf
  rw [if_neg fun zero => h (Byte.toNat_le_one.2 (.inl zero)), if_neg fun one => h (Byte.toNat_le_one.2 (.inr one))]

theorem State.inScope_eq (s : State) (p : Port) {sc : Scope} {a : Byte} (h : sc = .all ↔ a = 1) (start : Nat) :
    s.inScope p sc start = (List.finRange 64).filter fun i => decide (start ≤ i.val) &&
      (s.entry i).body.any fun e => decide (a = 1) || decide (e.owner = p) := by
  unfold State.inScope
  rw [finRange_entries]
  simp only [h]

theorem optNat_continueIndex (found : List EntryIx) :
    optNat 1 (continueIndex found) =
      if 16 < found.length then [1, byteOf (((found[15]?).map Fin.val).getD 0 + 1)] else [0, 0] := by
  unfold continueIndex
  by_cases more : 16 < found.length
  · rw [if_pos more, if_pos more, List.getLast?_eq_getElem?, List.length_take, Nat.min_eq_left more.le,
      List.getElem?_take_of_lt (by decide), List.getElem?_eq_getElem (by omega)]
    exact congrArg (1 :: ·) (bytesBE_one _)
  · rw [if_neg more, if_neg more]
    rfl

theorem Entry.summary_eq (e : Entry) (i : EntryIx) :
    e.summary i = (match e.body with
      | none => []
      | some b => [byteOf i.val, e.inst, byteOf b.owner.val, byteOf b.defn.code, byteOf b.run.code,
          flagByte b.shareable]) := by
  unfold Entry.summary
  cases e.body <;> rfl

/-- Settles O13: both requests answer without changing anything, and their fields are those of the table, part for part. -/
theorem readAndListEntriesReport : Obligations.ReadAndListEntriesReport := by
  intro p a b s ready
  refine ⟨⟨_, rfl, ?_⟩, ⟨_, rfl, ?_⟩⟩
  · by_cases index : a.toNat < 64
    · rw [dif_pos index]
      cases body : (s.entry ⟨a.toNat, index⟩).body with
      | none => exact State.request_refused ready 2 _ (State.withHandle_of_free body)
      | some e =>
        have block := State.withHandle_of_body (s := s.shiftOut p ((s.port p).requestMiso (2 + 3))) (b := b)
          (go := fun i e => (s.shiftOut p ((s.port p).requestMiso (2 + 3))).answer .ok
            (e.readBytes i b ++ s.generations)) body
        dsimp only
        by_cases inst : (s.entry ⟨a.toNat, index⟩).inst = b
        · rw [if_neg (not_not.2 inst)]
          refine State.request_reported ready 2 _ (block.trans ((if_pos inst).trans ?_))
          unfold Body.readBytes State.generations
          have number : byteOf (⟨a.toNat, index⟩ : EntryIx).val = a := byteOf_toNat a
          rw [number, optTime_eq, optNat_two_eq, Body.lineBytes_eq, Body.recordBytes_eq, Body.lastBytes_eq,
            ← List.append_assoc] <;> rfl
        · rw [if_pos inst]
          exact State.request_refused ready 2 _ (block.trans (if_neg inst))
    · rw [dif_neg index]
      exact State.request_refused ready 2 _ (State.withHandle_of_not_index index)
  · by_cases fields : a.toNat ≤ 1 ∧ b.toNat < 64
    · rw [if_pos fields]
      obtain ⟨sc, scope, all⟩ := scopeOf_of_le fields.1
      intro found shown
      refine State.request_reported ready 2 _ ?_
      unfold blockListEntries entryOf
      rw [scope, dif_pos fields.2]
      dsimp only
      have length : min 16 found.length = shown.length := (List.length_take ..).symm
      rw [State.inScope_eq _ p all, State.freeEntries_eq, State.portCount_eq, optNat_continueIndex]
      simp only [Entry.summary_eq]
      unfold State.generations
      rw [← List.append_assoc]
      rw [← length]
      rfl
    · rw [if_neg fields]
      refine State.request_refused ready 2 _ ?_
      unfold blockListEntries entryOf
      by_cases scope : a.toNat ≤ 1
      · rw [dif_neg fun index => fields ⟨scope, index⟩]
        cases scopeOf a <;> rfl
      · rw [scopeOf_of_not_le scope]

end Sys2Proof.Machine
end

section
/-! A port that gives up everything it holds: PORT_RESET, DETACH, and the return of the port (R86, R129, R130, R151, R159,
R169, R178, R182, R183). -/

namespace Sys2Proof.Machine

/-! ## The entries of a port freed (R71, R72, R86) -/

/-- The generations have risen by so much each, as the walk that watches them notes, and the quotas are as they were. -/
structure TableRises (d f : Nat) (s t : State) : Prop where
  quotas : t.schedule.quotas = s.schedule.quotas
  rise : GenerationsRise d f s t
  walk : t.digest = s.digest.map (Walk.risen d f)

theorem TableRises.refl (s : State) : TableRises 0 0 s s :=
  ⟨rfl, ⟨(BitVec.add_zero _).symm, (BitVec.add_zero _).symm⟩, (map_risen_zero _).symm⟩

theorem TableRises.trans {d f d' f' : Nat} {s t u : State} (h : TableRises d f s t) (k : TableRises d' f' t u) :
    TableRises (d + d') (f + f') s u :=
  ⟨k.quotas.trans h.quotas, h.rise.trans k.rise, by rw [k.walk, h.walk, map_risen_risen]⟩

theorem TableRises.of_inOrder {l : List EntryIx} {s t : State} (h : InOrder (fun _ => TableRises 1 1) l s t) :
    TableRises l.length l.length s t := by
  induction l generalizing s with
  | nil => rw [show t = s from h]; exact .refl s
  | cons i is ih =>
    obtain ⟨u, first, rest⟩ := h
    rw [List.length_cons, Nat.add_comm]
    exact first.trans (ih rest)

/-- The entries that a port owns, in ascending order of index. -/
def State.ownedEntries (s : State) (p : Port) : List EntryIx :=
  (List.finRange 64).filter fun i => (s.entry i).body.any fun b => decide (b.owner = p)

theorem State.mem_ownedEntries (s : State) (p : Port) (i : EntryIx) :
    i ∈ s.ownedEntries p ↔ (s.entry i).body.any (fun b => decide (b.owner = p)) = true := by
  unfold State.ownedEntries
  rw [List.mem_filter]
  exact and_iff_right (List.mem_finRange i)

theorem State.freeEntriesOf_rises (s : State) (p : Port) :
    TableRises (s.ownedEntries p).length (s.ownedEntries p).length s (s.freeEntriesOf p) := by
  unfold State.ownedEntries
  rw [finRange_entries]
  refine .of_inOrder (inOrder_foldl (active := fun t i => (t.entry i).body.any fun b => decide (b.owner = p))
    (fun t i idle => if_neg (by rw [idle]; decide)) (fun t i acts => ?_) (fun t i j other => ?_)
    allEntries nodup_allEntries s)
  · obtain ⟨-, quotas, rise, walk⟩ := EntrySet.vacate t i
    rw [if_pos acts]
    exact ⟨quotas, rise, walk⟩
  · by_cases acts : ((t.entry i).body.any fun b => decide (b.owner = p)) = true
    · rw [if_pos acts, t.entry_vacate, if_neg other]
    · rw [if_neg acts]

/-! ## Everything given up -/

/-- What giving up everything does, the port not being attached, from s to t; its own unit and its walk are left to it. -/
structure GaveUp (p : Port) (s t : State) : Prop where
  entry : ∀ i, t.entry i = if i ∈ s.ownedEntries p then { inst := (s.entry i).inst, body := none } else s.entry i
  rises : TableRises (s.ownedEntries p).length (s.ownedEntries p).length s t
  line : ∀ l, t.line l =
    if (s.line l).owner = some p ∧ (s.line l).pinned = false then (s.line l).released else s.line l
  channel : ∀ c, t.channel c = if (s.channel c).owner = some p then (s.channel c).released else s.channel c
  subs : SubsEnd (fun x => decide (x.subscriber = p) || s.ownsSource p x.source) s t
  authority : if s.authority.holder = some p then t.slew = s.discardSlew ∧ t.authority =
      { s.authority with holder := none, active := none, waiting := none, report := s.discardReport }
    else t.slew = s.slew ∧ t.authority = s.authority
  port : ∀ q, t.port q =
    ((s.port q).storesIf (s.attached q)
      (s.endedRecords (fun x => s.ownsSource p x.source) s.stamp q)).raisedIf
      (decide (s.authority.holder = some p) && s.attached q) .authorityChanged

/-- The entries, the lines and the channels of a port given up, the first three parts of giving up everything (R182). -/
def State.releaseUnits (s : State) (p : Port) : State := ((s.freeEntriesOf p).releaseLines p).releaseChannels p

theorem State.releaseUnits_only (s : State) (p : Port) :
    OnlyChanges [.schedule, .lines, .channels, .digest] s (s.releaseUnits p) :=
  (((s.freeEntriesOf_only p).mono (by decide)).trans ((State.releaseLines_only _ p).mono (by decide))).trans
    ((State.releaseChannels_only _ p).mono (by decide))

theorem State.entry_releaseUnits (s : State) (p : Port) (i : EntryIx) :
    (s.releaseUnits p).entry i =
      if i ∈ s.ownedEntries p then { inst := (s.entry i).inst, body := none } else s.entry i := by
  simp only [s.mem_ownedEntries p]
  exact ((State.releaseChannels_only _ p).entry i).trans
    (((State.releaseLines_only _ p).entry i).trans (s.entry_freeEntriesOf p i))

theorem State.line_releaseUnits (s : State) (p : Port) (l : LineNo) :
    (s.releaseUnits p).line l =
      if (s.line l).owner = some p ∧ (s.line l).pinned = false then (s.line l).released else s.line l := by
  have same := (s.freeEntriesOf_only p).line l
  refine ((State.releaseChannels_only _ p).line l).trans ((State.line_releaseLines _ p l).trans ?_)
  rw [same]

theorem State.channel_releaseUnits (s : State) (p : Port) (c : ChanNo) :
    (s.releaseUnits p).channel c =
      if (s.channel c).owner = some p then (s.channel c).released else s.channel c := by
  have same : ((s.freeEntriesOf p).releaseLines p).channel c = s.channel c :=
    ((State.releaseLines_only _ p).channel c).trans ((s.freeEntriesOf_only p).channel c)
  refine (State.channel_releaseChannels _ p c).trans ?_
  rw [same]

theorem State.releaseUnits_rises (s : State) (p : Port) :
    TableRises (s.ownedEntries p).length (s.ownedEntries p).length s (s.releaseUnits p) := by
  obtain ⟨quotas, rise, walk⟩ := s.freeEntriesOf_rises p
  have only := (State.releaseLines_only (s.freeEntriesOf p) p |>.mono (qs := [.lines, .channels]) (by decide)).trans
    ((State.releaseChannels_only _ p).mono (by decide))
  have schedule : (s.releaseUnits p).schedule = (s.freeEntriesOf p).schedule := only.schedule
  refine ⟨?_, ?_, only.digest.trans walk⟩
  · rw [schedule, quotas]
  · unfold GenerationsRise at rise ⊢
    rw [schedule]
    exact rise

/-- The sources that go as a port gives up its entries and its channels are those it owned (R159). -/
theorem State.sourceGone_releaseUnits (s : State) (p : Port) (src : SubSource) :
    (s.releaseUnits p).sourceGone s src = s.ownsSource p src := by
  cases src with
  | channel c =>
    show ((s.channel c).owner.isSome && ((s.releaseUnits p).channel c).owner.isNone) =
      decide ((s.channel c).owner = some p)
    rw [s.channel_releaseUnits]
    by_cases own : (s.channel c).owner = some p
    · rw [if_pos own, own, decide_eq_true rfl]
      rfl
    · rw [if_neg own, decide_eq_false own]
      cases (s.channel c).owner <;> rfl
  | entry i inst =>
    show (decide ((s.entry i).inst = inst) && (s.entry i).body.isSome && ((s.releaseUnits p).entry i).body.isNone) =
      (decide ((s.entry i).inst = inst) && (s.entry i).body.any fun b => decide (b.owner = p))
    rw [s.entry_releaseUnits, Bool.and_assoc]
    refine congrArg _ ?_
    by_cases own : i ∈ s.ownedEntries p
    · have any := (s.mem_ownedEntries p i).1 own
      rw [if_pos own, any, Option.isSome_of_any any]
      rfl
    · rw [if_neg own, Bool.eq_false_iff.2 (mt (s.mem_ownedEntries p i).2 own)]
      cases (s.entry i).body <;> rfl

/-! ## The subscriptions -/

theorem SubsEnd.trans {f g : Subscription → Bool} {s t u : State} (h : SubsEnd f s t) (k : SubsEnd g t u) :
    SubsEnd (fun x => g x || f x) s u := by
  intro j
  rw [k j, h j]
  cases s.sub j with
  | none => rfl
  | some x => cases hf : f x <;> cases hg : g x <;> simp [hf, hg]

theorem SubsEnd.congr {f g : Subscription → Bool} {s t : State} (h : SubsEnd f s t) (e : ∀ x, f x = g x) :
    SubsEnd g s t := funext e ▸ h

/-! ## The authority (R45, R182 step 5) -/

theorem State.releaseAuthorityOf_held (s : State) (p : Port) :
    if s.authority.holder = some p then (s.releaseAuthorityOf p).slew = s.discardSlew ∧
      (s.releaseAuthorityOf p).authority =
      { s.authority with holder := none, active := none, waiting := none, report := s.discardReport }
    else (s.releaseAuthorityOf p).slew = s.slew ∧ (s.releaseAuthorityOf p).authority = s.authority := by
  unfold State.releaseAuthorityOf
  by_cases holder : s.authority.holder = some p
  · rw [if_pos holder, if_pos holder]
    exact ⟨s.changeHolder_slew .., s.changeHolder_authority ..⟩
  · rw [if_neg holder, if_neg holder]
    exact ⟨rfl, rfl⟩

theorem State.port_releaseAuthorityOf (s : State) (p q : Port) :
    (s.releaseAuthorityOf p).port q =
      (s.port q).raisedIf (decide (s.authority.holder = some p) && s.attached q) .authorityChanged := by
  unfold State.releaseAuthorityOf
  by_cases holder : s.authority.holder = some p
  · rw [if_pos holder, s.port_changeHolder, decide_eq_true holder]
    rfl
  · rw [if_neg holder, decide_eq_false holder]
    rfl

/-- Everything given up but the authority: steps 1 to 4 of R182. -/
def State.releaseOwned (s : State) (p : Port) : State := ((s.releaseUnits p).endGone s).dropSubs p

theorem State.releaseOwned_only (s : State) (p : Port) :
    OnlyChanges [.subs, .ports] (s.releaseUnits p) (s.releaseOwned p) :=
  (State.endGone_only (s.releaseUnits p) s).trans ((State.dropSubs_only _ p).mono (by decide))

theorem State.giveUp_eq (s : State) (p : Port) : s.giveUp p = (s.releaseOwned p).releaseAuthorityOf p := rfl

theorem State.releaseOwned_subsEnd (s : State) (p : Port) :
    SubsEnd (fun x => decide (x.subscriber = p) || s.ownsSource p x.source) s (s.releaseOwned p) := by
  have same : SubsEnd (fun _ => false) s (s.releaseUnits p) := fun j => by
    rw [(s.releaseUnits_only p).sub j]
    cases s.sub j <;> rfl
  have gone := (State.endGone_spec (s.releaseUnits p) s).1.congr fun x => s.sourceGone_releaseUnits p x.source
  refine ((same.trans gone).trans (State.sub_dropSubs _ p)).congr fun x => ?_
  rw [Bool.or_false]

theorem State.port_releaseOwned (s : State) (p q : Port) :
    (s.releaseOwned p).port q = (s.port q).storesIf (s.attached q)
      (s.endedRecords (fun x => s.ownsSource p x.source) s.stamp q) := by
  have released := s.releaseUnits_only p
  refine ((State.dropSubs_only _ p).port q).trans (((State.endGone_spec (s.releaseUnits p) s).2 q).trans ?_)
  rw [released.port q, released.attached q, released.stamp,
    State.endedRecords_congr (fun j => released.sub j) fun x => s.sourceGone_releaseUnits p x.source]

theorem State.attached_releaseOwned (s : State) (p q : Port) : (s.releaseOwned p).attached q = s.attached q := by
  rw [State.attached_eq, s.port_releaseOwned, PortUnit.storesIf_state]
  rfl

theorem State.giveUp_gaveUp (s : State) (p : Port) : GaveUp p s (s.giveUp p) := by
  have units := s.releaseUnits_only p
  have owned := s.releaseOwned_only p
  have slew : (s.releaseOwned p).slew = s.slew := owned.slew.trans units.slew
  have authority : (s.releaseOwned p).authority = s.authority := owned.authority.trans units.authority
  have left := State.releaseAuthorityOf_only (s.releaseOwned p) p
  have rest := (owned.mono (qs := [.slew, .authority, .subs, .ports]) (by decide)).trans (left.mono (by decide))
  obtain ⟨quotas, rise, walk⟩ := s.releaseUnits_rises p
  refine { entry := fun i => ?_, rises := ⟨?_, ?_, ?_⟩, line := fun l => ?_, channel := fun c => ?_, subs := fun j => ?_,
           authority := ?_, port := fun q => ?_ }
  · exact (rest.entry i).trans (s.entry_releaseUnits p i)
  · exact (congrArg (·.quotas) rest.schedule).trans quotas
  · exact ⟨(congrArg (·.defGen) rest.schedule).trans rise.1, (congrArg (·.fullGen) rest.schedule).trans rise.2⟩
  · exact rest.digest.trans walk
  · exact (rest.line l).trans (s.line_releaseUnits p l)
  · exact (rest.channel c).trans (s.channel_releaseUnits p c)
  · exact (left.sub j).trans (s.releaseOwned_subsEnd p j)
  · have held := State.releaseAuthorityOf_held (s.releaseOwned p) p
    unfold State.discardSlew State.discardReport at held ⊢
    rw [authority, slew] at held
    exact held
  · refine (State.port_releaseAuthorityOf (s.releaseOwned p) p q).trans ?_
    rw [authority, s.attached_releaseOwned, s.port_releaseOwned]

/-- A port that has given up everything while not attached, with its walk abandoned and its own unit at its end (R182). -/
theorem GaveUp.givesUp {p : Port} {u : PortUnit} {s t v : State} (h : GaveUp p (s.setPortState p .resetHold) t)
    (only : OnlyChanges [.digest, .ports, .pins] t v)
    (walk : v.digest = t.digest.filter fun w => decide (w.requester ≠ p)) (own : v.port p = u)
    (others : ∀ q, q ≠ p → v.port q = t.port q) : GivesUp p u s v := by
  obtain ⟨entry, ⟨quotas, rise, risen⟩, line, channel, subs, authority, port⟩ := h
  refine ⟨fun i => (only.entry i).trans (entry i), (congrArg (·.quotas) only.schedule).trans quotas,
    ⟨(congrArg (·.defGen) only.schedule).trans rise.1, (congrArg (·.fullGen) only.schedule).trans rise.2⟩,
    fun l => (only.line l).trans (line l), fun c => (only.channel c).trans (channel c),
    fun j => (only.sub j).trans (subs j), ?_, ?_, own, fun q hq => ?_⟩
  · rw [only.slew, only.authority]
    exact authority
  · rw [walk, risen, Option.filter_map]
    rfl
  · have unit : (s.setPortState p .resetHold).port q = s.port q := (s.port_setPort p q _).trans (if_neg hq)
    rw [others q hq, port q, State.attached_eq, unit]
    rfl

theorem State.digest_abandonWalk (s : State) (p : Port) :
    (s.abandonWalk p).digest = s.digest.filter fun w => decide (w.requester ≠ p) := by
  unfold State.abandonWalk
  cases walk : s.digest with
  | none => exact walk
  | some w =>
    dsimp only
    by_cases own : w.requester = p
    · rw [if_pos own, Option.filter_some, if_neg (by simp [own])]
    · rw [if_neg own, Option.filter_some, if_pos (decide_eq_true own), walk]

/-- The unit of the port that gives everything up is left alone by it, the port not being attached meanwhile (R155). -/
theorem State.port_giveUp_own (s : State) (p : Port) :
    ((s.setPortState p .resetHold).giveUp p).port p = { s.port p with state := .resetHold } := by
  have unit : (s.setPortState p .resetHold).port p = { s.port p with state := .resetHold } :=
    (s.port_setPort p p _).trans (if_pos rfl)
  have away : (s.setPortState p .resetHold).attached p = false := by
    rw [State.attached_eq, unit]
    rfl
  rw [((s.setPortState p .resetHold).giveUp_gaveUp p).port p, away, Bool.and_false, unit]
  rfl

theorem State.portGone_givesUp (s : State) (p : Port) :
    GivesUp p { s.port p with
      state := .resetHold, queue := [], gapPending := false, conditions := 0, mask := 0, slot := .empty,
      transfer := (s.port p).transfer.broken } s (s.portGone p) := by
  set t := (s.setPortState p .resetHold).giveUp p with ht
  have abandoned := t.abandonWalk_only p
  refine (State.giveUp_gaveUp _ p).givesUp (t := t) ?_ (t.digest_abandonWalk p) ?_ fun q hq => ?_
  · exact (abandoned.mono (by decide)).trans ((State.setPort_only ..).mono (by decide))
  · refine ((t.abandonWalk p).port_setPort p p _).trans ((if_pos rfl).trans ?_)
    rw [abandoned.port p, ht, s.port_giveUp_own]
    rfl
  · exact ((t.abandonWalk p).port_setPort p q _).trans ((if_neg hq).trans (abandoned.port q))

/-- A DETACH ends no walk, so it is for a port that has none (R176). -/
theorem State.detached_givesUp {s : State} {p : Port} (other : ∀ w, s.digest = some w → w.requester ≠ p) :
    GivesUp p { s.port p with
      state := .ready, queue := [], gapPending := false, conditions := 0, mask := 0, slot := .empty,
      causes := (s.port p).causes ||| 0x10#5, transfer := (s.port p).transfer.broken } s
      ((s.detached p).addCauseAt p .detach) := by
  set t := (s.setPortState p .resetHold).giveUp p with ht
  have gaveUp : GaveUp p (s.setPortState p .resetHold) t := State.giveUp_gaveUp _ p
  have kept : s.digest.filter (fun w => decide (w.requester ≠ p)) = s.digest := by
    cases walk : s.digest with
    | none => rfl
    | some w => rw [Option.filter_some, if_pos (decide_eq_true (other w walk))]
  have unit : ∀ q, ((s.detached p).addCauseAt p .detach).port q =
      if q = p then { (t.port p).cleared with state := .ready, causes := addBit (t.port p).causes ResetCause.detach.bit }
      else t.port q := fun q => by
    unfold State.detached State.addCauseAt State.setPortState State.clearPort
    simp only [State.port_setPort]
    split <;> rfl
  refine gaveUp.givesUp ?_ ?_ ?_ fun q hq => (unit q).trans (if_neg hq)
  · exact (((State.setPort_only ..).trans (State.setPort_only ..)).trans (State.setPort_only ..)).mono (by decide)
  · show t.digest = _
    rw [gaveUp.rises.walk, Option.filter_map]
    exact congrArg (Option.map _) kept.symm
  · rw [unit, if_pos rfl, ht, s.port_giveUp_own]
    rfl

/-- What a port gives up is the same once the transaction at it has ended. -/
theorem GivesUp.of_shiftOut {p : Port} {u : PortUnit} {s t : State} {bs : List Byte}
    (h : GivesUp p u (s.shiftOut p bs) t) :
    GivesUp p u s t := by
  obtain ⟨entry, quotas, rise, line, channel, subs, authority, walk, own, others⟩ := h
  refine ⟨entry, quotas, rise, line, channel, subs, authority, walk, own, fun q hq => ?_⟩
  have port := others q hq
  rw [State.attached_shiftOut, State.port_shiftOut, if_neg hq] at port
  exact port

theorem PortBecomes.setPort (s : State) (p : Port) (u : PortUnit) : PortBecomes p u s (s.setPort p u) :=
  ⟨(s.port_setPort p p u).trans (if_pos rfl), fun q hq => (s.port_setPort p q u).trans (if_neg hq)⟩

theorem PortBecomes.trans {p : Port} {u v : PortUnit} {s t r : State} (h : PortBecomes p u s t)
    (k : PortBecomes p v t r) :
    PortBecomes p v s r :=
  ⟨k.1, fun q hq => (k.2 q hq).trans (h.2 q hq)⟩

theorem State.leaveHold_becomes (s : State) (p : Port) :
    PortBecomes p { s.port p with state := .ready, causes := (s.port p).causes ||| 0x08#5 } s (s.leaveHold p) := by
  have ready := PortBecomes.setPort s p { s.port p with state := .ready }
  have caused := PortBecomes.setPort (s.setPortState p .ready) p (((s.setPortState p .ready).port p).addCause .portReset)
  refine (ready.trans caused).imp_left fun unit => unit.trans ?_
  rw [show (s.setPortState p .ready).port p = { s.port p with state := .ready } from ready.1]
  rfl

theorem execPortReset_eq {s : State} (running : s.running = true) (p : Port) :
    exec (.portReset p) s =
      .next (if s.attached p = true then (s.setPrst p .low).portGone p else s.setPrst p .low) := by
  show execPortReset p s = _
  unfold execPortReset
  rw [running, Bool.true_and]

theorem execPortLeavesResetHold_eq {s : State} (running : s.running = true) (p : Port) :
    exec (.portLeavesResetHold p) s =
      .next (if s.attached p = true then s.setPrst p .high else (s.setPrst p .high).leaveHold p) := by
  show execPortLeavesResetHold p s = _
  unfold execPortLeavesResetHold
  rw [running, Bool.true_and]
  cases s.attached p <;> rfl

/-- Settles O50: a port at which PRST goes low, and one that DETACHes, give up everything while not attached and differ in
what becomes of their own unit and their walk; a port at which PRST goes high has its own unit changed alone. -/
theorem portsResetDetachAndReturn : Obligations.PortsResetDetachAndReturn := by
  intro p s running gone broken parts
  refine ⟨⟨_, execPortReset_eq running p, ?_⟩, fun ready other => ⟨_, rfl, ?_⟩,
    ⟨_, execPortLeavesResetHold_eq running p, ?_⟩⟩
  · have pin := s.setPrst_only p .low
    cases s.attached p with
    | false => exact ⟨rfl, fun _ => pin, nofun⟩
    | true =>
      have unit := (s.setPrst p .low).portGone_only p
      have givesUp := (s.setPrst p .low).portGone_givesUp p
      rw [Transfer.broken_eq] at givesUp
      exact ⟨unit.pins, nofun, fun _ => ⟨(pin.mono (by decide)).trans (unit.mono (by decide)), givesUp⟩⟩
  · have state : (s.port p).state = .ready := ready.1
    rw [State.request_ready ready]
    have unit := (s.port_shiftOut p p ((s.port p).requestMiso (0 + 3))).trans (if_pos rfl)
    have givesUp :=
      (State.detached_givesUp (s := s.shiftOut p ((s.port p).requestMiso (0 + 3))) (p := p) other).of_shiftOut
    rw [unit, ← state] at givesUp
    refine ⟨?_, givesUp⟩
    exact (((s.setPort_only ..).mono (by decide)).trans (State.detached_only ..)).trans
      ((State.setPort_only ..).mono (by decide))
  · have pin := s.setPrst_only p .high
    cases s.attached p with
    | true => exact ⟨rfl, fun _ => pin, nofun⟩
    | false =>
      have unit := (s.setPrst p .high).leaveHold_only p
      exact ⟨unit.pins, nofun, fun _ => ⟨(pin.mono (by decide)).trans (unit.mono (by decide)),
        (s.setPrst p .high).leaveHold_becomes p⟩⟩

end Sys2Proof.Machine
end

section
/-! The next match of a CALENDAR pattern, and the matches passed over (R92, R93, R106): each search of the model finds the
first value of an interval that satisfies a test. -/

namespace Sys2Proof.Machine

/-! ## The first value of an interval that satisfies a test -/

/-- The result of a search is the first value from lo on and before hi that satisfies the test, or none where none does. -/
def IsFirst (test : Nat → Bool) (lo hi : Nat) (found : Option Nat) : Prop :=
  match found with
  | some x => lo ≤ x ∧ x < hi ∧ test x = true ∧ ∀ y, lo ≤ y → y < x → test y = false
  | none => ∀ y, lo ≤ y → y < hi → test y = false

namespace IsFirst

variable {test : Nat → Bool} {lo mid hi : Nat} {r q : Option Nat}

/-- Two searches, one after the other, over two intervals that meet. -/
theorem or (h : IsFirst test lo mid r) (k : IsFirst test mid hi q) (low : lo ≤ mid) (high : mid ≤ hi) :
    IsFirst test lo hi (r.or q) := by
  cases r with
  | some x =>
    obtain ⟨le, lt, sat, first⟩ := h
    exact ⟨le, by omega, sat, first⟩
  | none =>
    have before : ∀ y, lo ≤ y → (mid ≤ y → test y = false) → test y = false := fun y le after =>
      (Nat.lt_or_ge y mid).elim (h y le) after
    cases q with
    | some x =>
      obtain ⟨le, lt, sat, first⟩ := k
      exact ⟨by omega, lt, sat, fun y hy lt => before y hy fun ge => first y ge lt⟩
    | none => exact fun y hy lt => before y hy fun ge => k y ge lt

/-- A search that is made only where a condition holds, without which the interval holds no value to be found. -/
theorem guarded {c : Prop} [Decidable c] (h : c → IsFirst test lo hi r)
    (empty : ¬ c → ∀ y, lo ≤ y → y < hi → test y = false) : IsFirst test lo hi (if c then r else none) := by
  by_cases hc : c
  · rw [if_pos hc]; exact h hc
  · rw [if_neg hc]; exact empty hc

/-- Searches through blocks of one width, in their order. -/
theorem findSome {base width : Nat} {f : Nat → Option Nat} (n : Nat)
    (blocks : ∀ i, i < n → IsFirst test (base + i * width) (base + (i + 1) * width) (f i)) :
    IsFirst test base (base + n * width) ((List.range n).findSome? f) := by
  induction n with
  | zero => exact fun y le lt => absurd lt (by omega)
  | succ n ih =>
    have last := blocks n (Nat.lt_succ_self n)
    rw [List.range_succ, List.findSome?_append, List.findSome?_singleton]
    exact (ih fun i hi => blocks i (by omega)).or last (by omega) (by rw [Nat.add_mul]; omega)

/-- A search for values from a bound on, the bound being part of the test. -/
theorem from_bound (h : IsFirst (fun y => test y && decide (lo ≤ y)) 0 hi r) : IsFirst test lo hi r := by
  cases r with
  | some x =>
    obtain ⟨-, lt, sat, first⟩ := h
    simp only [Bool.and_eq_true, decide_eq_true_eq] at sat
    exact ⟨sat.2, lt, sat.1, fun y le lt => by simpa [le] using first y (Nat.zero_le y) lt⟩
  | none => exact fun y le lt => by simpa [le] using h y (Nat.zero_le y) lt

/-- A search for another test on an interval moved by an amount. -/
theorem shift {other : Nat → Bool} {amount : Nat} (h : IsFirst test lo hi r)
    (same : ∀ y, y < hi → other (amount + y) = test y) :
    IsFirst other (amount + lo) (amount + hi) (r.map (amount + ·)) := by
  have moved : ∀ y, amount + lo ≤ y → ∃ z, y = amount + z ∧ lo ≤ z := fun y le => ⟨y - amount, by omega, by omega⟩
  cases r with
  | some x =>
    obtain ⟨le, lt, sat, first⟩ := h
    refine ⟨Nat.add_le_add_left le _, Nat.add_lt_add_left lt _, (same x lt).trans sat, fun y ge below => ?_⟩
    obtain ⟨z, rfl, hz⟩ := moved y ge
    have : z < x := Nat.lt_of_add_lt_add_left below
    rw [same z (by omega)]
    exact first z hz this
  | none =>
    intro y ge below
    obtain ⟨z, rfl, hz⟩ := moved y ge
    have : z < hi := Nat.lt_of_add_lt_add_left below
    rw [same z this]
    exact h z hz this

theorem eq_some_iff (h : IsFirst test lo hi r) (x : Nat) :
    r = some x ↔ lo ≤ x ∧ x < hi ∧ test x = true ∧ ∀ y, lo ≤ y → y < x → test y = false := by
  constructor
  · rintro rfl
    exact h
  · intro ⟨le, lt, sat, first⟩
    cases r with
    | none => exact absurd (h x le lt) (by rw [sat]; decide)
    | some z =>
      obtain ⟨le', -, sat', first'⟩ := h
      obtain below | rfl | above := Nat.lt_trichotomy x z
      · exact absurd (first' x le below) (by rw [sat]; decide)
      · rfl
      · exact absurd (first z le' above) (by rw [sat']; decide)

theorem eq_none_iff (h : IsFirst test lo hi r) : r = none ↔ ∀ y, lo ≤ y → y < hi → test y = false := by
  constructor
  · rintro rfl
    exact h
  · intro none
    cases r with
    | none => rfl
    | some x =>
      obtain ⟨le, lt, sat, -⟩ := h
      exact absurd (none x le lt) (by rw [sat]; decide)

end IsFirst

/-! ## The first matching second (R92) -/

/-- Whether a second of the calendar satisfies a pattern, but for its offset (R92). -/
def Pattern.matchesSecond (p : Pattern) (x : Nat) : Bool := p.matchesDay (dayNumber x) && p.matchesTime (secondOfDay x)

theorem Pattern.matchesTime_at (p : Pattern) (h : Nat) {m s : Nat} (hm : m < 60) (hs : s < 60) :
    p.matchesTime (h * 3600 + m * 60 + s) =
      (fieldMatches p.hour h && fieldMatches p.minute m && fieldMatches p.second s) := by
  unfold Pattern.matchesTime
  rw [show hourOf (h * 3600 + m * 60 + s) = h by unfold hourOf; omega,
    show minuteOf (h * 3600 + m * 60 + s) = m by unfold minuteOf; omega,
    show secondOf (h * 3600 + m * 60 + s) = s by unfold secondOf; omega]

/-- Seconds of a day in an hour or a minute that is not the pattern's do not match (R92). -/
theorem Pattern.matchesTime_hour {p : Pattern} {h y : Nat} (differs : fieldMatches p.hour h = false)
    (within : h * 3600 ≤ y ∧ y < (h + 1) * 3600) : p.matchesTime y = false := by
  unfold Pattern.matchesTime
  rw [show hourOf y = h by unfold hourOf; omega, differs]
  rfl

theorem Pattern.matchesTime_minute {p : Pattern} {h m y : Nat} (differs : fieldMatches p.minute m = false) (hm : m < 60)
    (within : h * 3600 + m * 60 ≤ y ∧ y < h * 3600 + (m + 1) * 60) : p.matchesTime y = false := by
  unfold Pattern.matchesTime
  rw [show minuteOf y = m by unfold minuteOf; omega, differs, Bool.and_false]
  rfl

/-- The search through the hours, the minutes and the seconds of a day. -/
theorem Pattern.firstTime_isFirst (p : Pattern) (lo : Nat) : IsFirst p.matchesTime lo 86400 (p.firstTime lo) := by
  have early : ∀ {y}, y < lo → (p.matchesTime y && decide (lo ≤ y)) = false := fun lt => by
    rw [decide_eq_false (Nat.not_le.2 lt), Bool.and_false]
  have other : ∀ {y}, p.matchesTime y = false → (p.matchesTime y && decide (lo ≤ y)) = false := fun differs => by
    rw [differs, Bool.false_and]
  refine IsFirst.from_bound ?_
  refine IsFirst.findSome (base := 0) (width := 3600) 24 fun h _ => ?_
  rw [Nat.zero_add, Nat.zero_add]
  refine IsFirst.guarded (fun hour => ?_) fun guard y le lt => ?_
  · simp only [Bool.and_eq_true, decide_eq_true_eq] at hour
    rw [show (h + 1) * 3600 = h * 3600 + 60 * 60 by omega]
    refine IsFirst.findSome (width := 60) 60 fun m hm => ?_
    refine IsFirst.guarded (fun minute => ?_) fun guard y le lt => ?_
    · simp only [Bool.and_eq_true, decide_eq_true_eq] at minute
      rw [show h * 3600 + (m + 1) * 60 = h * 3600 + m * 60 + 60 * 1 by omega]
      refine IsFirst.findSome (width := 1) 60 fun s hs => ?_
      rw [Nat.mul_one, Nat.mul_one]
      have matching := p.matchesTime_at h hm hs
      rw [hour.1, minute.1, Bool.true_and, Bool.true_and] at matching
      refine IsFirst.guarded (fun second => ⟨Nat.le_refl _, by omega, by beta_reduce; rwa [matching], by omega⟩)
        fun guard y le lt => ?_
      rw [show y = h * 3600 + m * 60 + s by omega, matching]
      exact Bool.eq_false_iff.2 guard
    · by_cases minute : fieldMatches p.minute m = true
      · exact early (by simp only [minute, Bool.true_and, decide_eq_true_eq] at guard; omega)
      · exact other (Pattern.matchesTime_minute (Bool.eq_false_iff.2 minute) hm ⟨le, lt⟩)
  · by_cases hour : fieldMatches p.hour h = true
    · exact early (by simp only [hour, Bool.true_and, decide_eq_true_eq] at guard; omega)
    · exact other (Pattern.matchesTime_hour (Bool.eq_false_iff.2 hour) ⟨le, lt⟩)

theorem Pattern.matchesSecond_at (p : Pattern) (day : Nat) {sod : Nat} (h : sod < 86400) :
    p.matchesSecond (day * 86400 + sod) = (p.matchesDay day && p.matchesTime sod) := by
  unfold Pattern.matchesSecond
  rw [show dayNumber (day * 86400 + sod) = day by unfold dayNumber; omega,
    show secondOfDay (day * 86400 + sod) = sod by unfold secondOfDay; omega]

/-- The search through one day. -/
theorem Pattern.firstOfDay_isFirst (p : Pattern) (day lo : Nat) :
    IsFirst p.matchesSecond (day * 86400 + lo) (day * 86400 + 86400)
      ((if p.matchesDay day then p.firstTime lo else none).map (day * 86400 + ·)) := by
  refine IsFirst.shift (test := fun y => p.matchesDay day && p.matchesTime y) ?_ fun y hy => p.matchesSecond_at day hy
  refine IsFirst.guarded (fun matching => ?_) fun other y _ _ => ?_
  · simpa only [matching, Bool.true_and] using p.firstTime_isFirst lo
  · rw [Bool.eq_false_iff.2 other, Bool.false_and]

/-- The search through so many days, from a second of the first of them on. -/
theorem Pattern.firstSecond_isFirst (p : Pattern) (days day : Nat) {lo : Nat} (h : lo ≤ 86400) :
    IsFirst p.matchesSecond (day * 86400 + lo) ((day + days) * 86400) (p.firstSecond days day lo) := by
  induction days generalizing day lo with
  | zero => exact fun y le lt => absurd lt (by omega)
  | succ n ih =>
    have rest := ih (day + 1) (lo := 0) (Nat.zero_le _)
    have both := (p.firstOfDay_isFirst day lo).or (q := p.firstSecond n (day + 1) 0) (hi := (day + (n + 1)) * 86400)
      (by rwa [show day * 86400 + 86400 = (day + 1) * 86400 + 0 by omega,
        show day + (n + 1) = day + 1 + n by omega]) (by omega) (by omega)
    unfold Pattern.firstSecond
    cases found : if p.matchesDay day then p.firstTime lo else none with
    | some sod => rw [found] at both; exact both
    | none => rw [found] at both; exact both

/-! ## The next match (R93) -/

theorem calendarMatches_at (p : Pattern) {offset : Nat} (h : offset ≤ 999999) (x : Nat) :
    calendarMatches p offset (x * 1000000 + offset) = p.matchesSecond x := by
  unfold calendarMatches
  rw [show microsOf (x * 1000000 + offset) = offset by unfold microsOf; omega,
    show secondsOf (x * 1000000 + offset) = x by unfold secondsOf; omega, beq_self_eq_true, Bool.true_and]
  rfl

/-- A matching instant is a second, and the offset. -/
theorem eq_of_calendarMatches {p : Pattern} {offset t : Nat} (h : calendarMatches p offset t = true) :
    t = t / 1000000 * 1000000 + offset := by
  unfold calendarMatches at h
  simp only [Bool.and_eq_true, beq_iff_eq] at h
  have micros := h.1.1
  unfold microsOf at micros
  omega

/-- The next match is the first matching instant after the given one, up to the end of range. -/
theorem nextMatch_isFirst (p : Pattern) {offset : Nat} (h : offset ≤ 999999) (now : Nat) :
    IsFirst (calendarMatches p offset) (now + 1) 3155760000000000 (nextMatch p offset now) := by
  unfold nextMatch
  dsimp only
  set first := if microsOf now < offset then secondsOf now else secondsOf now + 1 with hfirst
  have start : ∀ x, first ≤ x ↔ now < x * 1000000 + offset := fun x => by
    unfold microsOf secondsOf at hfirst
    split at hfirst <;> omega
  have searched : IsFirst p.matchesSecond first 3155760000
      (p.firstSecond (calendarDays - dayNumber first) (dayNumber first) (secondOfDay first)) := by
    by_cases within : dayNumber first < 36525
    · have search := p.firstSecond_isFirst (calendarDays - dayNumber first) (dayNumber first)
        (lo := secondOfDay first) (by unfold secondOfDay; omega)
      rwa [show dayNumber first * 86400 + secondOfDay first = first by unfold dayNumber secondOfDay; omega,
        show (dayNumber first + (calendarDays - dayNumber first)) * 86400 = 3155760000 by
          unfold calendarDays; omega] at search
    · rw [show calendarDays - dayNumber first = 0 by unfold calendarDays; omega]
      exact fun y le lt => absurd lt (by unfold dayNumber at within; omega)
  have instant : ∀ y, now + 1 ≤ y → calendarMatches p offset y = true →
      first ≤ y / 1000000 ∧ p.matchesSecond (y / 1000000) = true := fun y le sat => by
    have eq := eq_of_calendarMatches sat
    refine ⟨(start _).2 (by omega), ?_⟩
    rwa [eq, calendarMatches_at p h] at sat
  cases found : p.firstSecond (calendarDays - dayNumber first) (dayNumber first) (secondOfDay first) with
  | none =>
    rw [found] at searched
    refine fun y le lt => Bool.eq_false_iff.2 fun sat => ?_
    obtain ⟨ge, second⟩ := instant y le sat
    exact absurd (searched _ ge (by omega)) (by rw [second]; decide)
  | some x =>
    rw [found] at searched
    obtain ⟨ge, lt, sat, none⟩ := searched
    have after := (start x).1 ge
    show IsFirst _ _ _ (some (x * 1000000 + offset))
    refine ⟨after, by omega, (calendarMatches_at p h x).trans sat, fun y le before => Bool.eq_false_iff.2 fun k => ?_⟩
    obtain ⟨ge', second⟩ := instant y le k
    have eq := eq_of_calendarMatches k
    exact absurd (none _ ge' (by omega)) (by rw [second]; decide)

/-! ## The matches passed over (R106) -/

/-- The matching instants after one instant and up to another. -/
def matchesUpTo (p : Pattern) (offset last t : Nat) : Finset Nat :=
  (Finset.Ioc t last).filter fun k => calendarMatches p offset k = true

theorem mem_matchesUpTo {p : Pattern} {offset last t k : Nat} :
    k ∈ matchesUpTo p offset last t ↔ t < k ∧ k ≤ last ∧ calendarMatches p offset k = true := by
  unfold matchesUpTo
  rw [Finset.mem_filter, Finset.mem_Ioc, and_assoc]

/-- The matching instants are the next match, where it is not too late, and those after it. -/
theorem card_matchesUpTo {p : Pattern} {offset last : Nat} (h : offset ≤ 999999) (range : last ≤ 3155759999999999)
    (t : Nat) :
    (matchesUpTo p offset last t).card = match nextMatch p offset t with
      | some m => if m ≤ last then (matchesUpTo p offset last m).card + 1 else 0
      | none => 0 := by
  have found := nextMatch_isFirst p h t
  cases next : nextMatch p offset t with
  | none =>
    rw [next] at found
    refine Finset.card_eq_zero.2 (Finset.eq_empty_of_forall_notMem fun k mem => ?_)
    obtain ⟨after, upTo, sat⟩ := mem_matchesUpTo.1 mem
    exact absurd (found k after (by omega)) (by rw [sat]; decide)
  | some m =>
    rw [next] at found
    obtain ⟨after, -, sat, first⟩ := found
    have least : ∀ k ∈ matchesUpTo p offset last t, m ≤ k := fun k mem => Nat.not_lt.1 fun lt => by
      obtain ⟨after', -, sat'⟩ := mem_matchesUpTo.1 mem
      exact absurd (first k after' lt) (by rw [sat']; decide)
    dsimp only
    split
    next le =>
      rw [← Finset.card_insert_of_notMem (a := m) fun mem => Nat.lt_irrefl m (mem_matchesUpTo.1 mem).1]
      refine congrArg Finset.card (Finset.ext fun k => ?_)
      rw [Finset.mem_insert, mem_matchesUpTo]
      constructor
      · intro mem
        obtain rfl | lt := Nat.eq_or_lt_of_le (least k (mem_matchesUpTo.2 mem))
        · exact .inl rfl
        · exact .inr (mem_matchesUpTo.2 ⟨lt, mem.2⟩)
      · rintro (rfl | mem)
        · exact ⟨after, le, sat⟩
        · obtain ⟨later, upTo⟩ := mem_matchesUpTo.1 mem
          exact ⟨Nat.lt_trans after later, upTo⟩
    next late =>
      exact Finset.card_eq_zero.2 (Finset.eq_empty_of_forall_notMem fun k mem =>
        late (Nat.le_trans (least k mem) (mem_matchesUpTo.1 mem).2.1))

theorem countMatches_eq {p : Pattern} {offset last : Nat} (h : offset ≤ 999999) (range : last ≤ 3155759999999999)
    (limit t : Nat) : countMatches p offset last limit t = min limit (matchesUpTo p offset last t).card := by
  induction limit generalizing t with
  | zero => rw [Nat.zero_min]; rfl
  | succ n ih =>
    unfold countMatches
    rw [card_matchesUpTo h range t]
    cases nextMatch p offset t with
    | none => rfl
    | some m =>
      dsimp only
      split
      · rw [ih m, Nat.add_min_add_right]
      · rfl

/-- Settles O34: the next match is the first matching instant of the interval that the model searches, and the missed count
finds the matching instants one after the other. -/
theorem calendarMatchesFound : Obligations.CalendarMatchesFound := by
  intro pat offset now h
  have found := nextMatch_isFirst pat h now
  refine ⟨fun m => (found.eq_some_iff m).trans ?_, found.eq_none_iff.trans ?_,
    fun last range => countMatches_eq h range 65535 now⟩
  · exact ⟨fun ⟨after, range, sat, first⟩ => ⟨after, by omega, sat, first⟩,
      fun ⟨after, range, sat, first⟩ => ⟨after, by omega, sat, first⟩⟩
  · exact ⟨fun none k after range => none k after (by omega), fun none k after range => none k after (by omega)⟩

end Sys2Proof.Machine
end

section
/-! A capture record at the table and at the channels that count it, and how it is handed on through them (R94 to R96, R113,
R142, R147, R148). -/

namespace Sys2Proof.Machine

/-! ## At the table (R94 to R96, R113) -/

theorem Body.takesRecord_namesChannel {c : ChanNo} {k : RecordKind} {b : Body} (h : b.takesRecord c k = true) :
    b.namesChannel c = true := by
  unfold Body.takesRecord at h
  unfold Body.namesChannel
  cases hd : b.defn with
  | after ch kinds d pol =>
    rw [hd] at h
    simp only [Bool.and_eq_true] at h
    exact h.1.1
  | atTime _ => rw [hd] at h; cases h
  | every _ _ => rw [hd] at h; cases h
  | calendar _ _ => rw [hd] at h; cases h

/-- A capture record gives an entry that it acts on its due time, and leaves every other (R94, R96). -/
theorem State.captureAt_eq {s : State} {i : EntryIx} {b : Body} (hb : (s.entry i).body = some b) (c : ChanNo)
    (k : RecordKind) (time : Nat) :
    s.captureAt c k time i = if b.takesRecord c k = true then s.armAt i b (time + b.delay) else s := by
  unfold State.captureAt Body.takesRecord Body.delay inKinds
  rw [hb]
  dsimp only
  cases b.defn with
  | atTime _ => rfl
  | every _ _ => rfl
  | calendar _ _ => rfl
  | after ch kinds d pol =>
    dsimp only
    by_cases source : ch = c ∧ kinds.getLsbD k.bit = true
    · cases b.run <;> simp [source, RunState.due, RunState.code]
    · rw [if_neg source, if_neg fun takes => source (by simpa using (Bool.and_eq_true_iff.1 takes).1)]

theorem State.captureAt_idle {s : State} {i : EntryIx} {c : ChanNo} {k : RecordKind}
    (h : (s.entry i).body.any (Body.takesRecord c k) = false) (time : Nat) : s.captureAt c k time i = s := by
  cases hb : (s.entry i).body with
  | none =>
    unfold State.captureAt
    rw [hb]
  | some b =>
    rw [hb] at h
    exact (State.captureAt_eq hb c k time).trans (if_neg (Bool.eq_false_iff.1 h))

/-- An entry given its due time from now: it fires at once with a delay of 0, unless the range is held (R95, R113). -/
theorem State.armAt_now (s : State) (i : EntryIx) (b : Body) :
    s.armAt i b (s.now + b.delay) =
      if b.delay = 0 ∧ s.backup.rangeHeld = false then (s.setRun i b (.armed s.now)).fireWithin i false 0
      else s.setRun i b (.armed (s.now + b.delay)) := by
  unfold State.armAt
  by_cases now : b.delay = 0 ∧ s.backup.rangeHeld = false
  · rw [if_pos ⟨by omega, now.2⟩, if_pos now, now.1]
    rfl
  · rw [if_neg fun h => now ⟨by omega, h.2⟩, if_neg now]
    rfl

/-- The record acts on the entry i, as the model makes it: the entry is given its due time from now. -/
def RecordArms (c : ChanNo) (k : RecordKind) (i : EntryIx) (s t : State) : Prop :=
  ∃ b, (s.entry i).body = some b ∧ b.takesRecord c k = true ∧ t = s.armAt i b (s.now + b.delay)

theorem RecordArms.acts {c : ChanNo} {k : RecordKind} {i : EntryIx} {s t : State} (h : RecordArms c k i s t) :
    RecordActs i s t := by
  obtain ⟨b, hb, -, rfl⟩ := h
  refine ⟨b, hb, ?_⟩
  dsimp only
  rw [s.armAt_now i b]
  by_cases now : b.delay = 0 ∧ s.backup.rangeHeld = false
  · have set := EntrySet.setRun s i b (.armed s.now)
    rw [if_pos now, if_pos now, now.1, Nat.add_zero]
    refine ⟨_, ⟨s.setRun_only .., set⟩, State.fireWithin_only .., ?_⟩
    exact State.fireWithin_fires (congrArg Entry.body set.1.1) rfl false 0
  · rw [if_neg now, if_neg now]
    exact ⟨s.setRun_only .., EntrySet.setRun s i b _⟩

/-- An entry armed by a record leaves the other entries as they were. -/
theorem State.armAt_others (s : State) {i j : EntryIx} (hj : j ≠ i) (b : Body) :
    (s.armAt i b (s.now + b.delay)).entry j = s.entry j := by
  rw [s.armAt_now]
  split
  · have set := EntrySet.setRun s i b (.armed s.now)
    exact ((State.fireWithin_fires (congrArg Entry.body set.1.1) rfl false 0).1.2 j hj).trans (set.1.2 j hj)
  · exact (EntrySet.setRun s i b _).1.2 j hj

theorem State.captureAt_others (s : State) {i j : EntryIx} (hj : j ≠ i) (c : ChanNo) (k : RecordKind) :
    (s.captureAt c k s.now i).entry j = s.entry j := by
  cases hb : (s.entry i).body with
  | none => rw [State.captureAt_idle (by rw [hb]; rfl)]
  | some b =>
    rw [State.captureAt_eq hb]
    split
    · exact s.armAt_others hj b
    · rfl

theorem InOrder.imp {α : Type} {p q : α → State → State → Prop} (each : ∀ x s t, p x s t → q x s t) {l : List α}
    {s t : State} (h : InOrder p l s t) : InOrder q l s t := by
  induction l generalizing s with
  | nil => exact h
  | cons x rest ih =>
    obtain ⟨u, first, more⟩ := h
    exact ⟨u, each x s u first, ih more⟩

/-- The record's instant is now throughout, as no part of its event touches the time. -/
theorem State.captureAll_eq (s : State) (c : ChanNo) (k : RecordKind) :
    s.captureAll c k s.now = allEntries.foldl (fun t i => t.captureAt c k t.now i) s := by
  unfold State.captureAll
  generalize hv : s.now = v
  generalize allEntries = l
  induction l generalizing s with
  | nil => rfl
  | cons i is ih =>
    rw [List.foldl_cons, List.foldl_cons, hv]
    exact ih _ ((State.captureAt_only ..).now.trans hv)

theorem State.actedOn_congr {s u : State} (entries : ∀ i, u.entry i = s.entry i) (c : ChanNo) (k : RecordKind) :
    u.actedOn c k = s.actedOn c k := by
  unfold State.actedOn
  simp only [entries]

/-- The entries that a record acts on are armed one after the other, in ascending order of index (R94). -/
theorem State.captureAll_inOrder (s : State) (c : ChanNo) (k : RecordKind) :
    InOrder (RecordArms c k) (s.actedOn c k) s (s.captureAll c k s.now) := by
  rw [State.captureAll_eq]
  unfold State.actedOn
  rw [finRange_entries]
  refine inOrder_foldl (active := fun t i => (t.entry i).body.any (Body.takesRecord c k))
    (fun t i idle => State.captureAt_idle idle _) (fun t i acts => ?_)
    (fun t i j hj => by rw [t.captureAt_others hj]) allEntries nodup_allEntries s
  obtain ⟨b, hb, takes⟩ := (Option.any_eq_true ..).1 acts
  exact ⟨b, hb, takes, by rw [State.captureAt_eq hb, if_pos takes]⟩

/-! ## At the channels that count it (R147, R148) -/

/-- No channel has changed but in its counter. -/
structure SameSetup (s t : State) : Prop where
  channel : ∀ e, ∃ n, t.channel e = { s.channel e with counter := n }

namespace SameSetup

variable {s t u : State}

theorem refl (s : State) : SameSetup s s := ⟨fun e => ⟨(s.channel e).counter, rfl⟩⟩

theorem trans (h : SameSetup s t) (k : SameSetup t u) : SameSetup s u := by
  refine ⟨fun e => ?_⟩
  obtain ⟨n, hn⟩ := h.channel e
  obtain ⟨m, hm⟩ := k.channel e
  exact ⟨m, by rw [hm, hn]⟩

theorem of_only {ps : List Part} (h : OnlyChanges ps s t) (n : Part.channels ∉ ps := by decide) : SameSetup s t :=
  ⟨fun e => ⟨(s.channel e).counter, h.channel e n⟩⟩

theorem counted (s : State) (d : ChanNo) : SameSetup s (s.setChannel d (s.channel d).counted) := by
  refine ⟨fun e => ?_⟩
  rw [State.channel_setChannel]
  split
  next same => subst same; exact ⟨_, rfl⟩
  · exact ⟨_, rfl⟩

theorem countsFrom (h : SameSetup s t) (d c : ChanNo) : t.countsFrom d c = s.countsFrom d c := by
  obtain ⟨n, hn⟩ := h.channel d
  obtain ⟨m, hm⟩ := h.channel c
  unfold State.countsFrom
  rw [hn, hm]

theorem owner (h : SameSetup s t) (c : ChanNo) : (t.channel c).owner = (s.channel c).owner := by
  obtain ⟨n, hn⟩ := h.channel c
  rw [hn]

theorem level (h : SameSetup s t) (c : ChanNo) : (t.channel c).level = (s.channel c).level := by
  obtain ⟨n, hn⟩ := h.channel c
  rw [hn]

theorem source (h : SameSetup s t) (c : ChanNo) : (t.channel c).source = (s.channel c).source := by
  obtain ⟨n, hn⟩ := h.channel c
  rw [hn]

end SameSetup

theorem State.countsFrom_iff (s : State) (d c : ChanNo) :
    s.countsFrom d c = true ↔ (s.channel d).running = true ∧ (s.channel d).mode = .count ∧
      (s.channel d).source = .channel c ∧
      ((s.channel d).owner = (s.channel c).owner ∨ (s.channel c).shareable = true) := by
  unfold State.countsFrom
  simp only [Bool.and_eq_true, Bool.or_eq_true, decide_eq_true_eq, and_assoc]

/-- What a record of the channel c does to a channel d, through at most so many channels more (R147, R148). -/
def State.countAt (depth : Nat) (c : ChanNo) (t : State) (d : ChanNo) : State :=
  if t.countsFrom d c then
    if (t.channel d).counter ≤ 1 then
      State.handOn depth (t.setChannel d (t.channel d).counted) d .expiry (t.channel d).reload
    else t.setChannel d (t.channel d).counted
  else t

theorem State.countAt_counts {c : ChanNo} {t : State} {d : ChanNo} (h : t.countsFrom d c = true) (depth : Nat) :
    t.countAt depth c d =
      if (t.channel d).counter ≤ 1 then
        State.handOn depth (t.setChannel d (t.channel d).counted) d .expiry (t.channel d).reload
      else t.setChannel d (t.channel d).counted := if_pos h

theorem State.handOn_succ (depth : Nat) (s : State) (c : ChanNo) (k : RecordKind) (value : Nat) :
    State.handOn (depth + 1) s c k value =
      if k = .overflow then (s.deliverCapture c k value).captureAll c k s.now
      else allChannels.foldl (State.countAt depth c) ((s.deliverCapture c k value).captureAll c k s.now) := rfl

theorem State.acted_only (s : State) (c : ChanNo) (k : RecordKind) (value : Nat) :
    OnlyChanges [.schedule, .lines, .digest, .ports] s ((s.deliverCapture c k value).captureAll c k s.now) :=
  ((s.deliverCapture_only c k value).mono (by decide)).trans (State.captureAll_only ..)

/-- A record handed on changes the channels in their counters alone. -/
theorem State.handOn_sameSetup (depth : Nat) (s : State) (c : ChanNo) (k : RecordKind) (value : Nat) :
    SameSetup s (State.handOn depth s c k value) := by
  induction depth generalizing s c k value with
  | zero => exact .refl s
  | succ n ih =>
    have acted := SameSetup.of_only (s.acted_only c k value)
    rw [State.handOn_succ]
    refine iteInduction (fun _ => acted) fun _ => foldl_keeps (P := SameSetup s) (fun t d same => ?_) _ _ acted
    have counted := same.trans (.counted t d)
    exact iteInduction (fun _ => iteInduction (fun _ => counted.trans (ih ..)) fun _ => counted) fun _ => same

theorem State.countAt_sameSetup (depth : Nat) (c : ChanNo) (t : State) (d : ChanNo) :
    SameSetup t (t.countAt depth c d) :=
  iteInduction (fun _ => iteInduction (fun _ => (SameSetup.counted t d).trans (State.handOn_sameSetup ..))
    fun _ => .counted t d) fun _ => .refl t

theorem ChannelBecomes.setChannel (s : State) (c : ChanNo) (x : Channel) : ChannelBecomes c x s (s.setChannel c x) :=
  ⟨(s.channel_setChannel c c x).trans (if_pos rfl), fun d hd => (s.channel_setChannel c d x).trans (if_neg hd)⟩

theorem Channel.counted_above {x : Channel} (h : 1 < x.counter) : x.counted = { x with counter := x.counter - 1 } := by
  unfold Channel.counted
  rw [if_neg (Nat.not_le.2 h)]

theorem Channel.counted_last {x : Channel} (h : x.counter ≤ 1) : x.counted = { x with counter := x.reload } := by
  unfold Channel.counted
  rw [if_pos h]

theorem finRange_channels : List.finRange 8 = allChannels := by unfold allChannels; rfl

/-- The channels that count a record are those that count the records of its channel, unless it is an OVERFLOW. -/
theorem State.counters_eq (s : State) (c : ChanNo) (k : RecordKind) :
    s.counters c k = if k = .overflow then [] else allChannels.filter fun d => s.countsFrom d c := by
  unfold State.counters
  rw [finRange_channels]
  split
  next overflows => exact List.filter_eq_nil_iff.2 fun d _ => by simp [overflows]
  next other =>
    refine List.filter_congr fun d _ => Bool.eq_iff_iff.2 ?_
    rw [State.countsFrom_iff, decide_eq_true_eq, and_iff_right other]

theorem State.port_deliverCapture (s : State) (c : ChanNo) (k : RecordKind) (value : Nat) (q : Port) :
    (s.deliverCapture c k value).port q = (s.port q).storesIf (s.attached q) (s.captureCopies c k value q) := by
  unfold State.captureCopies
  rw [State.recordCopies_eq]
  exact s.port_deliverShared ..

/-! ## Handed on (R142) -/

/-- After the table, the record goes to the channels that count it, one after the other in ascending order (R142, R148). -/
theorem State.handOn_counts (depth : Nat) (s : State) (c : ChanNo) (k : RecordKind) (value : Nat) :
    InOrder (fun d t u => t.countsFrom d c = true ∧ u = t.countAt depth c d) (s.counters c k)
      ((s.deliverCapture c k value).captureAll c k s.now) (State.handOn (depth + 1) s c k value) := by
  have setup := SameSetup.of_only (s.acted_only c k value)
  rw [State.handOn_succ, State.counters_eq]
  split
  · rfl
  simp only [← setup.countsFrom]
  exact inOrder_foldl (f := State.countAt depth c) (active := fun t d => t.countsFrom d c)
    (fun t d idle => if_neg (by rw [idle]; decide)) (fun t d counts => ⟨counts, rfl⟩)
    (fun t d e _ => (t.countAt_sameSetup depth c d).countsFrom e c) allChannels nodup_allChannels _

/-- The model hands a record on as the rules say, through any number of channels. -/
theorem State.handOn_handedOn (depth : Nat) (s : State) (c : ChanNo) (k : RecordKind) (value : Nat) :
    HandedOn depth c k value s (State.handOn depth s c k value) := by
  induction depth generalizing s c k value with
  | zero => rfl
  | succ n ih =>
    have delivered := s.deliverCapture_only c k value
    have acted := (s.deliverCapture c k value).captureAll_inOrder c k
    rw [State.actedOn_congr delivered.entry, delivered.now] at acted
    refine ⟨_, _, delivered, s.port_deliverCapture c k value, acted.imp fun _ _ _ => RecordArms.acts,
      (s.handOn_counts n c k value).imp ?_⟩
    rintro d t _ ⟨counts, rfl⟩
    rw [State.countAt_counts counts n]
    by_cases above : 1 < (t.channel d).counter
    · rw [if_pos above, if_neg (Nat.not_le.2 above), Channel.counted_above above]
      exact ⟨t.setChannel_only .., .setChannel ..⟩
    · have last := Nat.not_lt.1 above
      rw [if_neg above, if_pos last, Channel.counted_last last]
      exact ⟨_, t.setChannel_only .., .setChannel .., ih ..⟩

/-- The subscriptions to the entries that an event has freed end together (R159), where no channel changes hands in it. -/
theorem State.endGone_freedEnd_of_owner {s v : State} (owner : ∀ c, (v.channel c).owner = (s.channel c).owner) :
    FreedEnd s v (v.endGone s) := by
  have gone : ∀ u : Subscription, v.sourceGone s u.source = s.freedUntil v u := fun u => by
    unfold State.sourceGone State.freedUntil
    cases u.source with
    | channel c => simp [owner]
    | entry i inst => rfl
  obtain ⟨ended, records⟩ := State.endGone_spec v s
  simp only [gone] at ended records
  exact ⟨State.endGone_only v s, ended, records⟩

/-- A channel changed, with a record that it then produces. -/
theorem State.produce_produces (s : State) (c : ChanNo) (x : Channel) (k : RecordKind) (value : Nat) :
    Produces c x k value s ((s.setChannel c x).produce c k value) :=
  ⟨_, _, s.setChannel_only c x, .setChannel s c x, State.handOn_handedOn 8 _ c k value,
    State.endGone_freedEnd_of_owner (State.handOn_sameSetup ..).owner⟩

end Sys2Proof.Machine
end

section
/-! What each event of a capture channel does where it produces a record (R143 to R148). -/

namespace Sys2Proof.Machine

/-! ## An edge, a count event and an overflow -/

theorem EdgeSelect.takes_iff (e : EdgeSelect) (level : PinLevel) :
    e.takes level = true ↔ e = .both ∨ (e = .rise ∧ level = .high) ∨ (e = .fall ∧ level = .low) := by
  cases e <;> cases level <;> decide

theorem edgeKind_eq (level : PinLevel) : edgeKind level = if level = .high then .edgeRise else .edgeFall := by
  cases level <;> rfl

theorem widthKind_eq (level : PinLevel) : widthKind level = if level = .high then .widthLow else .widthHigh := by
  cases level <;> rfl

theorem State.setChannel_setChannel (s : State) (c : ChanNo) (x y : Channel) :
    (s.setChannel c x).setChannel c y = s.setChannel c y := by
  unfold State.setChannel
  rw [Vector.set_set]

theorem State.channel_setChannel_same (s : State) (c : ChanNo) (x : Channel) : (s.setChannel c x).channel c = x :=
  (ChannelBecomes.setChannel s c x).1

/-- A channel after an edge taken, before it acts on it (R133). -/
def Channel.edged (x : Channel) (level : PinLevel) : Channel := { x with filtered := level, qualification := .none }

theorem execEdgeTaken_acts {c : ChanNo} {s : State} (running : s.running = true)
    (complete : (s.channel c).qualification = .complete) (on : (s.channel c).running = true) :
    exec (.edgeTaken c) s =
      .next ((s.setChannel c ((s.channel c).edged (s.pins.cap.get c))).actOnEdge c (s.pins.cap.get c)) := by
  show execEdgeTaken c s = _
  unfold execEdgeTaken State.takeEdge
  rw [if_pos running, complete]
  dsimp only
  rw [if_pos on]
  rfl

theorem State.actOnEdge_stamp {s : State} {c : ChanNo} {level : PinLevel} (mode : (s.channel c).mode = .stamp)
    (takes : (s.channel c).edge.takes level = true) : s.actOnEdge c level = s.produce c (edgeKind level) 0 := by
  unfold State.actOnEdge
  rw [mode]
  exact if_pos takes

theorem State.actOnEdge_period {s : State} {c : ChanNo} {level : PinLevel} (mode : (s.channel c).mode = .period)
    (takes : (s.channel c).edge.takes level = true) : s.actOnEdge c level = s.measureEdge c .period := by
  unfold State.actOnEdge
  rw [mode]
  exact if_pos takes

theorem State.actOnEdge_width {s : State} {c : ChanNo} (mode : (s.channel c).mode = .width) (level : PinLevel) :
    s.actOnEdge c level = s.measureEdge c (widthKind level) := by
  unfold State.actOnEdge
  rw [mode]

theorem State.actOnEdge_count {s : State} {c : ChanNo} {level : PinLevel} (mode : (s.channel c).mode = .count)
    (source : (s.channel c).source = .ownPin) (takes : (s.channel c).edge.takes level = true) :
    s.actOnEdge c level = s.countEvent c := by
  unfold State.actOnEdge
  rw [mode]
  exact if_pos ⟨source, takes⟩

/-- A later edge ends the measurement with a record, and begins the next (R144, R145). -/
theorem State.measureEdge_later {s : State} {c : ChanNo} {e : Nat} (h : (s.channel c).measuring = some e)
    (k : RecordKind) :
    s.measureEdge c k =
      (s.setChannel c { s.channel c with measuring := some 0 }).produce c k (min e 4294967295) := by
  unfold State.measureEdge
  rw [h]
  rfl

/-- The count event that takes a counter to 0 reloads it, with an EXPIRY (R147). -/
theorem State.countEvent_last {s : State} {c : ChanNo} (h : (s.channel c).counter = 1) :
    s.countEvent c =
      (s.setChannel c { s.channel c with counter := (s.channel c).reload }).produce c .expiry (s.channel c).reload := by
  have last : (s.channel c).counter ≤ 1 := Nat.le_of_eq h
  unfold State.countEvent
  rw [Channel.counted_last last]
  exact if_pos last

theorem State.sourceCounts_iff {s : State} {c : ChanNo} (on : (s.channel c).running = true)
    (mode : (s.channel c).mode = .count) :
    s.sourceCounts c = true ↔ (s.channel c).source = .ownPin ∨ ∃ d, (s.channel c).source = .channel d ∧
      (s.channel d).running = true ∧ ((s.channel c).owner = (s.channel d).owner ∨ (s.channel d).shareable = true) := by
  unfold State.sourceCounts
  cases source : (s.channel c).source with
  | ownPin => simp
  | channel d =>
    rw [Bool.and_eq_true, State.countsFrom_iff]
    simp [on, mode, source]

theorem actOnEdge_stamp_produces {s : State} {c : ChanNo} {x : Channel} {level : PinLevel} (mode : x.mode = .stamp)
    (takes : x.edge.takes level = true) :
    Produces c x (edgeKind level) 0 s ((s.setChannel c x).actOnEdge c level) := by
  have same := s.channel_setChannel_same c x
  rw [State.actOnEdge_stamp (by rw [same]; exact mode) (by rw [same]; exact takes)]
  exact s.produce_produces ..

theorem measureEdge_produces {s : State} {c : ChanNo} {x : Channel} {e : Nat} (h : x.measuring = some e)
    (k : RecordKind) :
    Produces c { x with measuring := some 0 } k (min e 4294967295) s ((s.setChannel c x).measureEdge c k) := by
  have same := s.channel_setChannel_same c x
  rw [State.measureEdge_later (by rw [same]; exact h), same, State.setChannel_setChannel]
  exact s.produce_produces ..

theorem countEvent_produces {s : State} {c : ChanNo} {x : Channel} (h : x.counter = 1) :
    Produces c { x with counter := x.reload } .expiry x.reload s ((s.setChannel c x).countEvent c) := by
  have same := s.channel_setChannel_same c x
  rw [State.countEvent_last (by rw [same]; exact h), same, State.setChannel_setChannel]
  exact s.produce_produces ..

/-- An edge that a RUNNING channel takes, in each mode in which it produces a record (R143 to R145, R147). -/
theorem actOnEdge_produces (s : State) (c : ChanNo) (x : Channel) (level : PinLevel) :
    let t := (s.setChannel c x).actOnEdge c level
    (x.mode = .stamp → x.edge.takes level = true → Produces c x (edgeKind level) 0 s t) ∧
    (∀ e, x.measuring = some e →
      (x.mode = .period → x.edge.takes level = true →
        Produces c { x with measuring := some 0 } .period (min e 4294967295) s t) ∧
      (x.mode = .width → Produces c { x with measuring := some 0 } (widthKind level) (min e 4294967295) s t)) ∧
    (x.mode = .count → x.source = .ownPin → x.edge.takes level = true → x.counter = 1 →
      Produces c { x with counter := x.reload } .expiry x.reload s t) := by
  have same := s.channel_setChannel_same c x
  intro t
  refine ⟨fun mode takes => actOnEdge_stamp_produces mode takes, fun e later => ⟨fun mode takes => ?_, fun mode => ?_⟩,
    fun mode source takes last => ?_⟩
  · rw [show t = _ from State.actOnEdge_period (by rw [same]; exact mode) (by rw [same]; exact takes)]
    exact measureEdge_produces later _
  · rw [show t = _ from State.actOnEdge_width (by rw [same]; exact mode) level]
    exact measureEdge_produces later _
  · rw [show t = _ from State.actOnEdge_count (by rw [same]; exact mode) (by rw [same]; exact source)
      (by rw [same]; exact takes)]
    exact countEvent_produces last

theorem execMeasurementOverflow_produces {c : ChanNo} {s : State} (running : s.running = true)
    (h : (s.channel c).measuring = some 4294967296) :
    ∃ t, exec (.measurementOverflow c) s = .next t ∧
      Produces c { s.channel c with measuring := none } .overflow 4294967295 s t := by
  refine ⟨_, ?_, s.produce_produces c _ .overflow 4294967295⟩
  show execMeasurementOverflow c s = _
  unfold execMeasurementOverflow State.overflowMeasure
  rw [if_pos running, h]
  rfl

theorem execCounterExpiry_produces {c : ChanNo} {s : State} (running : s.running = true)
    (on : (s.channel c).running = true) (mode : (s.channel c).mode = .count) (last : (s.channel c).counter = 1)
    (source : s.sourceCounts c = true) :
    ∃ t, exec (.counterExpiry c) s = .next t ∧
      Produces c { s.channel c with counter := (s.channel c).reload } .expiry (s.channel c).reload s t := by
  refine ⟨_, ?_, s.produce_produces c _ .expiry (s.channel c).reload⟩
  show execCounterExpiry c s = _
  unfold execCounterExpiry
  rw [if_pos ⟨running, on, mode, last, source⟩, State.countEvent_last last]

end Sys2Proof.Machine
end

section
/-! The cases of one record written out: the entries it arms, the one it fires at once, and one channel that counts it (R94
to R96, R113, R142, R147, R148). -/

namespace Sys2Proof.Machine

/-! ## A record that goes to its owner and its subscribers (R142) -/

theorem State.captureCopies_congr {s t : State} {c : ChanNo} (subs : ∀ j, t.sub j = s.sub j)
    (owner : (t.channel c).owner = (s.channel c).owner) (level : (t.channel c).level = (s.channel c).level)
    (stamp : t.stamp = s.stamp) (k : RecordKind) (value : Nat) (q : Port) :
    t.captureCopies c k value q = s.captureCopies c k value q := by
  unfold State.captureCopies State.captured State.recordCopies
  simp only [subs, owner, level, stamp]

/-- A channel changed, not in its owner and its record level, and the record it then produces delivered. -/
theorem ChannelRecords.deliver {s : State} {c : ChanNo} {x : Channel} (owner : x.owner = (s.channel c).owner)
    (level : x.level = (s.channel c).level) (k : RecordKind) (value : Nat) :
    ChannelRecords c x k value s ((s.setChannel c x).deliverCapture c k value) := by
  have delivered := (s.setChannel c x).deliverCapture_only c k value
  obtain ⟨here, others⟩ := ChannelBecomes.setChannel s c x
  refine ⟨((s.setChannel_only c x).mono (by decide)).trans (delivered.mono (by decide)),
    ⟨(delivered.channel c).trans here, fun d hd => (delivered.channel d).trans (others d hd)⟩, fun q => ?_⟩
  have copies : (s.setChannel c x).captureCopies c k value q = s.captureCopies c k value q :=
    State.captureCopies_congr (s := s) (t := s.setChannel c x) (fun _ => rfl) (by rw [here, owner])
      (by rw [here, level]) rfl k value q
  rw [State.port_deliverCapture, copies]
  rfl

/-! ## A record that no channel counts (R94 to R96, R113) -/

theorem State.counters_nil {s : State} {c : ChanNo} (h : ∀ d, (s.channel d).source ≠ .channel c) (k : RecordKind) :
    s.counters c k = [] := by
  unfold State.counters
  exact List.filter_eq_nil_iff.2 fun d _ => by simp [h d]

/-- The end of an event depends on its beginning by the entries it then had and the owners of the channels. -/
theorem State.endGone_base {s u : State} (t : State) (owner : ∀ c, (u.channel c).owner = (s.channel c).owner)
    (inst : ∀ i, (u.entry i).inst = (s.entry i).inst)
    (used : ∀ i, (u.entry i).body.isSome = (s.entry i).body.isSome) : t.endGone u = t.endGone s := by
  have gone : ∀ src, t.sourceGone u src = t.sourceGone s src := fun src => by
    cases src <;> simp only [State.sourceGone, owner, inst, used]
  unfold State.endGone
  simp only [gone]

theorem State.produce_uncounted {s : State} {c : ChanNo} {k : RecordKind} (h : s.counters c k = []) (value : Nat) :
    s.produce c k value =
      ((s.deliverCapture c k value).captureAll c k (s.deliverCapture c k value).now).endGone
        (s.deliverCapture c k value) := by
  have delivered := s.deliverCapture_only c k value
  have counts := s.handOn_counts 7 c k value
  rw [h] at counts
  have acted : State.handOn 8 s c k value = (s.deliverCapture c k value).captureAll c k s.now := counts
  unfold State.produce
  rw [acted, delivered.now]
  exact (State.endGone_base _ (fun d => by rw [delivered.channel]) (fun i => by rw [delivered.entry])
    fun i => by rw [delivered.entry]).symm

/-- An entry as a record that acts on it at an instant leaves it, with a delay above 0 (R95, R96). -/
def Entry.armedAt (now : Nat) (e : Entry) : Entry :=
  { inst := e.inst, body := e.body.map fun b => { b with run := .armed (now + b.delay) } }

/-- The entries that a record acts on, all with delays above 0, are ARMED, and nothing else changes but the generations
(R95, R96). -/
theorem InOrder.recordArms_later {c : ChanNo} {k : RecordKind} {l : List EntryIx} (nodup : l.Nodup) {s t : State}
    (h : InOrder (RecordArms c k) l s t) (later : ∀ i ∈ l, ∀ b, (s.entry i).body = some b → 0 < b.delay) :
    OnlyChanges [.schedule, .digest] s t ∧
      (∀ i, t.entry i = if i ∈ l then (s.entry i).armedAt s.now else s.entry i) ∧ TableRises 0 l.length s t := by
  induction l generalizing s with
  | nil =>
    cases (show t = s from h)
    exact ⟨.refl .., fun i => (if_neg List.not_mem_nil).symm, .refl _⟩
  | cons j js ih =>
    rw [List.nodup_cons] at nodup
    obtain ⟨u, ⟨b, hb, -, armed⟩, rest⟩ := h
    have delayed : ¬ (b.delay = 0 ∧ s.backup.rangeHeld = false) := fun now =>
      absurd (later j List.mem_cons_self b hb) (by omega)
    rw [s.armAt_now, if_neg delayed] at armed
    subst armed
    obtain ⟨⟨here, others⟩, quotas, rise, walk⟩ := EntrySet.setRun s j b (.armed (s.now + b.delay))
    have only := s.setRun_only j b (.armed (s.now + b.delay))
    have other : ∀ i ∈ js, (s.setRun j b (.armed (s.now + b.delay))).entry i = s.entry i := fun i hi =>
      others i fun e => nodup.1 (e ▸ hi)
    obtain ⟨onlyRest, entries, rises⟩ := ih nodup.2 rest fun i hi a ha =>
      later i (List.mem_cons_of_mem j hi) a (by rwa [other i hi] at ha)
    refine ⟨only.trans onlyRest, fun i => ?_, ?_⟩
    · rw [entries i, only.now]
      by_cases tail : i ∈ js
      · rw [if_pos tail, if_pos (List.mem_cons_of_mem j tail), other i tail]
      · rw [if_neg tail]
        by_cases head : i = j
        · subst head
          rw [if_pos List.mem_cons_self, here]
          unfold Entry.armedAt
          rw [hb]
          rfl
        · rw [if_neg fun mem => (List.mem_cons.1 mem).elim head tail, others i head]
    · rw [List.length_cons, Nat.add_comm]
      exact (TableRises.mk quotas rise walk).trans rises

theorem State.mem_actedOn {s : State} {c : ChanNo} {k : RecordKind} {i : EntryIx} :
    i ∈ s.actedOn c k ↔ ∃ b, (s.entry i).body = some b ∧ b.takesRecord c k = true := by
  unfold State.actedOn
  rw [List.mem_filter, and_iff_right (List.mem_finRange i), Option.any_eq_true]

theorem State.nodup_actedOn (s : State) (c : ChanNo) (k : RecordKind) : (s.actedOn c k).Nodup :=
  (List.nodup_finRange 64).filter _

/-- The table after a record, as the statement shows each entry. -/
theorem State.armedAt_actedOn (s : State) (c : ChanNo) (k : RecordKind) (i : EntryIx) :
    (if i ∈ s.actedOn c k then (s.entry i).armedAt s.now else s.entry i) =
      { inst := (s.entry i).inst, body := (s.entry i).body.map fun b =>
          if b.takesRecord c k = true then { b with run := .armed (s.now + b.delay) } else b } := by
  unfold Entry.armedAt
  cases hb : (s.entry i).body with
  | none =>
    have idle : i ∉ s.actedOn c k := fun mem => by
      obtain ⟨b, hb', -⟩ := State.mem_actedOn.1 mem
      rw [hb] at hb'
      cases hb'
    rw [if_neg idle]
    exact congrArg (Entry.mk _) hb
  | some b =>
    by_cases takes : b.takesRecord c k = true
    · rw [if_pos (State.mem_actedOn.2 ⟨b, hb, takes⟩)]
      simp only [Option.map_some, if_pos takes]
    · have idle : i ∉ s.actedOn c k := fun mem => by
        obtain ⟨a, ha, acts⟩ := State.mem_actedOn.1 mem
        rw [hb] at ha
        cases ha
        exact takes acts
      rw [if_neg idle]
      simp only [Option.map_some, if_neg takes]
      exact congrArg (Entry.mk _) hb

/-- A record whose entries all have delays above 0 arms them and ends no subscription (R95, R96). -/
theorem State.captureAll_later {s : State} {c : ChanNo} {k : RecordKind}
    (later : ∀ i b, (s.entry i).body = some b → b.takesRecord c k = true → 0 < b.delay) :
    let t := (s.captureAll c k s.now).endGone s
    OnlyChanges [.schedule, .digest] s t ∧
      (∀ i, t.entry i = { inst := (s.entry i).inst, body := (s.entry i).body.map fun b =>
          if b.takesRecord c k = true then { b with run := .armed (s.now + b.delay) } else b }) ∧
      GenerationsRise 0 (s.actedOn c k).length s t := by
  obtain ⟨only, entries, rises⟩ := (s.captureAll_inOrder c k).recordArms_later (s.nodup_actedOn c k) fun i mem b hb => by
    obtain ⟨a, ha, takes⟩ := State.mem_actedOn.1 mem
    rw [hb] at ha
    cases ha
    exact later i b hb takes
  have table := fun i => (entries i).trans (s.armedAt_actedOn c k i)
  intro t
  rw [show t = s.captureAll c k s.now from State.endGone_none
    (fun i used => by rw [table i, Option.isSome_map]; exact used) fun d own => by rw [only.channel]; exact own]
  exact ⟨only, table, rises.rise⟩

/-! ## A record that fires one entry in its event (R95, R99, R113) -/

/-- An entry set from one state is set from another with the same table and the same walk. -/
theorem EntrySet.rebase {i : EntryIx} {e : Entry} {d f : Nat} {s u w : State} (h : EntrySet i e d f u w)
    (schedule : u.schedule = s.schedule) (walk : u.digest = s.digest) : EntrySet i e d f s (s.withTableOf w) := by
  simp only [EntrySet, EntryBecomes, GenerationsRise, State.entry, schedule, walk] at h ⊢
  exact h

/-- A record that acts on one entry alone, of delay 0, fires it in its event, with the end of the entry's subscriptions
where that frees it (R95, R99, R159). -/
theorem State.captureAll_fires {s : State} {c : ChanNo} {k : RecordKind} {i : EntryIx} {b : Body}
    (hb : (s.entry i).body = some b) (alone : s.actedOn c k = [i]) (now : b.delay = 0)
    (free : s.backup.rangeHeld = false) :
    (s.captureAll c k s.now).endGone s = (s.setRun i b (.armed s.now)).fire i false 0 := by
  have arms := s.captureAll_inOrder c k
  rw [alone] at arms
  obtain ⟨u, ⟨a, ha, -, rfl⟩, last⟩ := arms
  rw [hb] at ha
  cases ha
  have fired : s.captureAll c k s.now = (s.setRun i b (.armed s.now)).fireWithin i false 0 := by
    rw [show s.captureAll c k s.now = _ from last, s.armAt_now, if_pos ⟨now, free⟩]
  obtain ⟨⟨here, others⟩, -⟩ := EntrySet.setRun s i b (.armed s.now)
  have entries : ∀ j, ((s.setRun i b (.armed s.now)).entry j).inst = (s.entry j).inst ∧
      ((s.setRun i b (.armed s.now)).entry j).body.isSome = (s.entry j).body.isSome := fun j => by
    by_cases same : j = i
    · subst same
      rw [here, hb]
      exact ⟨rfl, rfl⟩
    · rw [others j same]
      exact ⟨rfl, rfl⟩
  rw [fired]
  exact (State.endGone_base _ (fun d => by rw [(s.setRun_only i b _).channel]) (fun j => (entries j).1)
    fun j => (entries j).2).symm

/-! ## A record that one channel counts (R147, R148) -/

/-- A record that no entry takes goes to its owner and its subscribers before the channels count it. -/
theorem State.captureAll_none {s : State} {c : ChanNo} (h : ∀ i b, (s.entry i).body = some b → b.namesChannel c = false)
    (k : RecordKind) : s.captureAll c k s.now = s := by
  have arms := s.captureAll_inOrder c k
  have none : s.actedOn c k = [] := List.eq_nil_iff_forall_not_mem.2 fun i mem => by
    obtain ⟨b, hb, takes⟩ := State.mem_actedOn.1 mem
    exact absurd (Body.takesRecord_namesChannel takes) (by rw [h i b hb]; decide)
  rw [none] at arms
  exact arms

theorem State.acted_none {s : State} {c : ChanNo} (h : ∀ i b, (s.entry i).body = some b → b.namesChannel c = false)
    (k : RecordKind) (value : Nat) :
    (s.deliverCapture c k value).captureAll c k s.now = s.deliverCapture c k value := by
  have delivered := s.deliverCapture_only c k value
  rw [← delivered.now]
  exact State.captureAll_none (fun i b hb => h i b (by rwa [delivered.entry] at hb)) k

/-- A record that nothing acts on is delivered, and that is all (R142). -/
theorem State.handOn_unheard {s : State} {c : ChanNo} (h : Unheard c s) (depth : Nat) (k : RecordKind) (value : Nat) :
    State.handOn (depth + 1) s c k value = s.deliverCapture c k value := by
  obtain ⟨unnamed, uncounted⟩ := h
  have counts := s.handOn_counts depth c k value
  rw [State.counters_nil uncounted, State.acted_none unnamed] at counts
  exact counts

/-- A record that one channel alone counts, and no entry takes, is delivered and counted (R147). -/
theorem State.handOn_countedOnce {s : State} {c d : ChanNo} {k : RecordKind} (once : s.counters c k = [d])
    (unnamed : ∀ i b, (s.entry i).body = some b → b.namesChannel c = false) (depth : Nat) (value : Nat) :
    State.handOn (depth + 1) s c k value =
      if (s.channel d).counter ≤ 1 then
        State.handOn depth ((s.deliverCapture c k value).setChannel d (s.channel d).counted) d .expiry
          (s.channel d).reload
      else (s.deliverCapture c k value).setChannel d (s.channel d).counted := by
  have counts := s.handOn_counts depth c k value
  rw [once, State.acted_none unnamed] at counts
  obtain ⟨u, ⟨counting, rfl⟩, last⟩ := counts
  rw [show State.handOn (depth + 1) s c k value = _ from last, State.countAt_counts counting,
    (s.deliverCapture_only c k value).channel]

end Sys2Proof.Machine
end

section
/-! O47: the events of the channels with all that their records lead to (R94 to R96, R113, R142 to R148, R159). -/

namespace Sys2Proof.Machine

/-! ## An edge in STAMP mode, its record counted by no channel (R94 to R96, R113) -/

theorem execEdgeTaken_stamp {c : ChanNo} {s : State} (running : s.running = true)
    (complete : (s.channel c).qualification = .complete) (on : (s.channel c).running = true)
    (mode : (s.channel c).mode = .stamp) (edge : (s.channel c).edge = .both) :
    exec (.edgeTaken c) s = .next ((s.setChannel c ((s.channel c).edged (s.pins.cap.get c))).produce c
      (if s.pins.cap.get c = .high then .edgeRise else .edgeFall) 0) := by
  rw [execEdgeTaken_acts running complete on, State.actOnEdge_stamp, edgeKind_eq]
  · rw [State.channel_setChannel_same]
    exact mode
  · rw [State.channel_setChannel_same]
    exact (EdgeSelect.takes_iff ..).2 (.inl edge)

theorem State.source_edged (s : State) (c : ChanNo) (level : PinLevel) (e : ChanNo) :
    ((s.setChannel c ((s.channel c).edged level)).channel e).source = (s.channel e).source := by
  rw [State.channel_setChannel]
  split
  next same => rw [same]; rfl
  · rfl

theorem ChannelRecords.edged (s : State) (c : ChanNo) (level : PinLevel) (k : RecordKind) (value : Nat) :
    ChannelRecords c ((s.channel c).edged level) k value s
      ((s.setChannel c ((s.channel c).edged level)).deliverCapture c k value) :=
  .deliver (x := (s.channel c).edged level) rfl rfl k value

section Delivered

variable {c : ChanNo} {x : Channel} {k : RecordKind} {value : Nat} {s u : State}

theorem State.actedOn_singleton {i : EntryIx} {b : Body} (hb : (s.entry i).body = some b)
    (takes : b.takesRecord c k = true)
    (alone : ∀ j a, j ≠ i → (s.entry j).body = some a → a.takesRecord c k = false) : s.actedOn c k = [i] := by
  refine eq_singleton_of_nodup (s.nodup_actedOn c k) fun j => State.mem_actedOn.trans ⟨?_, ?_⟩
  · rintro ⟨a, ha, acts⟩
    by_contra other
    exact absurd (alone j a other ha) (by rw [acts]; decide)
  · rintro rfl
    exact ⟨b, hb, takes⟩

/-- What follows at the table a record that has been delivered leaves the channels. -/
theorem ChannelRecords.tabled (h : ChannelRecords c x k value s u) :
    let t := (u.captureAll c k u.now).endGone u
    OnlyChanges [.channels, .schedule, .lines, .subs, .digest, .ports] s t ∧ ChannelBecomes c x s t := by
  obtain ⟨only, ⟨here, others⟩, -⟩ := h
  have tabled : OnlyChanges [.schedule, .lines, .subs, .digest, .ports] u ((u.captureAll c k u.now).endGone u) :=
    ((State.captureAll_only ..).mono (by decide)).trans ((State.endGone_only ..).mono (by decide))
  exact ⟨(only.mono (by decide)).trans (tabled.mono (by decide)), (tabled.channel c).trans here,
    fun d hd => (tabled.channel d).trans (others d hd)⟩

/-- What follows at the table a record that has been delivered, where no entry that it acts on has a delay of 0. -/
theorem ChannelRecords.arms (h : ChannelRecords c x k value s u)
    (later : ∀ i b, (s.entry i).body = some b → b.takesRecord c k = true → 0 < b.delay) :
    let t := (u.captureAll c k u.now).endGone u
    OnlyChanges [.channels, .schedule, .digest, .ports] s t ∧
      (∀ i, t.entry i = { inst := (s.entry i).inst, body := (s.entry i).body.map fun b =>
          if b.takesRecord c k = true then { b with run := .armed (s.backup.count + b.delay) } else b }) ∧
      GenerationsRise 0 (s.actedOn c k).length s t ∧
      ∀ q, t.port q = (s.port q).storesIf (s.attached q) (s.captureCopies c k value q) := by
  obtain ⟨only, -, ports⟩ := h
  obtain ⟨changes, entries, rise⟩ := State.captureAll_later (s := u) (c := c) (k := k)
    fun i b hb => later i b (by rwa [only.entry] at hb)
  simp only [only.entry, only.now, State.actedOn_congr only.entry] at changes entries rise
  rw [only.now]
  intro t
  refine ⟨(only.mono (by decide)).trans (changes.mono (by decide)), entries, ?_, fun q => (changes.port q).trans (ports q)⟩
  unfold GenerationsRise at rise ⊢
  rwa [only.schedule] at rise

/-- What follows at the table a record that has been delivered, where it acts on one entry alone, of delay 0. -/
theorem ChannelRecords.fires (h : ChannelRecords c x k value s u) {i : EntryIx} {b : Body}
    (hb : (s.entry i).body = some b) (alone : s.actedOn c k = [i]) (now : b.delay = 0)
    (free : s.backup.rangeHeld = false) :
    ∃ w, EntrySet i { inst := (s.entry i).inst, body := some { b with run := .armed s.backup.count } } 0 1 s w ∧
      OnlyChanges [.schedule, .digest] s w ∧
      Fires true i { b with run := .armed s.backup.count } s.backup.count false 0 w.line w.digest
        (fun q => (s.port q).storesIf (s.attached q) (s.captureCopies c k value q)) w
        ((u.captureAll c k u.now).endGone u) := by
  obtain ⟨only, -, ports⟩ := h
  have fired := State.captureAll_fires (s := u) (by rwa [only.entry]) (by rwa [State.actedOn_congr only.entry]) now
    (by rwa [only.backup])
  have set := EntrySet.setRun u i b (.armed u.now)
  have changes := u.setRun_only i b (.armed u.now)
  have fires := State.fire_fires (congrArg Entry.body set.1.1) rfl false 0
  rw [← fired] at fires
  rw [show s.backup.count = u.now from only.now.symm]
  refine ⟨s.withTableOf (u.setRun i b (.armed u.now)), ?_, s.withTableOf_only _, ?_⟩
  · rw [← only.entry i]
    exact set.rebase only.schedule only.digest
  · have lines : (u.setRun i b (.armed u.now)).line = (s.withTableOf (u.setRun i b (.armed u.now))).line :=
      funext fun l => (changes.line l).trans (only.line l)
    have units : (u.setRun i b (.armed u.now)).port =
        fun q => (s.port q).storesIf (s.attached q) (s.captureCopies c k value q) :=
      funext fun q => (changes.port q).trans (ports q)
    rw [lines, units] at fires
    refine fires.rebase rfl (fun j => (changes.sub j).trans (only.sub j)) fun q => ?_
    rw [changes.attached q, State.attached_eq, ports q, PortUnit.storesIf_state]
    rfl

end Delivered

/-- An edge in STAMP mode whose record no channel counts: what it leads to is the entries' (R142). -/
theorem State.produce_edged_uncounted {s : State} {c : ChanNo} (h : ∀ d, (s.channel d).source ≠ .channel c)
    {level : PinLevel} {k : RecordKind} {value : Nat} :
    (s.setChannel c ((s.channel c).edged level)).produce c k value =
      (((s.setChannel c ((s.channel c).edged level)).deliverCapture c k value).captureAll c k
        ((s.setChannel c ((s.channel c).edged level)).deliverCapture c k value).now).endGone
          ((s.setChannel c ((s.channel c).edged level)).deliverCapture c k value) :=
  State.produce_uncounted (State.counters_nil (fun d => by rw [s.source_edged]; exact h d) k) value

/-! ## An edge in STAMP mode, its record counted by one channel (R147, R148) -/

/-- The channel d, and no other, has the channel c as its count source, and counts its records (R148). -/
structure CountsAlone (d c : ChanNo) (s : State) : Prop where
  other : d ≠ c
  once : ∀ e, (s.channel e).source = .channel c → e = d
  counts : s.countsFrom d c = true

theorem CountsAlone.counters {d c : ChanNo} {s : State} (h : CountsAlone d c s) {k : RecordKind} (kind : k ≠ .overflow) :
    s.counters c k = [d] := by
  rw [State.counters_eq, if_neg kind]
  refine eq_singleton_of_nodup (nodup_allChannels.filter _) fun e => ?_
  rw [List.mem_filter, and_iff_right (mem_allChannels e)]
  constructor
  · intro counts
    obtain ⟨-, -, source, -⟩ := (State.countsFrom_iff ..).1 counts
    exact h.once e source
  · rintro rfl
    exact h.counts

theorem Unheard.edged {d : ChanNo} {s : State} (h : Unheard d s) (c : ChanNo) (level : PinLevel) :
    Unheard d (s.setChannel c ((s.channel c).edged level)) :=
  ⟨h.1, fun e => by rw [s.source_edged]; exact h.2 e⟩

theorem CountsAlone.edged {d c : ChanNo} {s : State} (h : CountsAlone d c s) (level : PinLevel) :
    CountsAlone d c (s.setChannel c ((s.channel c).edged level)) := by
  obtain ⟨here, others⟩ := ChannelBecomes.setChannel s c ((s.channel c).edged level)
  refine ⟨h.other, fun e source => h.once e (by rwa [s.source_edged] at source), ?_⟩
  have counts := (State.countsFrom_iff ..).1 h.counts
  rw [State.countsFrom_iff, here, others d h.other]
  exact counts

/-- A record that one channel counts, whose own EXPIRY nothing acts on: the counter is lowered, or reloaded with an
EXPIRY. -/
theorem State.produce_countedOnce {s : State} {c d : ChanNo} {k : RecordKind} (once : s.counters c k = [d])
    (unnamed : ∀ i b, (s.entry i).body = some b → b.namesChannel c = false) (unheard : Unheard d s) (value : Nat) :
    let t := s.produce c k value
    OnlyChanges [.channels, .ports] s t ∧ ChannelBecomes d (s.channel d).counted s t ∧
      ∀ q, t.port q = ((s.port q).storesIf (s.attached q) (s.captureCopies c k value q)).storesIf (s.attached q)
        (if (s.channel d).counter ≤ 1 then s.captureCopies d .expiry (s.channel d).reload q else []) := by
  set u := s.deliverCapture c k value with hu
  set w := u.setChannel d (s.channel d).counted with hw
  have delivered : OnlyChanges [.ports] s u := s.deliverCapture_only c k value
  have counted : OnlyChanges [.channels] u w := u.setChannel_only ..
  have changes : OnlyChanges [.channels, .ports] s w := (delivered.mono (by decide)).trans (counted.mono (by decide))
  have becomes : ChannelBecomes d (s.channel d).counted s w := by
    obtain ⟨here, others⟩ := ChannelBecomes.setChannel u d (s.channel d).counted
    exact ⟨here, fun e he => (others e he).trans (delivered.channel e)⟩
  have setup : SameSetup s w := by
    have lowered := SameSetup.counted u d
    rw [delivered.channel] at lowered
    exact (SameSetup.of_only delivered).trans lowered
  have ports : ∀ q, w.port q = (s.port q).storesIf (s.attached q) (s.captureCopies c k value q) := fun q =>
    (counted.port q).trans (s.port_deliverCapture c k value q)
  have attached : ∀ q, w.attached q = s.attached q := fun q => by
    rw [State.attached_eq, ports q, PortUnit.storesIf_state]
    rfl
  have handed := State.handOn_countedOnce once unnamed 7 value
  rw [← hu, ← hw] at handed
  have told : OnlyChanges [.ports] w (State.handOn 8 s c k value) ∧
      ∀ q, (State.handOn 8 s c k value).port q = (w.port q).storesIf (s.attached q)
        (if (s.channel d).counter ≤ 1 then s.captureCopies d .expiry (s.channel d).reload q else []) := by
    by_cases last : (s.channel d).counter ≤ 1
    · have silent : Unheard d w := ⟨fun i b hb => unheard.1 i b (by rwa [changes.entry] at hb),
        fun e => by rw [setup.source]; exact unheard.2 e⟩
      rw [handed, if_pos last, State.handOn_unheard silent 6]
      refine ⟨State.deliverCapture_only .., fun q => ?_⟩
      rw [State.port_deliverCapture, attached, if_pos last, State.captureCopies_congr (s := s) (t := w)
        (fun j => changes.sub j) (setup.owner d) (setup.level d) changes.stamp]
    · rw [handed, if_neg last]
      exact ⟨.refl .., fun q => by rw [if_neg last, PortUnit.storesIf_nil]⟩
  obtain ⟨only, records⟩ := told
  intro t
  rw [show t = State.handOn 8 s c k value from State.endGone_none
    (fun i used => by rw [only.entry, changes.entry]; exact used)
    fun e own => by rw [only.channel, setup.owner]; exact own]
  refine ⟨changes.trans (only.mono (by decide)), ⟨(only.channel d).trans becomes.1, fun e he =>
    (only.channel e).trans (becomes.2 e he)⟩, fun q => ?_⟩
  rw [records q, ports q]

/-- An edge in STAMP mode whose record one channel counts: the counter is lowered, or reloaded with an EXPIRY. -/
theorem State.produce_edged_counted {s : State} {c d : ChanNo} {k : RecordKind} (alone : CountsAlone d c s)
    (kind : k ≠ .overflow) (unnamed : ∀ i b, (s.entry i).body = some b → b.namesChannel c = false)
    (unheard : Unheard d s) (level : PinLevel) (value : Nat) :
    let t := (s.setChannel c ((s.channel c).edged level)).produce c k value
    let y := s.channel d
    let heard := fun q => (s.port q).storesIf (s.attached q) (s.captureCopies c k value q)
    OnlyChanges [.channels, .ports] s t ∧ t.channel c = (s.channel c).edged level ∧
      (∀ e, e ≠ c → e ≠ d → t.channel e = s.channel e) ∧ t.channel d = y.counted ∧
      ∀ q, t.port q = (heard q).storesIf (s.attached q)
        (if y.counter ≤ 1 then s.captureCopies d .expiry y.reload q else []) := by
  obtain ⟨here, others⟩ := ChannelBecomes.setChannel s c ((s.channel c).edged level)
  have counter := others d alone.other
  obtain ⟨only, ⟨counted, rest⟩, ports⟩ :=
    State.produce_countedOnce ((alone.edged level).counters kind) unnamed (unheard.edged c level) value
  rw [counter] at counted
  have own : ∀ q, (s.setChannel c ((s.channel c).edged level)).captureCopies c k value q =
      s.captureCopies c k value q := fun q =>
    State.captureCopies_congr (s := s) (t := s.setChannel c ((s.channel c).edged level)) (fun _ => rfl)
      (by rw [here]; rfl) (by rw [here]; rfl) rfl k value q
  have expiry : ∀ q, (s.setChannel c ((s.channel c).edged level)).captureCopies d .expiry (s.channel d).reload q =
      s.captureCopies d .expiry (s.channel d).reload q := fun q =>
    State.captureCopies_congr (s := s) (t := s.setChannel c ((s.channel c).edged level)) (fun _ => rfl)
      (by rw [counter]) (by rw [counter]) rfl _ _ q
  simp only [counter, own, expiry] at ports
  exact ⟨((s.setChannel_only ..).mono (by decide)).trans only, (rest c alone.other.symm).trans here,
    fun e notC notD => (rest e notD).trans (others e notC), counted, ports⟩

/-- The second part of O47 for an edge: in each mode that produces one, its record is handed on. -/
theorem execEdgeTaken_produces {c : ChanNo} {s : State} (running : s.running = true)
    (complete : (s.channel c).qualification = .complete) (on : (s.channel c).running = true) :
    ∃ t, exec (.edgeTaken c) s = .next t ∧
      let old := s.channel c
      let level := s.pins.cap.get c
      let selected : Prop := old.edge = .both ∨ (old.edge = .rise ∧ level = .high) ∨ (old.edge = .fall ∧ level = .low)
      let x : Channel := { old with filtered := level, qualification := .none }
      (old.mode = .stamp → selected → Produces c x (if level = .high then .edgeRise else .edgeFall) 0 s t) ∧
      (∀ e, old.measuring = some e →
        (old.mode = .period → selected → Produces c { x with measuring := some 0 } .period (min e 4294967295) s t) ∧
        (old.mode = .width → Produces c { x with measuring := some 0 } (if level = .high then .widthLow else .widthHigh)
          (min e 4294967295) s t)) ∧
      (old.mode = .count → old.source = .ownPin → selected → old.counter = 1 →
        Produces c { x with counter := old.reload } .expiry old.reload s t) := by
  refine ⟨_, execEdgeTaken_acts running complete on, ?_⟩
  have produced := actOnEdge_produces s c ((s.channel c).edged (s.pins.cap.get c)) (s.pins.cap.get c)
  dsimp only [Channel.edged] at produced ⊢
  simp only [← EdgeSelect.takes_iff, ← edgeKind_eq, ← widthKind_eq]
  exact produced

/-- Settles O47: the model's record is handed on as the rules say, and one record's arming, firing and counting are cases
of that. -/
theorem captureRecordsActOnEntriesAndCounters : Obligations.CaptureRecordsActOnEntriesAndCounters := by
  refine ⟨fun c s running complete on mode edge => ?_, fun c s running => ⟨fun complete on =>
    execEdgeTaken_produces running complete on, execMeasurementOverflow_produces running, fun on mode last source =>
      execCounterExpiry_produces running on mode last ((State.sourceCounts_iff on mode).2 source)⟩⟩
  have stamped := execEdgeTaken_stamp running complete on mode edge
  have kind : (if s.pins.cap.get c = .high then .edgeRise else .edgeFall : RecordKind) ≠ .overflow := by
    split <;> decide
  intro k x acts delayOf heard
  refine ⟨fun uncounted => ⟨_, stamped, ?_⟩, fun d other once unheard unnamed counting counts owned => ⟨_, stamped, ?_⟩⟩
  · have records := ChannelRecords.edged s c (s.pins.cap.get c) k 0
    obtain ⟨changes, becomes⟩ := records.tabled
    rw [State.produce_edged_uncounted uncounted]
    exact ⟨becomes, records.arms, fun i b hb takes now free alone =>
      ⟨changes, records.fires hb (State.actedOn_singleton hb takes alone) now free⟩⟩
  · have alone : CountsAlone d c s :=
      ⟨other, fun e => (once e).1, (State.countsFrom_iff ..).2 ⟨counting, counts, (once d).2 rfl, owned⟩⟩
    obtain ⟨only, own, others, counted, ports⟩ := State.produce_edged_counted alone kind
      (fun i b hb => (unnamed i b hb).1) ⟨fun i b hb => (unnamed i b hb).2, unheard⟩ (s.pins.cap.get c) 0
    refine ⟨only, own, others, fun above => ⟨?_, fun q => ?_⟩, fun last => ⟨?_, fun q => ?_⟩⟩
    · exact counted.trans (Channel.counted_above above)
    · refine (ports q).trans ?_
      rw [if_neg (Nat.not_le.2 above), PortUnit.storesIf_nil]
    · exact counted.trans (Channel.counted_last (Nat.le_of_eq last))
    · refine (ports q).trans ?_
      rw [if_pos (Nat.le_of_eq last)]

end Sys2Proof.Machine
end

section
/-! The rules of a line: its level, its drive state and its bytes, the checks that a request with a line number begins with,
and the request that replaces one line (R114 to R120, R124, R193). -/

namespace Sys2Proof.Machine

/-! ## The level and the drive state of a line (R114, R120) -/

theorem Line.output_eq (x : Line) :
    x.output = if x.drive = .idle then x.idleLevel else if x.idleLevel = .low then .high else .low := by
  unfold Line.output
  cases x.drive with
  | idle => rfl
  | pulsing n | held n => cases x.idleLevel <;> rfl

theorem Line.actedOn_toggle (x : Line) : x.actedOn .toggle = if x.drive = .idle then x.startHold else .idle := by
  unfold Line.actedOn
  cases x.drive <;> rfl

theorem pinLevelOf_eq (b : Byte) :
    pinLevelOf b = if 1 < b.toNat then none else some (if b = 1 then .high else .low) := by
  unfold pinLevelOf
  by_cases range : 1 < b.toNat
  · have beyond : ¬ (b = 0 ∨ b = 1) := fun h => Nat.not_le.2 range (Byte.toNat_le_one.2 h)
    rw [if_pos range, if_neg fun zero => beyond (.inl zero), if_neg fun one => beyond (.inr one)]
  · rw [if_neg range]
    obtain rfl | rfl := Byte.toNat_le_one.1 (Nat.not_lt.1 range) <;> rfl

theorem actionOf_of_lt {b : Byte} (h : 3 < b.toNat) : actionOf b = none := by
  rw [← Option.isNone_iff_eq_none, ← Option.not_isSome, actionOf_isSome, decide_eq_false (Nat.not_lt.2 h)]
  rfl

/-! ## A line number, and the owner of the line (R116 to R119, R124, R128) -/

section LineNumber

variable {s : State} {p : Port} {n : Byte} {go : LineNo → State × Option Response}

theorem lineOf_of_not_line (h : ¬ n.toNat < 16) : lineOf n = none := dif_neg h

theorem lineOf_of_line (h : n.toNat < 16) : lineOf n = some ⟨n.toNat, h⟩ := dif_pos h

theorem State.withLine_of_not_line (h : ¬ n.toNat < 16) : s.withLine n go = s.refuse .badArg := by
  unfold State.withLine
  rw [lineOf_of_not_line h]

theorem State.withLine_of_line (h : n.toNat < 16) : s.withLine n go = go ⟨n.toNat, h⟩ := by
  unfold State.withLine
  rw [lineOf_of_line h]

theorem State.withOwnLine_of_line (h : n.toNat < 16) :
    s.withOwnLine p n go = if (s.line ⟨n.toNat, h⟩).owner = some p then go ⟨n.toNat, h⟩ else s.refuse .notOwner :=
  State.withLine_of_line h

end LineNumber

/-! ## A request that replaces one line -/

/-- A request answered OK that replaces one line and changes nothing else but its port's slot. -/
theorem State.request_setsLine {s : State} {p : Port} (ready : Ready s p) {n : Nat}
    {block : State → State × Option Response} {l : LineNo} {x : Line} {fields : List Byte}
    (hb : block (s.shiftOut p ((s.port p).requestMiso (n + 3))) =
      ((s.shiftOut p ((s.port p).requestMiso (n + 3))).setLine l x).answer .ok fields) :
    OnlyChanges [.lines, .ports] s (s.request p n block) ∧ LineBecomes l x s (s.request p n block) ∧
      Replied p n { status := .ok, fields := fields } s (s.request p n block) := by
  obtain ⟨changes, replied⟩ := State.request_replied ready n hb (State.setLine_only ..)
  refine ⟨changes.mono (by decide), ?_, replied⟩
  rw [State.request_answered ready n hb]
  have line := s.line_setLine l (x := x)
  exact ⟨(line l).trans (if_pos rfl), fun k other => (line k).trans (if_neg other)⟩

/-! ## The entries that name a line or a channel (R115, R134) -/

theorem State.countEntries_ne_zero {s : State} {test : Body → Bool} :
    s.countEntries test ≠ 0 ↔ ∃ i, (s.entry i).body.any test = true := by
  rw [State.countEntries_eq, ne_eq, List.length_eq_zero_iff, List.filter_eq_nil_iff]
  simp

end Sys2Proof.Machine
end

section
/-! CLAIM_LINE, RELEASE_LINE and PIN_LINE (R116 to R118). -/

namespace Sys2Proof.Machine

/-- The fields of CLAIM_LINE for a line that has an owner (R193). -/
theorem Line.headBytes_of_owner {x : Line} {p : Port} (own : x.owner = some p) :
    x.headBytes = [1, byteOf p.val, flagByte x.pinned, byteOf (pinCode x.idleLevel)] ++ bytesBE 2 x.width ++
      bytesBE 2 x.holdLimit ++ [byteOf x.drive.code] := by
  unfold Line.headBytes Line.configBytes
  rw [own, optPort_eq]
  simp only [List.append_assoc, List.cons_append, List.nil_append]

theorem blockClaimLine_of_line {s : State} {p : Port} {n : Byte} (h : n.toNat < 16) :
    blockClaimLine p n s =
      let x := s.line ⟨n.toNat, h⟩
      if x.owner = none then (s.setLine ⟨n.toNat, h⟩ { x with owner := some p }).answer .ok
        (Line.headBytes { x with owner := some p })
      else if x.owner = some p then s.answer .ok x.headBytes
      else s.refuse .owned := by
  refine (State.withLine_of_line h).trans ?_
  dsimp only
  cases owner : (s.line ⟨n.toNat, h⟩).owner with
  | none =>
    rw [if_pos rfl]
    unfold State.ownLine
    rw [State.line_setLine, if_pos rfl]
  | some q => simp only [reduceCtorEq, if_false, Option.some.injEq]

theorem blockReleaseLine_of_line {s : State} {p : Port} {n : Byte} (h : n.toNat < 16) :
    blockReleaseLine p n s =
      let x := s.line ⟨n.toNat, h⟩
      if x.owner = some p then
        if x.pinned = true then s.refuse .pinned
        else if s.lineNaming ⟨n.toNat, h⟩ ≠ 0 then s.refuse .inUse
        else (s.setLine ⟨n.toNat, h⟩ x.released).answer .ok []
      else s.refuse .notOwner := State.withOwnLine_of_line h

theorem blockPinLine_of_line {s : State} {p : Port} {n : Byte} (h : n.toNat < 16) :
    blockPinLine p n s =
      if (s.line ⟨n.toNat, h⟩).owner = some p then
        (s.setLine ⟨n.toNat, h⟩ { s.line ⟨n.toNat, h⟩ with pinned := true }).answer .ok [1]
      else s.refuse .notOwner := State.withOwnLine_of_line h

/-- Settles O41, each request in the order of its rule. -/
theorem linesClaimedReleasedPinned : Obligations.LinesClaimedReleasedPinned := by
  intro p n s ready
  by_cases h : n.toNat < 16
  · simp only [dif_pos h]
    refine ⟨⟨_, rfl, ?_⟩, ⟨_, rfl, ?_⟩, ⟨_, rfl, ?_⟩⟩
    · have block := blockClaimLine_of_line (s := s.shiftOut p ((s.port p).requestMiso (1 + 3))) (p := p) h
      by_cases free : (s.line ⟨n.toNat, h⟩).owner = none
      · rw [if_pos free]
        rw [← Line.headBytes_of_owner (x := { s.line ⟨n.toNat, h⟩ with owner := some p }) rfl]
        exact State.request_setsLine ready (block.trans (if_pos free))
      · rw [if_neg free]
        replace block := block.trans (if_neg free)
        by_cases own : (s.line ⟨n.toNat, h⟩).owner = some p
        · rw [if_pos own, ← Line.headBytes_of_owner own]
          exact State.request_reported ready 1 _ (block.trans (if_pos own))
        · rw [if_neg own]
          exact State.request_refused ready 1 _ (block.trans (if_neg own))
    · have block := blockReleaseLine_of_line (s := s.shiftOut p ((s.port p).requestMiso (1 + 3))) (p := p) h
      by_cases own : (s.line ⟨n.toNat, h⟩).owner = some p
      · rw [if_neg (not_not.2 own)]
        replace block := block.trans (if_pos own)
        by_cases pinned : (s.line ⟨n.toNat, h⟩).pinned = true
        · rw [if_pos pinned]
          exact State.request_refused ready 1 _ (block.trans (if_pos pinned))
        · rw [if_neg pinned]
          replace block := block.trans (if_neg pinned)
          by_cases named : ∃ i, (s.entry i).body.any (Body.namesLine ⟨n.toNat, h⟩) = true
          · rw [if_pos named]
            exact State.request_refused ready 1 _ (block.trans (if_pos (State.countEntries_ne_zero.2 named)))
          · rw [if_neg named]
            exact State.request_setsLine ready
              (block.trans (if_neg fun count => named (State.countEntries_ne_zero.1 count)))
      · rw [if_pos own]
        exact State.request_refused ready 1 _ (block.trans (if_neg own))
    · have block := blockPinLine_of_line (s := s.shiftOut p ((s.port p).requestMiso (1 + 3))) (p := p) h
      by_cases own : (s.line ⟨n.toNat, h⟩).owner = some p
      · rw [if_neg (not_not.2 own)]
        exact State.request_setsLine ready (block.trans (if_pos own))
      · rw [if_pos own]
        exact State.request_refused ready 1 _ (block.trans (if_neg own))
  · simp only [dif_neg h]
    exact ⟨⟨_, rfl, State.request_refused ready 1 _ (State.withLine_of_not_line h)⟩,
      ⟨_, rfl, State.request_refused ready 1 _ (State.withLine_of_not_line h)⟩,
      ⟨_, rfl, State.request_refused ready 1 _ (State.withLine_of_not_line h)⟩⟩

end Sys2Proof.Machine
end

section
/-! CONFIGURE_LINE and DRIVE_LINE (R119, R120, R124). -/

namespace Sys2Proof.Machine

/-! ## CONFIGURE_LINE (R119) -/

/-- The operands that step 1 of R119 refuses. -/
theorem blockConfigureLine_badArg {s : State} {p : Port} {n v : Byte} {width limit : BitVec 16}
    (h : ¬ n.toNat < 16 ∨ 1 < v.toNat ∨ width = 0) : blockConfigureLine p n v width limit s = s.refuse .badArg := by
  unfold blockConfigureLine
  rw [pinLevelOf_eq]
  by_cases line : n.toNat < 16
  · rw [lineOf_of_line line]
    by_cases level : 1 < v.toNat
    · rw [if_pos level]
    · rw [if_neg level]
      exact if_pos ((h.resolve_left (not_not.2 line)).resolve_left level)
  · rw [lineOf_of_not_line line]

theorem blockConfigureLine_of_line {s : State} {p : Port} {n v : Byte} {width limit : BitVec 16} (h : n.toNat < 16)
    (fields : ¬ (1 < v.toNat ∨ width = 0)) :
    blockConfigureLine p n v width limit s =
      if (s.line ⟨n.toNat, h⟩).owner = some p then
        s.configureLine ⟨n.toNat, h⟩ (if v = 1 then .high else .low) width.toNat limit.toNat
      else s.refuse .notOwner := by
  obtain ⟨level, wide⟩ := not_or.1 fields
  unfold blockConfigureLine
  rw [pinLevelOf_eq, lineOf_of_line h, if_neg level]
  exact (if_neg wide).trans (State.withOwnLine_of_line h)

theorem State.configureLine_driven {s : State} {l : LineNo} (h : (s.line l).drive ≠ .idle) (idle : PinLevel)
    (width limit : Nat) : s.configureLine l idle width limit = s.refuse .notStopped := by
  unfold State.configureLine
  split
  next e => exact absurd e h
  · rfl
  · rfl

theorem State.configureLine_idle {s : State} {l : LineNo} (h : (s.line l).drive = .idle) (idle : PinLevel)
    (width limit : Nat) :
    s.configureLine l idle width limit =
      (s.setLine l { s.line l with idleLevel := idle, width := width, holdLimit := limit }).answer .ok
        ([byteOf (pinCode idle)] ++ bytesBE 2 width ++ bytesBE 2 limit ++ [byteOf (pinCode idle)]) := by
  have level : ((s.line l).configured idle width limit).output = idle := (Line.output_eq _).trans (if_pos h)
  unfold State.configureLine
  rw [h]
  dsimp only
  rw [level]
  rfl

/-- A byte that names a level is the code of that level (R187). -/
theorem byteOf_pinCode_of_le {v : Byte} (h : ¬ 1 < v.toNat) : byteOf (pinCode (if v = 1 then .high else .low)) = v := by
  obtain rfl | rfl := Byte.toNat_le_one.1 (Nat.not_lt.1 h) <;> rfl

/-! ## DRIVE_LINE (R120, R124) -/

theorem blockDriveLine_badArg {s : State} {p : Port} {n v : Byte} (h : ¬ n.toNat < 16 ∨ 3 < v.toNat) :
    blockDriveLine p n v s = s.refuse .badArg := by
  unfold blockDriveLine
  by_cases line : n.toNat < 16
  · rw [lineOf_of_line line, actionOf_of_lt (h.resolve_left (not_not.2 line))]
  · rw [lineOf_of_not_line line]

theorem blockDriveLine_of_action {s : State} {p : Port} {n v : Byte} {a : LineAction} (h : n.toNat < 16)
    (action : actionOf v = some a) :
    blockDriveLine p n v s =
      if (s.line ⟨n.toNat, h⟩).owner = some p then s.driveLine p ⟨n.toNat, h⟩ a else s.refuse .notOwner := by
  unfold blockDriveLine
  rw [lineOf_of_line h, action]
  exact State.withOwnLine_of_line h

/-- A line driven by its owner: the drive state of the action, written as the last action, and the answer with the level
that follows from it (R120, R124). -/
theorem State.driveLine_eq (s : State) (p : Port) (l : LineNo) {a : LineAction} {d : Drive}
    (drive : (s.line l).actedOn a = d) :
    s.driveLine p l a =
      (s.setLine l { s.line l with
        drive := d, last := some { source := .drive p, action := a, stamp := s.stamp } }).answer .ok
        ([byteOf d.code, byteOf (pinCode (if d = .idle then (s.line l).idleLevel
          else if (s.line l).idleLevel = .low then .high else .low))] ++ s.stamp.bytes) := by
  subst drive
  unfold State.driveLine State.applyAction
  dsimp only
  rw [State.line_setLine, if_pos rfl, Line.output_eq]
  rfl

/-- What a DRIVE_LINE does that its owner sends with an action (R124). -/
theorem State.request_drivesLine {s : State} {p : Port} (ready : Ready s p) {n v : Byte} {a : LineAction} {d : Drive}
    (h : n.toNat < 16) (own : (s.line ⟨n.toNat, h⟩).owner = some p) (action : actionOf v = some a)
    (drive : (s.line ⟨n.toNat, h⟩).actedOn a = d) :
    let x := s.line ⟨n.toNat, h⟩
    let t := s.request p 2 (blockDriveLine p n v)
    OnlyChanges [.lines, .ports] s t ∧
      LineBecomes ⟨n.toNat, h⟩
        { x with drive := d, last := some { source := .drive p, action := a, stamp := s.stamp } } s t ∧
      Replied p 2 { status := .ok, fields := [byteOf d.code, byteOf (pinCode
        (if d = .idle then x.idleLevel else if x.idleLevel = .low then .high else .low))] ++ s.stamp.bytes } s t :=
  State.request_setsLine ready <| (blockDriveLine_of_action h action).trans <| (if_pos own).trans <|
    State.driveLine_eq (s.shiftOut p ((s.port p).requestMiso (2 + 3))) p _ drive

/-- Settles O42, each request in the order of its rule. -/
theorem linesConfiguredAndDriven : Obligations.LinesConfiguredAndDriven := by
  intro p n v width limit s ready
  by_cases h : n.toNat < 16
  · simp only [dif_pos h]
    refine ⟨⟨_, rfl, ?_⟩, ⟨_, rfl, ?_⟩⟩
    · by_cases fields : 1 < v.toNat ∨ width = 0
      · rw [if_pos fields]
        exact State.request_refused ready 6 _ (blockConfigureLine_badArg (.inr fields))
      · rw [if_neg fields]
        have block := blockConfigureLine_of_line (s := s.shiftOut p ((s.port p).requestMiso (6 + 3))) (p := p)
          (limit := limit) h fields
        by_cases own : (s.line ⟨n.toNat, h⟩).owner = some p
        · rw [if_neg (not_not.2 own)]
          replace block := block.trans (if_pos own)
          by_cases idle : (s.line ⟨n.toNat, h⟩).drive = .idle
          · rw [if_neg (not_not.2 idle)]
            have done := State.request_setsLine ready (block.trans (State.configureLine_idle (s := s.shiftOut p _) idle ..))
            rw [byteOf_pinCode_of_le (not_or.1 fields).1] at done
            exact done
          · rw [if_pos idle]
            exact State.request_refused ready 6 _ (block.trans (State.configureLine_driven (s := s.shiftOut p _) idle ..))
        · rw [if_pos own]
          exact State.request_refused ready 6 _ (block.trans (if_neg own))
    · by_cases range : 3 < v.toNat
      · rw [if_pos range]
        exact State.request_refused ready 2 _ (blockDriveLine_badArg (.inr range))
      · rw [if_neg range]
        by_cases own : (s.line ⟨n.toNat, h⟩).owner = some p
        · rw [if_neg (not_not.2 own)]
          have drives := fun {a d} => State.request_drivesLine (v := v) (a := a) (d := d) ready h own
          by_cases pulse : v = 0
          · rw [if_pos pulse]
            exact drives (pulse ▸ rfl) rfl
          rw [if_neg pulse]
          by_cases assert : v = 1
          · rw [if_pos assert]
            exact drives (assert ▸ rfl) rfl
          rw [if_neg assert]
          by_cases deassert : v = 2
          · rw [if_pos deassert]
            exact drives (deassert ▸ rfl) rfl
          rw [if_neg deassert]
          have toggle : v = 3 := by bv_omega
          exact drives (toggle ▸ rfl) (Line.actedOn_toggle _)
        · rw [if_pos own]
          obtain ⟨a, action⟩ := Option.isSome_iff_exists.1
            ((actionOf_isSome v).trans (decide_eq_true (Nat.lt_succ_of_le (Nat.not_lt.1 range))))
          exact State.request_refused ready 2 _ ((blockDriveLine_of_action h action).trans (if_neg own))
  · simp only [dif_neg h]
    exact ⟨⟨_, rfl, State.request_refused ready 6 _ (blockConfigureLine_badArg (.inl h))⟩,
      ⟨_, rfl, State.request_refused ready 2 _ (blockDriveLine_badArg (.inl h))⟩⟩

end Sys2Proof.Machine
end

section
/-! The ends of a line's two timers: alone, and named by the advance that counts their last microsecond (R121 to R123;
logs 4 and 6). -/

namespace Sys2Proof.Machine

/-! ## The end of a pulse and the expiry of a hold (R121, R122) -/

section Timers

variable {s : State} {l : LineNo}

theorem State.endPulse_of_ended (h : (s.line l).drive = .pulsing 0) :
    s.endPulse l = s.setLine l { s.line l with drive := .idle } := by
  unfold State.endPulse
  rw [h]

/-- A pulse does not end before its time, and a line that is not PULSING has none to end (log 4). -/
theorem State.endPulse_of_early (h : (s.line l).drive ≠ .pulsing 0) : s.endPulse l = s := by
  unfold State.endPulse
  split
  next e => exact absurd e h
  · rfl
  · rfl
  · rfl

theorem State.expireHold_of_ended (h : (s.line l).drive = .held (some 0)) :
    s.expireHold l = (s.setLine l { s.line l with drive := .idle }).deliverTo (s.line l).owner 5
      (lineTimeoutRecord l (s.line l).holdLimit s.stamp) := by
  unfold State.expireHold
  rw [h]

/-- A hold does not expire before its time, and a line that is not HELD with a limit has none to expire (log 4). -/
theorem State.expireHold_of_early (h : (s.line l).drive ≠ .held (some 0)) : s.expireHold l = s := by
  unfold State.expireHold
  split
  next e => exact absurd e h
  · rfl
  · rfl
  · rfl
  · rfl

theorem LineBecomes.setLine (s : State) (l : LineNo) (x : Line) : LineBecomes l x s (s.setLine l x) :=
  ⟨(s.line_setLine l l x).trans (if_pos rfl), fun k other => (s.line_setLine l k x).trans (if_neg other)⟩

theorem execPulseEnd_running (running : s.running = true) : exec (.pulseEnd l) s = .next (s.endPulse l) :=
  congrArg _ (if_pos running)

theorem execHoldExpiry_running (running : s.running = true) : exec (.holdExpiry l) s = .next (s.expireHold l) :=
  congrArg _ (if_pos running)

/-- The first part of O43. -/
theorem execPulseEnd_ends (running : s.running = true) :
    ∃ t, exec (.pulseEnd l) s = .next t ∧
      ((s.line l).drive = .pulsing 0 →
        OnlyChanges [.lines] s t ∧ LineBecomes l { s.line l with drive := .idle } s t) ∧
      ((s.line l).drive ≠ .pulsing 0 → t = s) := by
  refine ⟨_, execPulseEnd_running running, fun ended => ?_, State.endPulse_of_early⟩
  rw [State.endPulse_of_ended ended]
  exact ⟨s.setLine_only .., .setLine ..⟩

/-- The second part of O43. -/
theorem execHoldExpiry_expires (running : s.running = true) :
    ∃ t, exec (.holdExpiry l) s = .next t ∧
      ((s.line l).drive = .held (some 0) →
        OnlyChanges [.lines, .ports] s t ∧ LineBecomes l { s.line l with drive := .idle } s t ∧
        ∀ q, t.port q = (s.port q).storesIf (decide ((s.line l).owner = some q) && s.attached q)
          [(5, lineTimeoutRecord l (s.line l).holdLimit s.stamp)]) ∧
      ((s.line l).drive ≠ .held (some 0) → t = s) := by
  refine ⟨_, execHoldExpiry_running running, fun ended => ⟨s.expireHold_only l, ?_⟩, State.expireHold_of_early⟩
  rw [State.expireHold_of_ended ended]
  obtain ⟨here, others⟩ := LineBecomes.setLine s l { s.line l with drive := .idle }
  have delivered := (s.setLine l { s.line l with drive := .idle }).deliverTo_only (s.line l).owner 5
    (lineTimeoutRecord l (s.line l).holdLimit s.stamp)
  exact ⟨⟨(delivered.line l).trans here, fun k other => (delivered.line k).trans (others k other)⟩,
    fun q => State.port_deliverTo ..⟩

end Timers

/-! ## A timer's end that an advance names (R123; log 6) -/

/-- Where nothing is due at the old instant, the event that an advance names is taken once the microsecond is counted and
before the timebase advances. -/
theorem Quiet.advances_naming {s : State} (h : Quiet [] s) (d : DueEvent) :
    exec (.timebaseAdvance (.whole [d])) s = .next ((s.countTimers.takeDue d).timebaseMicro true) := by
  obtain ⟨running, unfired, none, -⟩ := h
  have settled : s.settle = s := by
    unfold State.settle
    rw [State.fireUnfired_none unfired]
    exact foldl_takeDue_eq fun d _ => none d
  have micro : s.micro [d] true = (s.countTimers.takeDue d).timebaseMicro true := by
    unfold State.micro State.runMicro
    rw [if_pos running, settled]
    rfl
  exact congrArg _ micro

/-- The third part of O43: while the count stays, the advance is the count of the timers and the end of the pulse. -/
theorem Quiet.endsPulse {l : LineNo} {s : State} (h : Quiet [] s) (last : (s.line l).drive = .pulsing 1)
    (unset : s.backup.quality = .unset) (still : s.slew.direction = .none) :
    ∃ t, exec (.timebaseAdvance (.whole [.pulseEnd l])) s = .next t ∧
      OnlyChanges [.monitor, .lines, .channels, .digest] s t ∧ t.line l = { s.line l with drive := .idle } ∧
      ∀ k, k ≠ l → t.line k = { s.line k with drive := (s.line k).drive.counted } := by
  have counted := s.countTimers_only
  obtain ⟨lines, -⟩ := s.countTimers_counted
  have ended : (s.countTimers.line l).drive = .pulsing 0 := by
    rw [lines, last]
    rfl
  have only := counted.trans ((s.countTimers.endPulse_only l).mono (by decide))
  have stays : (s.countTimers.endPulse l).timebaseMicro true = s.countTimers.endPulse l := by
    rw [State.timebaseMicro_within (.inl (by rw [only.slew]; exact still)), only.slew,
      show s.slew.counted = s.slew from if_pos still, ← only.slew]
    exact State.advanceOne_stays (fun counts => counts.1 (by rw [only.backup]; exact unset)) true
  refine ⟨_, (h.advances_naming _).trans (congrArg _ stays), only, ?_⟩
  rw [State.endPulse_of_ended ended]
  obtain ⟨here, others⟩ := LineBecomes.setLine s.countTimers l { s.countTimers.line l with drive := .idle }
  exact ⟨here.trans (by rw [lines]), fun k other => (others k other).trans (lines k)⟩

/-- What comes after an event that leaves the timebase and the table as they were: the count advances by one value, and the
entries that it reaches fire (R2, R14, R98). -/
theorem State.timebaseMicro_fires {s e : State} {ps : List Part} (only : OnlyChanges ps s e)
    (keeps : Part.backup ∉ ps ∧ Part.slew ∉ ps ∧ Part.schedule ∉ ps) (unfired : s.unfired = false)
    (ahead : DueAhead s) (within : s.slew.direction = .none ∨ s.slew.blockElapsed < 999)
    (room : s.backup.count < Config.endOfRange) (set : s.backup.quality ≠ .unset) (free : s.backup.rangeHeld = false) :
    ∃ v, OnlyChanges [.backup, .slew] e v ∧ v.backup = { s.backup with count := s.backup.count + 1 } ∧
      v.slew = s.slew.counted ∧ FiresInOrder false (s.dueAt (s.backup.count + 1)) v (e.timebaseMicro true) := by
  obtain ⟨nb, ns, nt⟩ := keeps
  have backup := only.backup nb
  have slew := only.slew ns
  have slewed : OnlyChanges [.slew] e { e with slew := e.slew.counted } :=
    ⟨fun q hq => by cases q <;> first | rfl | exact absurd (by decide) hq⟩
  have moved : OnlyChanges [.backup, .slew] e (State.atCount { e with slew := e.slew.counted } (s.now + 1)) :=
    (slewed.mono (by decide)).trans ((State.atCount_only ..).mono (by decide))
  have advance : e.timebaseMicro true = (State.atCount { e with slew := e.slew.counted } (s.now + 1)).fireReached := by
    rw [State.timebaseMicro_within (by rw [slew]; exact within),
      State.advanceOne_counts (by rw [slewed.backup, backup]; exact set) (by rw [slewed.backup, backup]; exact free)
        (by rw [slewed.now, only.now nb]; exact room), slewed.now, only.now nb]
    rfl
  refine ⟨_, moved, congrArg (fun b : Backup => { b with count := s.now + 1 }) backup,
    congrArg SlewState.counted slew, ?_⟩
  have entries : ∀ i, (State.atCount { e with slew := e.slew.counted } (s.now + 1)).entry i = s.entry i := fun i =>
    (moved.entry i).trans (only.entry i nt)
  have fires := State.fireReached_atNow (s := State.atCount { e with slew := e.slew.counted } (s.now + 1)) fun i d hd =>
    ahead.lt unfired free (by rw [← entries i]; exact hd)
  unfold State.dueAt at fires ⊢
  simp only [entries] at fires
  rw [advance]
  exact fires

/-- Settles O43: each timer's end by whether its time has passed, and that which an advance names by the order of one
microsecond. -/
theorem lineTimersEnd : Obligations.LineTimersEnd := by
  intro l s running
  refine ⟨execPulseEnd_ends running, execHoldExpiry_expires running, Quiet.endsPulse, ?_⟩
  intro d c named quiet ahead within room set free
  have counted := s.countTimers_only
  have runs : s.countTimers.running = true := counted.running.trans running
  have taken : exec c s.countTimers = .next (s.countTimers.takeDue d) ∧
      OnlyChanges [.lines, .ports] s.countTimers (s.countTimers.takeDue d) := by
    obtain ⟨rfl, rfl⟩ | ⟨rfl, rfl⟩ := named
    · exact ⟨execPulseEnd_running runs, (State.endPulse_only ..).mono (by decide)⟩
    · exact ⟨execHoldExpiry_running runs, State.expireHold_only ..⟩
  obtain ⟨runsEvent, only⟩ := taken
  have ⟨_, unfired, _⟩ := quiet
  obtain ⟨v, moved, backup, slew, fires⟩ := State.timebaseMicro_fires
    ((counted.mono (by decide)).trans (only.mono (by decide)) :
      OnlyChanges [.monitor, .lines, .channels, .digest, .ports] s _)
    (by decide) unfired ahead within room set free
  exact ⟨_, _, v, _, quiet.advances_naming d, counted, s.countTimers_counted, runsEvent, moved, backup, slew, fires⟩

end Sys2Proof.Machine
end

section
/-! READ_LINE and READ_CHANNEL (R128, R150, R193). -/

namespace Sys2Proof.Machine

/-! ## READ_LINE (R128) -/

/-- The pulse time remaining; one whose end falls at this instant shows 1 (R128; log 20). -/
theorem Drive.pulseLeft_bytes (d : Drive) :
    optNat 2 d.pulseLeft = (match d with
      | .pulsing k => 1 :: bytesBE 2 (max 1 k)
      | .idle => [0, 0, 0]
      | .held _ => [0, 0, 0]) := by
  cases d <;> rfl

/-- The hold time remaining; one whose end falls at this instant shows 1 (R128; log 20). -/
theorem Drive.holdLeft_bytes (d : Drive) :
    optNat 4 d.holdLeft = (match d with
      | .held (some k) => 1 :: bytesBE 4 (max 1 k)
      | .held none => [0, 0, 0, 0, 0]
      | .idle => [0, 0, 0, 0, 0]
      | .pulsing _ => [0, 0, 0, 0, 0]) := by
  cases d with
  | idle | pulsing k => rfl
  | held k => cases k <;> rfl

theorem Line.lastBytes_eq (x : Line) :
    x.lastBytes = (match x.last with
      | none => List.replicate 15 0
      | some a => 1 :: (match a.source with
          | .drive q => [0, 0, byteOf q.val]
          | .firing i inst => [1, byteOf i.val, inst]) ++ [byteOf a.action.code] ++ a.stamp.bytes) := by
  unfold Line.lastBytes
  cases x.last with
  | none => rfl
  | some a =>
    obtain ⟨source, action, stamp⟩ := a
    cases source <;> rfl

theorem State.lineNaming_eq (s : State) {n : Byte} (h : n.toNat < 16) :
    s.lineNaming ⟨n.toNat, h⟩ = ((List.finRange 64).filter fun i => (s.entry i).body.any fun b =>
      b.line.any fun y => y.1.val == n.toNat).length := by
  refine (s.countEntries_eq _).trans ?_
  have named : Body.namesLine ⟨n.toNat, h⟩ = fun b => b.line.any fun y => y.1.val == n.toNat := by
    funext b
    unfold Body.namesLine
    simp only [Fin.ext_iff, beq_eq_decide]
  rw [named]

theorem blockReadLine_of_line {s : State} {n : Byte} (h : n.toNat < 16) :
    blockReadLine n s = s.answer .ok
      ((s.line ⟨n.toNat, h⟩).readBytes (s.lineNaming ⟨n.toNat, h⟩) ++ s.stamp.bytes) := State.withLine_of_line h

/-! ## READ_CHANNEL (R150) -/

/-- The phase is present in modes PERIOD and WIDTH (R132). -/
theorem Channel.phaseBytes_eq (x : Channel) :
    x.phaseBytes = if x.mode = .period ∨ x.mode = .width then [1, flagByte x.measuring.isSome] else [0, 0] := by
  unfold Channel.phaseBytes
  cases x.mode <;> rfl

/-- The measurement elapsed; one that overflows at this instant shows 4,294,967,295 (R150; log 20). -/
theorem Channel.elapsedBytes_eq (x : Channel) :
    x.elapsedBytes = (match x.measuring with
      | none => [0, 0, 0, 0, 0]
      | some e => 1 :: bytesBE 4 (min e 4294967295)) := by
  unfold Channel.elapsedBytes
  cases x.measuring <;> rfl

theorem State.channelNaming_eq (s : State) {n : Byte} (h : n.toNat < 8) :
    s.channelNaming ⟨n.toNat, h⟩ = ((List.finRange 64).filter fun i => (s.entry i).body.any fun b =>
      match b.defn with
      | .after c _ _ _ => c.val == n.toNat
      | .atTime _ => false
      | .every _ _ => false
      | .calendar _ _ => false).length := by
  refine (s.countEntries_eq _).trans ?_
  have named : Body.namesChannel ⟨n.toNat, h⟩ = fun b => match b.defn with
      | .after c _ _ _ => c.val == n.toNat
      | .atTime _ => false
      | .every _ _ => false
      | .calendar _ _ => false := by
    funext b
    unfold Body.namesChannel
    cases b.defn with
    | after c k d pol => simp only [Fin.ext_iff, beq_eq_decide]
    | atTime | every | calendar => rfl
  rw [named]

theorem State.withChannel_of_not_channel {s : State} {n : Byte} {go : ChanNo → State × Option Response}
    (h : ¬ n.toNat < 8) : s.withChannel n go = s.refuse .badArg := by
  unfold State.withChannel channelOf
  rw [dif_neg h]

theorem State.withChannel_of_channel {s : State} {n : Byte} {go : ChanNo → State × Option Response}
    (h : n.toNat < 8) : s.withChannel n go = go ⟨n.toNat, h⟩ := by
  unfold State.withChannel channelOf
  rw [dif_pos h]

theorem blockReadChannel_of_channel {s : State} {n : Byte} (h : n.toNat < 8) :
    blockReadChannel n s = s.answer .ok
      ((s.channel ⟨n.toNat, h⟩).readBytes (s.channelNaming ⟨n.toNat, h⟩) ++ s.stamp.bytes) :=
  State.withChannel_of_channel h

/-- Settles O12: both requests answer without changing anything, and their fields are those of the table, part for part. -/
theorem readLineAndChannelReport : Obligations.ReadLineAndChannelReport := by
  intro p n s ready
  refine ⟨⟨_, rfl, ?_⟩, ⟨_, rfl, ?_⟩⟩
  · by_cases h : n.toNat < 16
    · rw [dif_pos h]
      dsimp only
      have report : Reported p 1 ((s.line ⟨n.toNat, h⟩).readBytes (s.lineNaming ⟨n.toNat, h⟩) ++ s.stamp.bytes) s
          (s.request p 1 (blockReadLine n)) := State.request_reported ready 1 _ (blockReadLine_of_line h)
      unfold Line.readBytes Line.headBytes Line.configBytes optPort at report
      rw [Drive.pulseLeft_bytes, Drive.holdLeft_bytes, Line.lastBytes_eq, Line.output_eq, s.lineNaming_eq h] at report
      simp only [List.append_assoc, List.cons_append, List.nil_append] at report ⊢
      exact report
    · rw [dif_neg h]
      exact State.request_refused ready 1 _ (State.withLine_of_not_line h)
  · by_cases h : n.toNat < 8
    · rw [dif_pos h]
      dsimp only
      have report : Reported p 1 ((s.channel ⟨n.toNat, h⟩).readBytes (s.channelNaming ⟨n.toNat, h⟩) ++ s.stamp.bytes) s
          (s.request p 1 (blockReadChannel n)) := State.request_reported ready 1 _ (blockReadChannel_of_channel h)
      unfold Channel.readBytes Channel.headBytes Channel.configBytes optPort at report
      rw [Channel.phaseBytes_eq, Channel.elapsedBytes_eq, s.channelNaming_eq h] at report
      simp only [List.append_assoc, List.cons_append, List.nil_append] at report ⊢
      exact report
    · rw [dif_neg h]
      exact State.request_refused ready 1 _ (State.withChannel_of_not_channel h)

end Sys2Proof.Machine
end

section
/-! The rules of a channel's requests: the operands of CONFIGURE_CHANNEL, the checks that a request with a channel number
begins with, and the request that replaces one channel, with the end of subscriptions and without (R135 to R141, R159). -/

namespace Sys2Proof.Machine

/-! ## The operands of CONFIGURE_CHANNEL (R138, R187) -/

theorem modeOf_spec {b : Byte} {m : Mode} (h : modeOf b = some m) : b.toNat ≤ 3 ∧ byteOf m.code = b := by
  have code : b.toNat = m.code := by
    unfold modeOf at h
    split at h
    next e => cases h; exact e
    next e => cases h; exact e
    next e => cases h; exact e
    next e => cases h; exact e
    · cases h
  refine ⟨?_, by rw [← code, byteOf_toNat]⟩
  rw [code]
  cases m <;> decide

theorem modeOf_none {b : Byte} (h : modeOf b = none) : ¬ b.toNat ≤ 3 := by
  intro le
  obtain rfl | rfl | rfl | rfl : b = 0 ∨ b = 1 ∨ b = 2 ∨ b = 3 := by bv_omega
  all_goals cases h

theorem edgeOf_spec {b : Byte} {e : EdgeSelect} (h : edgeOf b = some e) : b.toNat ≤ 2 ∧ byteOf e.code = b := by
  have code : b.toNat = e.code := by
    unfold edgeOf at h
    split at h
    next k => cases h; exact k
    next k => cases h; exact k
    next k => cases h; exact k
    · cases h
  refine ⟨?_, by rw [← code, byteOf_toNat]⟩
  rw [code]
  cases e <;> decide

theorem edgeOf_none {b : Byte} (h : edgeOf b = none) : ¬ b.toNat ≤ 2 := by
  intro le
  obtain rfl | rfl | rfl : b = 0 ∨ b = 1 ∨ b = 2 := by bv_omega
  all_goals cases h

theorem channelOf_of_lt {b : Byte} (h : b.toNat < 8) : channelOf b = some ⟨b.toNat, h⟩ := dif_pos h

theorem channelOf_of_not_lt {b : Byte} (h : ¬ b.toNat < 8) : channelOf b = none := dif_neg h

theorem countSourceOf_spec {c : ChanNo} {b : Byte} {src : CountSource} (h : countSourceOf c b = some src) :
    (b = 0x0F ∨ b.toNat < c.val) ∧ byteOf src.code = b := by
  unfold countSourceOf at h
  split at h
  next own => cases h; exact ⟨.inl own, own.symm⟩
  · by_cases number : b.toNat < 8
    · rw [channelOf_of_lt number] at h
      dsimp only at h
      split at h
      next below => cases h; exact ⟨.inr below, byteOf_toNat b⟩
      · cases h
    · rw [channelOf_of_not_lt number] at h
      cases h

theorem countSourceOf_none {c : ChanNo} {b : Byte} (h : countSourceOf c b = none) :
    ¬ (b = 0x0F ∨ b.toNat < c.val) := by
  unfold countSourceOf at h
  rintro (own | below)
  · rw [if_pos own] at h
    cases h
  · split at h
    · cases h
    · rw [channelOf_of_lt (below.trans c.isLt)] at h
      exact absurd h (by dsimp only; rw [if_pos below]; nofun)

theorem channelConfigOf_none {n m e src l : Byte} (h : channelConfigOf n m e src l = none) :
    ¬ (n.toNat < 8 ∧ m.toNat ≤ 3 ∧ e.toNat ≤ 2 ∧ (src = 0x0F ∨ src.toNat < n.toNat) ∧ 1 ≤ l.toNat ∧ l.toNat ≤ 7) := by
  rintro ⟨number, hm, he, hs, hl⟩
  obtain ⟨mode, hm⟩ := Option.ne_none_iff_exists'.1 fun none => modeOf_none none hm
  obtain ⟨edge, he⟩ := Option.ne_none_iff_exists'.1 fun none => edgeOf_none none he
  obtain ⟨source, hs⟩ :=
    Option.ne_none_iff_exists'.1 fun none => countSourceOf_none (c := ⟨n.toNat, number⟩) none hs
  unfold channelConfigOf at h
  simp [channelOf_of_lt number, hm, he, hs, levelOf_eq, hl] at h

/-- The channel number and the configuration that the operands of CONFIGURE_CHANNEL spell (R138, R187). -/
structure ConfigSpells (n m e src l : Byte) (k : ChannelConfig) : Prop where
  inRange :
    n.toNat < 8 ∧ m.toNat ≤ 3 ∧ e.toNat ≤ 2 ∧ (src = 0x0F ∨ src.toNat < n.toNat) ∧ 1 ≤ l.toNat ∧ l.toNat ≤ 7
  channel : k.channel.val = n.toNat
  mode : byteOf k.mode.code = m
  edge : byteOf k.edge.code = e
  source : byteOf k.source.code = src
  level : k.level = l.toNat

theorem channelConfigOf_spells {n m e src l : Byte} {k : ChannelConfig} (h : channelConfigOf n m e src l = some k) :
    ConfigSpells n m e src l k := by
  unfold channelConfigOf at h
  simp only [Option.bind_eq_bind, Option.bind_eq_some_iff, Option.pure_def] at h
  obtain ⟨c, hc, mode, hm, edge, he, source, hs, level, hl, made⟩ := h
  cases made
  by_cases number : n.toNat < 8
  · rw [channelOf_of_lt number] at hc
    cases hc
    rw [levelOf_eq] at hl
    split at hl
    next within =>
      cases hl
      obtain ⟨modeRange, modeCode⟩ := modeOf_spec hm
      obtain ⟨edgeRange, edgeCode⟩ := edgeOf_spec he
      obtain ⟨sourceRange, sourceCode⟩ := countSourceOf_spec hs
      exact ⟨⟨number, modeRange, edgeRange, sourceRange, within⟩, rfl, modeCode, edgeCode, sourceCode, rfl⟩
    · cases hl
  · rw [channelOf_of_not_lt number] at hc
    cases hc

/-- A count source that the requester may not name is a channel of another owner, or of none, that is not shareable (R138). -/
theorem State.sourceAllowed_eq_false {s : State} {p : Port} {x : CountSource} {b : Byte} (code : byteOf x.code = b) :
    s.sourceAllowed p x = false ↔
      ∃ d : ChanNo, d.val = b.toNat ∧ (s.channel d).owner ≠ some p ∧ (s.channel d).shareable = false := by
  subst code
  cases x with
  | ownPin => exact ⟨nofun, fun ⟨d, hd, _⟩ => absurd (hd ▸ d.isLt) (by decide)⟩
  | channel c =>
    have number : (byteOf c.val).toNat = c.val := Nat.mod_eq_of_lt (by omega)
    show (_ || _) = false ↔ _
    rw [Bool.or_eq_false_iff, decide_eq_false_iff_not]
    constructor
    · exact fun h => ⟨c, number.symm, h⟩
    · rintro ⟨d, hd, h⟩
      rwa [← Fin.ext (hd.trans number)]

/-! ## A channel number, and the owner of the channel (R135 to R141) -/

theorem State.withOwnChannel_of_channel {s : State} {p : Port} {n : Byte} {go : ChanNo → State × Option Response}
    (h : n.toNat < 8) :
    s.withOwnChannel p n go =
      if (s.channel ⟨n.toNat, h⟩).owner = some p then go ⟨n.toNat, h⟩ else s.refuse .notOwner :=
  State.withChannel_of_channel h

/-- A request that a channel's owner alone may make. -/
theorem State.request_ofOwner {s : State} {p : Port} (ready : Ready s p) {n : Nat}
    {block : State → State × Option Response} {c : ChanNo} {taken : State × Option Response} {P : Prop}
    (hb : block (s.shiftOut p ((s.port p).requestMiso (n + 3))) = if (s.channel c).owner = some p then taken
      else (s.shiftOut p ((s.port p).requestMiso (n + 3))).refuse .notOwner)
    (owned : (s.channel c).owner = some p → block (s.shiftOut p ((s.port p).requestMiso (n + 3))) = taken → P) :
    if (s.channel c).owner ≠ some p then Refused p n .notOwner s (s.request p n block) else P := by
  by_cases own : (s.channel c).owner = some p
  · rw [if_neg (not_not.2 own)]
    exact owned own (hb.trans (if_pos own))
  · rw [if_pos own]
    exact State.request_refused ready n _ (hb.trans (if_neg own))

/-! ## A request that replaces one channel -/

/-- A request answered OK that replaces one channel and changes nothing else but its port's slot. -/
theorem State.request_setsChannel {s : State} {p : Port} (ready : Ready s p) {n : Nat}
    {block : State → State × Option Response} {c : ChanNo} {x : Channel} {fields : List Byte}
    (hb : block (s.shiftOut p ((s.port p).requestMiso (n + 3))) =
      ((s.shiftOut p ((s.port p).requestMiso (n + 3))).setChannel c x).answer .ok fields) :
    OnlyChanges [.channels, .ports] s (s.request p n block) ∧ ChannelBecomes c x s (s.request p n block) ∧
      Replied p n { status := .ok, fields := fields } s (s.request p n block) := by
  obtain ⟨changes, replied⟩ := State.request_replied ready n hb (State.setChannel_only ..)
  refine ⟨changes.mono (by decide), ?_, replied⟩
  rw [State.request_answered ready n hb]
  exact .setChannel (s.shiftOut p _) c x

/-- A request answered OK that replaces one channel and ends the subscriptions that satisfy a test: the SUB_ENDED records
reach the requester's port too (R136, R137, R159). -/
theorem State.request_setsChannelEndingSubs {s : State} {p : Port} (ready : Ready s p) {n : Nat}
    {block : State → State × Option Response} {c : ChanNo} {x : Channel} {test : Subscription → Bool} {fields : List Byte}
    (hb : block (s.shiftOut p ((s.port p).requestMiso (n + 3))) =
      (((s.shiftOut p ((s.port p).requestMiso (n + 3))).setChannel c x).endSubs test).answer .ok fields) :
    let t := s.request p n block
    OnlyChanges [.channels, .subs, .ports] s t ∧ ChannelBecomes c x s t ∧ SubsEnd test s t ∧
      ∀ q, t.port q = (if q = p then (s.port p).replied n { status := .ok, fields := fields } else s.port q).storesIf
        (s.attached q) (s.endedRecords test s.stamp q) := by
  set v := s.shiftOut p ((s.port p).requestMiso (n + 3)) with hv
  obtain ⟨here, others⟩ := ChannelBecomes.setChannel v c x
  have ended := (v.setChannel c x).endSubs_only test
  have only := State.request_answered_only ready n hb
    (((v.setChannel_only c x).mono (by decide)).trans (ended.mono (by decide)) : OnlyChanges [.channels, .subs, .ports] v _)
  have ports : ∀ q, ((v.setChannel c x).endSubs test).port q =
      (v.port q).storesIf (s.attached q) (s.endedRecords test s.stamp q) := fun q => by
    rw [State.port_endSubs, (v.setChannel_only c x).attached, (v.setChannel_only c x).port, hv, State.attached_shiftOut]
    rfl
  rw [State.request_answered ready n hb] at only ⊢
  intro t
  refine ⟨only.mono (by decide), ⟨(ended.channel c).trans here, fun d hd => (ended.channel d).trans (others d hd)⟩,
    (v.setChannel c x).sub_endSubs test, fun q => ?_⟩
  exact State.port_request (F := fun q u => u.storesIf (s.attached q) (s.endedRecords test s.stamp q)) ports
    (fun u y => PortUnit.storesIf_slot ..) _ q

theorem State.setChannel_channel (s : State) (c : ChanNo) : s.setChannel c (s.channel c) = s := by
  unfold State.setChannel State.channel
  rw [Vector.get_eq_getElem, Vector.set_getElem_self]

end Sys2Proof.Machine
end

section
/-! CLAIM_CHANNEL and RELEASE_CHANNEL (R135, R136, R159). -/

namespace Sys2Proof.Machine

/-- The fields of CLAIM_CHANNEL for a channel that has an owner (R193). -/
theorem Channel.headBytes_of_owner {x : Channel} {p : Port} (own : x.owner = some p) :
    x.headBytes = [1, byteOf p.val, flagByte x.shareable, byteOf x.mode.code, byteOf x.edge.code,
      byteOf x.source.code, byteOf x.level] ++ bytesBE 2 x.reload ++ bytesBE 2 x.counter ++ [flagByte x.running] := by
  unfold Channel.headBytes Channel.configBytes
  rw [own, optPort_eq]
  simp only [List.cons_append, List.nil_append]

theorem blockClaimChannel_of_channel {s : State} {p : Port} {n : Byte} (h : n.toNat < 8) :
    blockClaimChannel p n s =
      let x := s.channel ⟨n.toNat, h⟩
      if x.owner = none then (s.setChannel ⟨n.toNat, h⟩ { x with owner := some p }).answer .ok
        (Channel.headBytes { x with owner := some p })
      else if x.owner = some p then s.answer .ok x.headBytes
      else s.refuse .owned := by
  refine (State.withChannel_of_channel h).trans ?_
  dsimp only
  cases owner : (s.channel ⟨n.toNat, h⟩).owner with
  | none =>
    rw [if_pos rfl]
    unfold State.ownChannel
    rw [State.channel_setChannel_same]
  | some q => simp only [reduceCtorEq, if_false, Option.some.injEq]

/-- A channel given up takes the subscriptions to it with it, and no others (R136, R159). -/
theorem State.releaseChannel_eq {s : State} {c : ChanNo} {p : Port} (own : (s.channel c).owner = some p) :
    s.releaseChannel c = (s.setChannel c (s.channel c).released).endSubs fun u => decide (u.source = .channel c) := by
  obtain ⟨-, others⟩ := ChannelBecomes.setChannel s c (s.channel c).released
  have gone : ∀ src, (s.setChannel c (s.channel c).released).sourceGone s src = decide (src = .channel c) := fun src => by
    cases src with
    | channel d =>
      by_cases same : d = c
      · subst same
        simp [State.sourceGone, own, State.channel_setChannel_same, Channel.released]
      · cases owner : (s.channel d).owner <;> simp [State.sourceGone, others d same, owner, same]
    | entry i inst =>
      have stands : (s.setChannel c (s.channel c).released).entry i = s.entry i := rfl
      cases body : (s.entry i).body <;> simp [State.sourceGone, stands, body]
  unfold State.releaseChannel State.endGone
  simp only [gone]

theorem blockReleaseChannel_of_channel {s : State} {p : Port} {n : Byte} (h : n.toNat < 8) :
    blockReleaseChannel p n s =
      if (s.channel ⟨n.toNat, h⟩).owner = some p then
        if s.channelNaming ⟨n.toNat, h⟩ ≠ 0 then s.refuse .inUse else (s.releaseChannel ⟨n.toNat, h⟩).answer .ok []
      else s.refuse .notOwner := State.withOwnChannel_of_channel h

/-- Settles O44, each request in the order of its rule. -/
theorem channelsClaimedAndReleased : Obligations.ChannelsClaimedAndReleased := by
  intro p n s ready
  by_cases h : n.toNat < 8
  · simp only [dif_pos h]
    refine ⟨⟨_, rfl, ?_⟩, ⟨_, rfl, ?_⟩⟩
    · have block := blockClaimChannel_of_channel (s := s.shiftOut p ((s.port p).requestMiso (1 + 3))) (p := p) h
      by_cases free : (s.channel ⟨n.toNat, h⟩).owner = none
      · rw [if_pos free]
        rw [← Channel.headBytes_of_owner (x := { s.channel ⟨n.toNat, h⟩ with owner := some p }) rfl]
        exact State.request_setsChannel ready (block.trans (if_pos free))
      · rw [if_neg free]
        replace block := block.trans (if_neg free)
        by_cases own : (s.channel ⟨n.toNat, h⟩).owner = some p
        · rw [if_pos own, ← Channel.headBytes_of_owner own]
          exact State.request_reported ready 1 _ (block.trans (if_pos own))
        · rw [if_neg own]
          exact State.request_refused ready 1 _ (block.trans (if_neg own))
    · refine State.request_ofOwner ready (blockReleaseChannel_of_channel h) fun own block => ?_
      by_cases named : ∃ i, (s.entry i).body.any (Body.namesChannel ⟨n.toNat, h⟩) = true
      · rw [if_pos named]
        exact State.request_refused ready 1 _ (block.trans (if_pos (State.countEntries_ne_zero.2 named)))
      · rw [if_neg named]
        replace block := block.trans (if_neg fun count => named (State.countEntries_ne_zero.1 count))
        rw [State.releaseChannel_eq (s := s.shiftOut p _) own] at block
        exact State.request_setsChannelEndingSubs ready block
  · simp only [dif_neg h]
    exact ⟨⟨_, rfl, State.request_refused ready 1 _ (State.withChannel_of_not_channel h)⟩,
      ⟨_, rfl, State.request_refused ready 1 _ (State.withChannel_of_not_channel h)⟩⟩

end Sys2Proof.Machine
end

section
/-! SHARE_CHANNEL, CONFIGURE_CHANNEL, START_CHANNEL, STOP_CHANNEL and SET_RELOAD (R137 to R141). -/

namespace Sys2Proof.Machine

/-! ## SHARE_CHANNEL (R137) -/

theorem blockShareChannel_badArg {s : State} {p : Port} {n v : Byte} (h : ¬ (n.toNat < 8 ∧ v.toNat ≤ 1)) :
    blockShareChannel p n v s = s.refuse .badArg := by
  unfold blockShareChannel
  by_cases number : n.toNat < 8
  · rw [channelOf_of_lt number, flagOf_eq, if_neg fun flag => h ⟨number, flag⟩]
  · rw [channelOf_of_not_lt number]

theorem blockShareChannel_of_channel {s : State} {p : Port} {n v : Byte} (h : n.toNat < 8) (flag : v.toNat ≤ 1) :
    blockShareChannel p n v s =
      if (s.channel ⟨n.toNat, h⟩).owner = some p then
        (s.shareChannel p ⟨n.toNat, h⟩ (decide (v = 1))).answer .ok [flagByte (decide (v = 1))]
      else s.refuse .notOwner := by
  unfold blockShareChannel
  rw [channelOf_of_lt h, flagOf_eq, if_pos flag]
  exact State.withOwnChannel_of_channel h

/-- The flag is set or cleared, and the other ports' subscriptions end where it was set and is cleared (R137). -/
theorem State.shareChannel_eq (s : State) (p : Port) (c : ChanNo) (share : Bool) :
    s.shareChannel p c share = (s.setChannel c { s.channel c with shareable := share }).endSubs fun u =>
      decide (share = false ∧ (s.channel c).shareable = true ∧ u.source = .channel c ∧ u.subscriber ≠ p) := by
  unfold State.shareChannel
  cases share with
  | true => exact (State.endSubs_none fun _ _ _ => decide_eq_false fun h => nomatch h.1).symm
  | false =>
    cases shared : (s.channel c).shareable with
    | true => simp
    | false =>
      have stays : { s.channel c with shareable := false } = s.channel c := by rw [← shared]
      rw [stays, State.setChannel_channel, State.endSubs_none fun _ _ _ => decide_eq_false fun h => nomatch h.2.1]
      rfl

/-! ## CONFIGURE_CHANNEL (R138) -/

theorem blockConfigureChannel_badArg {p : Port} {n m e src l : Byte} (h : channelConfigOf n m e src l = none) (s : State) :
    blockConfigureChannel p n m e src l s = s.refuse .badArg := by
  unfold blockConfigureChannel
  rw [h]

theorem blockConfigureChannel_of_config {p : Port} {n m e src l : Byte} {k : ChannelConfig}
    (h : channelConfigOf n m e src l = some k) (s : State) :
    blockConfigureChannel p n m e src l s =
      if (s.channel k.channel).owner = some p then
        if (s.channel k.channel).running = true then s.refuse .notStopped
        else if s.sourceAllowed p k.source = false then s.refuse .notOwner
        else (s.setChannel k.channel ((s.channel k.channel).configured k)).answer .ok
          ((s.channel k.channel).configured k).configBytes
      else s.refuse .notOwner := by
  unfold blockConfigureChannel
  rw [h]
  exact ite_not ..

theorem ConfigSpells.configBytes {n m e src l : Byte} {k : ChannelConfig} (h : ConfigSpells n m e src l k) (x : Channel) :
    (x.configured k).configBytes = [m, e, src, l] := by
  unfold Channel.configBytes Channel.configured
  dsimp only
  rw [h.mode, h.edge, h.source, h.level, byteOf_toNat]

/-! ## START_CHANNEL, STOP_CHANNEL and SET_RELOAD (R139 to R141) -/

theorem Channel.started_eq (x : Channel) :
    x.started = { x with running := true, measuring := if x.running = true then x.measuring else none } := by
  unfold Channel.started
  cases on : x.running with
  | true => rw [if_pos rfl, if_pos rfl, ← on]
  | false => rfl

theorem blockStartChannel_of_channel {s : State} {p : Port} {n : Byte} (h : n.toNat < 8) :
    blockStartChannel p n s =
      let x := (s.channel ⟨n.toNat, h⟩).started
      if (s.channel ⟨n.toNat, h⟩).owner = some p then
        (s.setChannel ⟨n.toNat, h⟩ x).answer .ok
          ([flagByte x.running] ++ x.phaseBytes ++ bytesBE 2 x.counter ++ s.stamp.bytes)
      else s.refuse .notOwner := State.withOwnChannel_of_channel h

theorem blockStopChannel_of_channel {s : State} {p : Port} {n : Byte} (h : n.toNat < 8) :
    blockStopChannel p n s =
      let x := (s.channel ⟨n.toNat, h⟩).stopped
      if (s.channel ⟨n.toNat, h⟩).owner = some p then
        (s.setChannel ⟨n.toNat, h⟩ x).answer .ok ([flagByte x.running] ++ bytesBE 2 x.counter ++ s.stamp.bytes)
      else s.refuse .notOwner := State.withOwnChannel_of_channel h

theorem blockSetReload_badArg {s : State} {p : Port} {n : Byte} {reload : BitVec 16}
    (h : ¬ (n.toNat < 8 ∧ reload ≠ 0)) : blockSetReload p n reload s = s.refuse .badArg := by
  unfold blockSetReload
  by_cases zero : reload = 0
  · exact if_pos zero
  · rw [if_neg zero]
    exact State.withChannel_of_not_channel fun number => h ⟨number, zero⟩

theorem blockSetReload_of_channel {s : State} {p : Port} {n : Byte} {reload : BitVec 16} (h : n.toNat < 8)
    (nonzero : reload ≠ 0) :
    blockSetReload p n reload s =
      let x := (s.channel ⟨n.toNat, h⟩).reloaded reload.toNat
      if (s.channel ⟨n.toNat, h⟩).owner = some p then
        (s.setChannel ⟨n.toNat, h⟩ x).answer .ok (bytesBE 2 x.reload ++ bytesBE 2 x.counter)
      else s.refuse .notOwner := (if_neg nonzero).trans (State.withOwnChannel_of_channel h)

section Requests

variable {p : Port} {n : Byte} {s : State} (ready : Ready s p)
include ready

/-- The first part of O45. -/
theorem execShareChannel_shares (v : Byte) :
    ∃ t, exec (.shareChannel p n v) s = .next t ∧
      if h : n.toNat < 8 ∧ v.toNat ≤ 1 then
        let c : ChanNo := ⟨n.toNat, h.1⟩
        let ends := fun u : Subscription =>
          decide (v = 0 ∧ (s.channel c).shareable = true ∧ u.source = .channel c ∧ u.subscriber ≠ p)
        if (s.channel c).owner ≠ some p then Refused p 2 .notOwner s t
        else OnlyChanges [.channels, .subs, .ports] s t ∧
          ChannelBecomes c { s.channel c with shareable := decide (v = 1) } s t ∧ SubsEnd ends s t ∧
          ∀ q, t.port q = (if q = p then (s.port p).replied 2 { status := .ok, fields := [v] } else s.port q).storesIf
            (s.attached q) (s.endedRecords ends s.stamp q)
      else Refused p 2 .badArg s t := by
  refine ⟨_, rfl, ?_⟩
  by_cases h : n.toNat < 8 ∧ v.toNat ≤ 1
  · rw [dif_pos h]
    obtain ⟨number, flag⟩ := h
    refine State.request_ofOwner ready (blockShareChannel_of_channel number flag) fun own block => ?_
    have cleared : v = 0 ↔ decide (v = 1) = false := by
      obtain rfl | rfl := Byte.toNat_le_one.1 flag <;> decide
    have byte : flagByte (decide (v = 1)) = v := by
      obtain rfl | rfl := Byte.toNat_le_one.1 flag <;> rfl
    rw [State.shareChannel_eq, byte] at block
    simp only [cleared]
    exact State.request_setsChannelEndingSubs ready block
  · rw [dif_neg h]
    exact State.request_refused ready 2 _ (blockShareChannel_badArg h)

/-- The second part of O45. -/
theorem execConfigureChannel_configures (m e src l : Byte) :
    ∃ t, exec (.configureChannel p n m e src l) s = .next t ∧
      if h : n.toNat < 8 ∧ m.toNat ≤ 3 ∧ e.toNat ≤ 2 ∧ (src = 0x0F ∨ src.toNat < n.toNat) ∧
          1 ≤ l.toNat ∧ l.toNat ≤ 7 then
        let c : ChanNo := ⟨n.toNat, h.1⟩
        if (s.channel c).owner ≠ some p then Refused p 5 .notOwner s t
        else if (s.channel c).running = true then Refused p 5 .notStopped s t
        else if ∃ d : ChanNo, d.val = src.toNat ∧ (s.channel d).owner ≠ some p ∧ (s.channel d).shareable = false then
          Refused p 5 .notOwner s t
        else OnlyChanges [.channels, .ports] s t ∧
          (let x := t.channel c
          ChannelBecomes c { s.channel c with
              mode := x.mode, edge := x.edge, source := x.source, level := l.toNat } s t ∧
            byteOf x.mode.code = m ∧ byteOf x.edge.code = e ∧ byteOf x.source.code = src) ∧
          Replied p 5 { status := .ok, fields := [m, e, src, l] } s t
      else Refused p 5 .badArg s t := by
  refine ⟨_, rfl, ?_⟩
  cases config : channelConfigOf n m e src l with
  | none =>
    rw [dif_neg (channelConfigOf_none config)]
    exact State.request_refused ready 5 _ (blockConfigureChannel_badArg config _)
  | some k =>
    have spells := channelConfigOf_spells config
    have number : k.channel = ⟨n.toNat, spells.inRange.1⟩ := Fin.ext spells.channel
    have block := blockConfigureChannel_of_config (p := p) config (s.shiftOut p ((s.port p).requestMiso (5 + 3)))
    rw [number] at block
    rw [dif_pos spells.inRange]
    refine State.request_ofOwner ready block fun own block => ?_
    by_cases on : (s.channel ⟨n.toNat, spells.inRange.1⟩).running = true
    · rw [if_pos on]
      exact State.request_refused ready 5 _ (block.trans (if_pos on))
    rw [if_neg on]
    replace block := block.trans (if_neg on)
    have allowed := State.sourceAllowed_eq_false (s := s) (p := p) spells.source
    by_cases foreign : s.sourceAllowed p k.source = false
    · rw [if_pos (allowed.1 foreign)]
      exact State.request_refused ready 5 _ (block.trans (if_pos foreign))
    rw [if_neg (mt allowed.2 foreign)]
    replace block := block.trans (if_neg foreign)
    rw [spells.configBytes] at block
    obtain ⟨only, ⟨here, others⟩, replied⟩ := State.request_setsChannel ready block
    refine ⟨only, ⟨⟨?_, others⟩, ?_⟩, replied⟩
    · rw [here, Channel.configured, spells.level]
      rfl
    · rw [here]
      exact ⟨spells.mode, spells.edge, spells.source⟩

/-- The third part of O45. -/
theorem execStartChannel_starts :
    ∃ t, exec (.startChannel p n) s = .next t ∧
      if h : n.toNat < 8 then
        let x := s.channel ⟨n.toNat, h⟩
        let y : Channel := { x with running := true, measuring := if x.running = true then x.measuring else none }
        if x.owner ≠ some p then Refused p 1 .notOwner s t
        else OnlyChanges [.channels, .ports] s t ∧ ChannelBecomes ⟨n.toNat, h⟩ y s t ∧
          Replied p 1 { status := .ok, fields := ([1] ++
            (if x.mode = .period ∨ x.mode = .width then [1, flagByte y.measuring.isSome] else [0, 0]) ++
            bytesBE 2 x.counter ++ s.stamp.bytes) } s t
      else Refused p 1 .badArg s t := by
  refine ⟨_, rfl, ?_⟩
  by_cases h : n.toNat < 8
  · rw [dif_pos h]
    refine State.request_ofOwner ready (blockStartChannel_of_channel h) fun own block => ?_
    rw [Channel.started_eq, Channel.phaseBytes_eq] at block
    exact State.request_setsChannel ready block
  · rw [dif_neg h]
    exact State.request_refused ready 1 _ (State.withChannel_of_not_channel h)

end Requests

/-- Settles O45, each request in the order of its rule. -/
theorem channelsSharedConfiguredStarted : Obligations.ChannelsSharedConfiguredStarted := by
  intro p n v reload s ready
  refine ⟨execShareChannel_shares ready v, execConfigureChannel_configures ready, execStartChannel_starts ready,
    ⟨_, rfl, ?_⟩, ⟨_, rfl, ?_⟩⟩
  · by_cases h : n.toNat < 8
    · rw [dif_pos h]
      exact State.request_ofOwner ready (blockStopChannel_of_channel h) fun _ => State.request_setsChannel ready
    · rw [dif_neg h]
      exact State.request_refused ready 1 _ (State.withChannel_of_not_channel h)
  · by_cases h : n.toNat < 8 ∧ reload ≠ 0
    · rw [dif_pos h]
      exact State.request_ofOwner ready (blockSetReload_of_channel h.1 h.2) fun _ => State.request_setsChannel ready
    · rw [dif_neg h]
      exact State.request_refused ready 3 _ (blockSetReload_badArg h)

end Sys2Proof.Machine
end

section
/-! What a capture channel does with an event where nothing acts on its records: it becomes another, and the record, if there
is one, goes to its owner and its subscribers (R142 to R147). -/

namespace Sys2Proof.Machine

/-! ## A record that nothing acts on (R142) -/

theorem State.actedOn_nil {s : State} {c : ChanNo} (h : ∀ i b, (s.entry i).body = some b → b.namesChannel c = false)
    (k : RecordKind) : s.actedOn c k = [] :=
  List.eq_nil_iff_forall_not_mem.2 fun i mem => by
    obtain ⟨b, hb, takes⟩ := State.mem_actedOn.1 mem
    exact absurd (Body.takesRecord_namesChannel takes) (by rw [h i b hb]; decide)

/-- The end of an event that has freed no entry changes nothing (R159). -/
theorem FreedEnd.unfreed {s t u : State} (h : FreedEnd s t u) (kept : ∀ i, t.entry i = s.entry i) :
    OnlyChanges [] t u := by
  obtain ⟨only, ended, records⟩ := h
  have freed : ∀ x, s.freedUntil t x = false := fun x => by
    unfold State.freedUntil
    cases x.source with
    | channel c => rfl
    | entry i inst => cases body : (s.entry i).body <;> simp [kept, body]
  refine ⟨fun part _ => ?_⟩
  cases part
  case subs =>
    refine Vector.ext fun j hj => (ended ⟨j, hj⟩).trans ?_
    simp only [freed]
    show _ = t.sub ⟨j, hj⟩
    cases t.sub ⟨j, hj⟩ <;> rfl
  case ports =>
    refine Vector.ext fun q hq => (records ⟨q, hq⟩).trans ?_
    rw [State.endedRecords_none _ freed, PortUnit.storesIf_nil]
    rfl
  all_goals exact only.keeps _ (by decide)

/-- What a channel shows to those that receive its records, and whose records it counts, is the same in two of its values. -/
structure SameOutlet (x y : Channel) : Prop where
  owner : y.owner = x.owner
  level : y.level = x.level
  source : y.source = x.source

theorem Unheard.becomes {c : ChanNo} {x : Channel} {s u : State} (h : Unheard c s)
    (same : SameOutlet (s.channel c) x) (only : OnlyChanges [.channels] s u) (becomes : ChannelBecomes c x s u) :
    Unheard c u := by
  obtain ⟨unnamed, uncounted⟩ := h
  obtain ⟨here, others⟩ := becomes
  refine ⟨fun i b hb => unnamed i b (by rwa [only.entry] at hb), fun d => ?_⟩
  by_cases own : d = c
  · rw [own, here, same.source]
    exact uncounted c
  · rw [others d own]
    exact uncounted d

/-- A record that nothing acts on goes to its owner and its subscribers, and that is all (R142). -/
theorem HandedOn.unheard {depth : Nat} {c : ChanNo} {k : RecordKind} {value : Nat} {s t : State}
    (h : HandedOn (depth + 1) c k value s t) (unheard : Unheard c s) :
    OnlyChanges [.ports] s t ∧
      ∀ q, t.port q = (s.port q).storesIf (s.attached q) (s.captureCopies c k value q) := by
  obtain ⟨u, v, only, ports, arms, counts⟩ := h
  rw [State.actedOn_nil unheard.1] at arms
  rw [State.counters_nil unheard.2] at counts
  cases (show v = u from arms)
  cases (show t = u from counts)
  exact ⟨only, ports⟩

theorem Produces.records {c : ChanNo} {x : Channel} {k : RecordKind} {value : Nat} {s t : State}
    (h : Produces c x k value s t) (unheard : Unheard c s) (same : SameOutlet (s.channel c) x) :
    ChannelRecords c x k value s t := by
  obtain ⟨u, v, only, becomes, handed, ended⟩ := h
  obtain ⟨delivered, ports⟩ := handed.unheard (unheard.becomes same only becomes)
  have last := ended.unfreed delivered.entry
  obtain ⟨here, others⟩ := becomes
  have told : OnlyChanges [.ports] u t := delivered.trans (last.mono (by decide))
  refine ⟨(only.mono (by decide)).trans (told.mono (by decide)),
    ⟨(told.channel c).trans here, fun d hd => (told.channel d).trans (others d hd)⟩, fun q => ?_⟩
  rw [last.port, ports, only.port, only.attached, State.captureCopies_congr (s := s) (t := u) (fun j => only.sub j)
    (by rw [here, same.owner]) (by rw [here, same.level]) only.stamp]

/-! ## The events that produce no record (R143 to R145, R147) -/

theorem ChannelOnly.setChannel (s : State) (c : ChanNo) (x : Channel) : ChannelOnly c x s (s.setChannel c x) :=
  ⟨s.setChannel_only c x, .setChannel s c x⟩

theorem State.actOnEdge_unselected {s : State} {c : ChanNo} {level : PinLevel} (mode : (s.channel c).mode ≠ .width)
    (passes : ¬ (s.channel c).edge.takes level = true) : s.actOnEdge c level = s := by
  unfold State.actOnEdge
  cases hm : (s.channel c).mode with
  | stamp => exact if_neg passes
  | period => exact if_neg passes
  | width => exact absurd hm mode
  | count => exact if_neg fun h => passes h.2

theorem State.actOnEdge_countsChannel {s : State} {c : ChanNo} (mode : (s.channel c).mode = .count)
    (source : (s.channel c).source ≠ .ownPin) (level : PinLevel) : s.actOnEdge c level = s := by
  unfold State.actOnEdge
  rw [mode]
  exact if_neg fun h => source h.1

/-- The first edge begins the measurement (R144, R145). -/
theorem State.measureEdge_first {s : State} {c : ChanNo} (h : (s.channel c).measuring = none) (k : RecordKind) :
    s.measureEdge c k = s.setChannel c { s.channel c with measuring := some 0 } := by
  unfold State.measureEdge
  rw [h]
  rfl

/-- A count event that leaves a counter above 0 lowers it (R147). -/
theorem State.countEvent_above {s : State} {c : ChanNo} (h : 1 < (s.channel c).counter) :
    s.countEvent c = s.setChannel c { s.channel c with counter := (s.channel c).counter - 1 } := by
  unfold State.countEvent
  rw [Channel.counted_above h]
  exact if_neg (Nat.not_le.2 h)

/-- An edge at a RUNNING channel that has become x, in each case in which it produces no record. -/
theorem actOnEdge_silent (s : State) (c : ChanNo) (x : Channel) (level : PinLevel) :
    let t := (s.setChannel c x).actOnEdge c level
    (x.mode ≠ .width → ¬ x.edge.takes level = true → ChannelOnly c x s t) ∧
    (x.measuring = none → x.mode = .period ∧ x.edge.takes level = true ∨ x.mode = .width →
      ChannelOnly c { x with measuring := some 0 } s t) ∧
    (x.mode = .count → x.source ≠ .ownPin → ChannelOnly c x s t) ∧
    (x.mode = .count → x.source = .ownPin → x.edge.takes level = true → 1 < x.counter →
      ChannelOnly c { x with counter := x.counter - 1 } s t) := by
  have here := s.channel_setChannel_same c x
  intro t
  refine ⟨fun mode passes => ?_, fun first takes => ?_, fun mode source => ?_, fun mode source takes above => ?_⟩
  · rw [show t = _ from State.actOnEdge_unselected (by rwa [here]) (by rwa [here])]
    exact .setChannel ..
  · have begins : ∃ k, t = (s.setChannel c x).measureEdge c k := by
      obtain ⟨mode, takes⟩ | mode := takes
      · exact ⟨_, State.actOnEdge_period (by rwa [here]) (by rwa [here])⟩
      · exact ⟨_, State.actOnEdge_width (by rwa [here]) level⟩
    obtain ⟨k, act⟩ := begins
    rw [act, State.measureEdge_first (by rwa [here]), here, State.setChannel_setChannel]
    exact .setChannel ..
  · rw [show t = _ from State.actOnEdge_countsChannel (by rwa [here]) (by rwa [here]) level]
    exact .setChannel ..
  · rw [show t = _ from State.actOnEdge_count (by rwa [here]) (by rwa [here]) (by rwa [here]),
      State.countEvent_above (by rwa [here]), here, State.setChannel_setChannel]
    exact .setChannel ..

end Sys2Proof.Machine
end

section
/-! EDGE_TAKEN, and the raw level that starts, keeps and abandons a qualification (R133; log 23). -/

namespace Sys2Proof.Machine

/-! ## The end of a qualification -/

theorem State.takeEdge_complete {s : State} {c : ChanNo} (h : (s.channel c).qualification = .complete) :
    s.takeEdge c = if (s.channel c).running = true
      then (s.setChannel c ((s.channel c).edged (s.pins.cap.get c))).actOnEdge c (s.pins.cap.get c)
      else s.setChannel c ((s.channel c).edged (s.pins.cap.get c)) := by
  unfold State.takeEdge
  rw [h]
  rfl

/-- No edge is taken before its qualification has completed (log 4). -/
theorem State.takeEdge_incomplete {s : State} {c : ChanNo} (h : (s.channel c).qualification ≠ .complete) :
    s.takeEdge c = s := by
  unfold State.takeEdge
  split
  next e => exact absurd e h
  · rfl
  · rfl

/-- Every channel's qualification is the same in two states. -/
structure SameQualifying (s t : State) : Prop where
  channel : ∀ d, (t.channel d).qualification = (s.channel d).qualification

namespace SameQualifying

theorem refl (s : State) : SameQualifying s s := ⟨fun _ => rfl⟩

theorem setChannel {s : State} {c : ChanNo} {x : Channel} (same : x.qualification = (s.channel c).qualification) :
    SameQualifying s (s.setChannel c x) := by
  refine ⟨fun d => ?_⟩
  rw [State.channel_setChannel]
  split
  next own => rw [own, same]
  · rfl

variable {s t : State}

theorem produce (h : SameQualifying s t) (c : ChanNo) (k : RecordKind) (value : Nat) :
    SameQualifying s (t.produce c k value) := by
  refine ⟨fun d => ?_⟩
  obtain ⟨n, setup⟩ := (State.handOn_sameSetup 8 t c k value).channel d
  unfold State.produce
  rw [(State.endGone_only ..).channel, setup]
  exact h.channel d

theorem measureEdge (s : State) (c : ChanNo) (k : RecordKind) : SameQualifying s (s.measureEdge c k) := by
  have begun : SameQualifying s (s.beginMeasure c) := .setChannel rfl
  unfold State.measureEdge
  split
  · exact begun
  · exact begun.produce ..

theorem countEvent (s : State) (c : ChanNo) : SameQualifying s (s.countEvent c) := by
  have counted : SameQualifying s (s.setChannel c (s.channel c).counted) := .setChannel rfl
  exact iteInduction (fun _ => counted.produce ..) fun _ => counted

/-- What a channel does with an edge leaves every qualification as it was. -/
theorem actOnEdge (s : State) (c : ChanNo) (level : PinLevel) : SameQualifying s (s.actOnEdge c level) := by
  unfold State.actOnEdge
  split
  · exact iteInduction (fun _ => (refl s).produce ..) fun _ => refl s
  · exact iteInduction (fun _ => measureEdge ..) fun _ => refl s
  · exact measureEdge ..
  · exact iteInduction (fun _ => countEvent ..) fun _ => refl s

end SameQualifying

/-- An edge is taken once: no qualification is left with it. -/
theorem State.takeEdge_twice (s : State) (c : ChanNo) : (s.takeEdge c).takeEdge c = s.takeEdge c := by
  by_cases complete : (s.channel c).qualification = .complete
  · refine State.takeEdge_incomplete ?_
    have taken : ((s.setChannel c ((s.channel c).edged (s.pins.cap.get c))).channel c).qualification = .none := by
      rw [State.channel_setChannel_same]
      rfl
    rw [State.takeEdge_complete complete]
    refine iteInduction (motive := fun t : State => (t.channel c).qualification ≠ .complete) (fun _ => ?_) fun _ => ?_
    · rw [(SameQualifying.actOnEdge ..).channel, taken]
      nofun
    · rw [taken]
      nofun
  · rw [State.takeEdge_incomplete complete, State.takeEdge_incomplete complete]

/-! ## A new raw level (R133; log 23) -/

theorem Qualification.against_eq (q : Qualification) (raw filtered : PinLevel) :
    q.against raw filtered = if raw = filtered then .none else if q = .none then .running else q := by
  unfold Qualification.against
  cases q <;> rfl

/-- A raw level that finds no edge to take changes the pin and its channel's qualification. -/
theorem State.filterRaw_untaken {s : State} {c : ChanNo} {level : PinLevel}
    (h : (s.channel c).qualification ≠ .complete ∨ s.pins.cap.get c = level) :
    s.filterRaw c level = (s.setRaw c level).setChannel c { s.channel c with
      qualification := (s.channel c).qualification.against level (s.channel c).filtered } := by
  have untaken : (if s.rawLevel c = level then s else s.takeEdge c) = s :=
    ite_eq_left_iff.2 fun moves => State.takeEdge_incomplete (h.resolve_right moves)
  unfold State.filterRaw
  rw [untaken]

/-- A raw level that changes while an edge is still to be taken has it taken first. -/
theorem State.filterRaw_taken {s : State} {c : ChanNo} {level : PinLevel} (h : s.pins.cap.get c ≠ level) :
    (s.takeEdge c).filterRaw c level = s.filterRaw c level := by
  have moves : ¬ s.rawLevel c = level := h
  have stillMoves : ¬ (s.takeEdge c).rawLevel c = level := by
    unfold State.rawLevel
    rwa [(s.takeEdge_only c).pins]
  unfold State.filterRaw
  rw [if_neg moves, if_neg stillMoves, State.takeEdge_twice]

theorem State.pins_filterRaw (s : State) (c : ChanNo) (level : PinLevel) :
    (s.filterRaw c level).pins = { s.pins with cap := s.pins.cap.set c.val level c.isLt } := by
  have pins : (if s.rawLevel c = level then s else s.takeEdge c).pins = s.pins :=
    iteInduction (motive := fun t => State.pins t = s.pins) (fun _ => rfl) fun _ => (s.takeEdge_only c).pins
  unfold State.filterRaw
  dsimp only
  rw [State.setChannel_pins, State.setRaw_pins, pins]

end Sys2Proof.Machine
end

section
/-! O46: the events of a channel by its mode and its count source (R133, R143 to R148; logs 14, 23). -/

namespace Sys2Proof.Machine

section Running

variable {c : ChanNo} {s : State} (running : s.running = true)
include running

theorem execCapturePinChange_running (level : PinLevel) :
    exec (.capturePinChange c level) s = .next (s.filterRaw c level) := congrArg _ (if_pos running)

theorem execEdgeTaken_running : exec (.edgeTaken c) s = .next (s.takeEdge c) := congrArg _ (if_pos running)

/-- The first part of O46. -/
theorem execCapturePinChange_filters (level : PinLevel) :
    let old := s.channel c
    ∃ t, exec (.capturePinChange c level) s = .next t ∧
      t.pins = { s.pins with cap := s.pins.cap.set c.val level c.isLt } ∧
      (old.qualification ≠ .complete ∨ s.pins.cap.get c = level →
        OnlyChanges [.pins, .channels] s t ∧ ChannelBecomes c { old with
          qualification := if level = old.filtered then .none
            else if old.qualification = .none then .running else old.qualification } s t) ∧
      (old.qualification = .complete → s.pins.cap.get c ≠ level →
        ∃ u, exec (.edgeTaken c) s = .next u ∧ exec (.capturePinChange c level) u = .next t) := by
  refine ⟨_, execCapturePinChange_running running level, s.pins_filterRaw c level, fun untaken => ?_, fun _ moves => ?_⟩
  · rw [State.filterRaw_untaken untaken, Qualification.against_eq]
    have raw : OnlyChanges [.pins] s (s.setRaw c level) := ⟨fun q hq => by
      cases q
      case pins => exact absurd List.mem_cons_self hq
      all_goals rfl⟩
    exact ⟨(raw.mono (by decide)).trans ((State.setChannel_only ..).mono (by decide)), .setChannel (s.setRaw c level) ..⟩
  · refine ⟨_, execEdgeTaken_running running, ?_⟩
    rw [execCapturePinChange_running ((s.takeEdge_only c).running.trans running), State.filterRaw_taken moves]

/-- The second part of O46. -/
theorem execEdgeTaken_actsByMode (complete : (s.channel c).qualification = .complete) (unheard : Unheard c s) :
    let old := s.channel c
    let level := s.pins.cap.get c
    ∃ t, exec (.edgeTaken c) s = .next t ∧
      let x : Channel := { old with filtered := level, qualification := .none }
      let selected : Prop := old.edge = .both ∨ (old.edge = .rise ∧ level = .high) ∨ (old.edge = .fall ∧ level = .low)
      let measured := fun k : RecordKind => match old.measuring with
        | none => ChannelOnly c { x with measuring := some 0 } s t
        | some e => ChannelRecords c { x with measuring := some 0 } k (min e 4294967295) s t
      (old.running = false → ChannelOnly c x s t) ∧
      (old.running = true →
        (old.mode ≠ .width → ¬ selected → ChannelOnly c x s t) ∧
        (old.mode = .stamp → selected →
          ChannelRecords c x (if level = .high then .edgeRise else .edgeFall) 0 s t) ∧
        (old.mode = .period → selected → measured .period) ∧
        (old.mode = .width → measured (if level = .high then .widthLow else .widthHigh)) ∧
        (old.mode = .count → old.source ≠ .ownPin → ChannelOnly c x s t) ∧
        (old.mode = .count → old.source = .ownPin → selected →
          (1 < old.counter → ChannelOnly c { x with counter := old.counter - 1 } s t) ∧
          (old.counter = 1 → ChannelRecords c { x with counter := old.reload } .expiry old.reload s t))) := by
  intro old level
  refine ⟨_, (execEdgeTaken_running running).trans (congrArg _ (State.takeEdge_complete complete)), ?_⟩
  intro x selected measured
  refine ⟨fun off => ?_, fun on => ?_⟩
  · rw [if_neg (by rw [show (s.channel c).running = false from off]; decide)]
    exact .setChannel ..
  dsimp only [measured]
  rw [if_pos on]
  have takes : selected ↔ old.edge.takes level = true := (EdgeSelect.takes_iff ..).symm
  obtain ⟨unselected, first, countsChannel, above⟩ := actOnEdge_silent s c x level
  obtain ⟨stamps, measures, expires⟩ := actOnEdge_produces s c x level
  rw [takes, ← edgeKind_eq, ← widthKind_eq]
  refine ⟨unselected, fun mode sel => (stamps mode sel).records unheard ⟨rfl, rfl, rfl⟩, fun mode sel => ?_, fun mode => ?_,
    countsChannel, fun mode source sel => ⟨above mode source sel, fun last =>
      (expires mode source sel last).records unheard ⟨rfl, rfl, rfl⟩⟩⟩
  · cases phase : old.measuring with
    | none => exact first phase (.inl ⟨mode, sel⟩)
    | some e => exact ((measures e phase).1 mode sel).records unheard ⟨rfl, rfl, rfl⟩
  · cases phase : old.measuring with
    | none => exact first phase (.inr mode)
    | some e => exact ((measures e phase).2 mode).records unheard ⟨rfl, rfl, rfl⟩

/-- The fourth part of O46. -/
theorem execCounterExpiry_counts :
    let old := s.channel c
    let counts : Prop := old.running = true ∧ old.mode = .count ∧ old.counter = 1 ∧
      (old.source = .ownPin ∨ ∃ d, old.source = .channel d ∧ (s.channel d).running = true ∧
        (old.owner = (s.channel d).owner ∨ (s.channel d).shareable = true))
    ∃ t, exec (.counterExpiry c) s = .next t ∧ (¬ counts → t = s) ∧
      (counts → Unheard c s → ChannelRecords c { old with counter := old.reload } .expiry old.reload s t) := by
  intro old counts
  by_cases count : counts
  · obtain ⟨on, mode, last, source⟩ := count
    obtain ⟨t, ran, produced⟩ :=
      execCounterExpiry_produces running on mode last ((State.sourceCounts_iff on mode).2 source)
    exact ⟨t, ran, fun idle => absurd ⟨on, mode, last, source⟩ idle,
      fun _ unheard => produced.records unheard ⟨rfl, rfl, rfl⟩⟩
  · refine ⟨s, congrArg _ (if_neg ?_), fun _ => rfl, fun counting => absurd counting count⟩
    rintro ⟨-, on, mode, last, source⟩
    exact count ⟨on, mode, last, (State.sourceCounts_iff on mode).1 source⟩

end Running

/-- Settles O46: a record that nothing acts on is a case of one that is handed on, and the other events change one channel. -/
theorem edgesActByMode : Obligations.EdgesActByMode := by
  intro c level s running
  refine ⟨execCapturePinChange_filters running level, fun complete same unheard => ?_, fun unheard last => ?_,
    execCounterExpiry_counts running⟩
  · subst same
    exact execEdgeTaken_actsByMode running complete unheard
  · obtain ⟨t, ran, produced⟩ := execMeasurementOverflow_produces running last
    exact ⟨t, ran, produced.records unheard ⟨rfl, rfl, rfl⟩⟩

end Sys2Proof.Machine
end

section
/-! The event queues in order, and the subscriptions to sources that stand (R156, R159 to R161, R169): what an event that is
under way leaves of them, and what is kept of them once it has ended. -/

namespace Sys2Proof.Machine

/-! ## The queue of a port (R160, R161) -/

/-- An event queue in order: at most 32 copies, highest level first (R160). -/
def PortUnit.QueueOrdered (u : PortUnit) : Prop :=
  u.queue.length ≤ 32 ∧ u.queue.Pairwise fun a b => b.level ≤ a.level

theorem PortUnit.QueueOrdered.of_empty {u : PortUnit} (h : u.queue = []) : u.QueueOrdered := by
  unfold PortUnit.QueueOrdered
  rw [h]
  exact ⟨Nat.zero_le _, .nil⟩

/-- What an event or a request leaves of a port: it is attached where it was, and its queue in order where it was. -/
structure PortUnit.Delivers (u v : PortUnit) : Prop where
  attached : u.state ≠ .resetHold → v.state ≠ .resetHold
  queue : u.QueueOrdered → v.QueueOrdered

theorem PortUnit.Delivers.refl (u : PortUnit) : u.Delivers u := ⟨id, id⟩

theorem PortUnit.Delivers.trans {u v w : PortUnit} (h : u.Delivers v) (k : v.Delivers w) : u.Delivers w :=
  ⟨k.attached ∘ h.attached, k.queue ∘ h.queue⟩

theorem PortUnit.Delivers.of_eq {u v : PortUnit} (state : v.state = u.state) (queue : v.queue = u.queue) : u.Delivers v := by
  refine ⟨fun attached => state ▸ attached, fun ordered => ?_⟩
  unfold PortUnit.QueueOrdered at ordered ⊢
  rwa [queue]

theorem PortUnit.raisedIf_delivers (u : PortUnit) (a : Bool) (k : Condition) : u.Delivers (u.raisedIf a k) := by
  cases a <;> exact .of_eq rfl rfl

theorem PortUnit.storesIf_delivers (u : PortUnit) (a : Bool) (rs : List (Nat × Record)) : u.Delivers (u.storesIf a rs) := by
  refine ⟨fun attached => by rwa [PortUnit.storesIf_state], fun ordered => ?_⟩
  cases a with
  | false => exact ordered
  | true => exact foldl_keeps (P := PortUnit.QueueOrdered) (fun v x => v.storeCopy_ordered _) rs u ordered

/-! ## The source of a subscription (R156) -/

/-- A source stands, and a port may hear it: the port owns it, or it is shareable. -/
def State.Carries (s : State) (p : Port) : SubSource → Prop
  | .channel c => (s.channel c).owner = some p ∨ (s.channel c).shareable = true
  | .entry j inst => (s.entry j).inst = inst ∧ ∃ b, (s.entry j).body = some b ∧ (b.owner = p ∨ b.shareable = true)

/-- What holds of a subscription in use (R156, R169). -/
structure State.Serves (s : State) (u : Subscription) : Prop where
  attached : s.attached u.subscriber = true
  level : 1 ≤ u.level ∧ u.level ≤ 7
  carries : s.Carries u.subscriber u.source

theorem subsConsistent_iff {s : State} : SubsConsistent s ↔ ∀ j u, s.sub j = some u → s.Serves u := by
  refine forall_congr' fun j => forall_congr' fun u => imp_congr_right fun _ => ?_
  constructor
  · rintro ⟨attached, low, high, source⟩
    refine ⟨attached, ⟨low, high⟩, ?_⟩
    cases e : u.source <;> rw [e] at source <;> exact source
  · rintro ⟨attached, ⟨low, high⟩, source⟩
    refine ⟨attached, low, high, ?_⟩
    cases e : u.source <;> rw [e] at source <;> exact source

/-- Steps 2 and 3 of R157 ask for a source that stands and that the port may hear. -/
theorem State.carries_of_allowed {s : State} {p : Port} {src : SubSource} (stands : s.sourceStands src = true)
    (hears : s.mayHear p src = true) : s.Carries p src := by
  cases src with
  | channel c => exact (Bool.or_eq_true_iff.1 hears).imp_left of_decide_eq_true
  | entry j inst =>
    obtain ⟨b, hb, allowed⟩ := (Option.any_eq_true ..).1 hears
    exact ⟨of_decide_eq_true (Bool.and_eq_true_iff.1 stands).2, b, hb,
      (Bool.or_eq_true_iff.1 allowed).imp_left of_decide_eq_true⟩

/-- What a port may hear depends on the table and on who owns and shares the channels. -/
theorem State.carries_congr {s t : State} (entries : ∀ i, t.entry i = s.entry i)
    (owner : ∀ c, (t.channel c).owner = (s.channel c).owner)
    (shareable : ∀ c, (t.channel c).shareable = (s.channel c).shareable) (p : Port) (src : SubSource) :
    t.Carries p src ↔ s.Carries p src := by
  unfold State.Carries
  simp only [entries, owner, shareable]

/-! ## An event under way -/

/-- From e to f an entry has been freed, or changed without a change of its handle, its owner and its shareable flag. -/
structure Entry.Leaves (e f : Entry) : Prop where
  inst : f.inst = e.inst
  body : ∀ b, f.body = some b → ∃ a, e.body = some a ∧ b.owner = a.owner ∧ b.shareable = a.shareable

theorem Entry.Leaves.refl (e : Entry) : e.Leaves e := ⟨rfl, fun b hb => ⟨b, hb, rfl, rfl⟩⟩

theorem Entry.Leaves.trans {e f g : Entry} (h : e.Leaves f) (k : f.Leaves g) : e.Leaves g := by
  refine ⟨k.inst.trans h.inst, fun c hc => ?_⟩
  obtain ⟨b, hb, owner, shareable⟩ := k.body c hc
  obtain ⟨a, ha, owner', shareable'⟩ := h.body b hb
  exact ⟨a, ha, owner.trans owner', shareable.trans shareable'⟩

/-- An event that began in s has come to t: it has changed and freed entries and delivered records and conditions, and the
subscriptions to what it has freed have not ended yet (R159; log 27). -/
structure Underway (s t : State) : Prop where
  ports : ∀ p, (s.port p).Delivers (t.port p)
  subs : ∀ j, t.sub j = s.sub j
  entries : ∀ i, (s.entry i).Leaves (t.entry i)
  owner : ∀ c, (t.channel c).owner = (s.channel c).owner
  shareable : ∀ c, (t.channel c).shareable = (s.channel c).shareable

/-- What holds of the event queues and of the subscriptions in s holds of them in t. -/
structure DeliveryKept (s t : State) : Prop where
  queues : ∀ p, (s.port p).QueueOrdered → (t.port p).QueueOrdered
  subs : SubsConsistent s → SubsConsistent t

/-- A subscription is served in t where it was in s, if its subscriber is still attached and still hears its source. -/
theorem State.Serves.of_carries {s t : State} {u : Subscription} (h : s.Serves u)
    (attached : s.attached u.subscriber = true → t.attached u.subscriber = true)
    (carries : s.Carries u.subscriber u.source → t.Carries u.subscriber u.source) : t.Serves u :=
  ⟨attached h.attached, h.level, carries h.carries⟩

/-- Every subscription in use in t was in use in s, and is served if it was. -/
theorem DeliveryKept.of_serves {s t : State} (queues : ∀ p, (s.port p).QueueOrdered → (t.port p).QueueOrdered)
    (subs : ∀ j u, t.sub j = some u → s.sub j = some u ∧ (s.Serves u → t.Serves u)) : DeliveryKept s t := by
  refine ⟨queues, fun before => subsConsistent_iff.2 fun j u hu => ?_⟩
  obtain ⟨used, serves⟩ := subs j u hu
  exact serves (subsConsistent_iff.1 before j u used)

theorem State.attached_of_delivers {s t : State} {p : Port} (h : (s.port p).Delivers (t.port p))
    (attached : s.attached p = true) : t.attached p = true :=
  State.attached_iff.2 (h.attached (State.attached_iff.1 attached))

theorem SubsEnd.sub_of_some {test : Subscription → Bool} {s t : State} (h : SubsEnd test s t) {j : SubIx}
    {u : Subscription} (hu : t.sub j = some u) : s.sub j = some u ∧ test u = false := by
  rw [h j] at hu
  cases e : s.sub j with
  | none => rw [e] at hu; cases hu
  | some v =>
    rw [e] at hu
    dsimp only at hu
    split at hu
    · cases hu
    next stays => cases hu; exact ⟨rfl, Bool.eq_false_iff.2 stays⟩

namespace Underway

variable {s t u : State}

theorem refl (s : State) : Underway s s := ⟨fun _ => .refl _, fun _ => rfl, fun _ => .refl _, fun _ => rfl, fun _ => rfl⟩

theorem trans (h : Underway s t) (k : Underway t u) : Underway s u where
  ports p := (h.ports p).trans (k.ports p)
  subs j := (k.subs j).trans (h.subs j)
  entries i := (h.entries i).trans (k.entries i)
  owner c := (k.owner c).trans (h.owner c)
  shareable c := (k.shareable c).trans (h.shareable c)

theorem ite {c : Prop} [Decidable c] (h : Underway s t) (k : Underway s u) : Underway s (if c then t else u) := by
  split <;> assumption

theorem foldl {α : Type} {f : State → α → State} (each : ∀ t x, Underway s t → Underway s (f t x)) (l : List α)
    (h : Underway s t) : Underway s (l.foldl f t) := foldl_keeps each l t h

/-- A change that leaves the channels and the subscriptions, and what it does to each port and to each entry. -/
theorem toTable {ps : List Part} (h : Underway s t) (only : OnlyChanges ps t u)
    (n : Part.subs ∉ ps ∧ Part.channels ∉ ps) (ports : ∀ p, (t.port p).Delivers (u.port p))
    (entries : ∀ i, (t.entry i).Leaves (u.entry i)) : Underway s u :=
  h.trans ⟨ports, fun j => only.sub j n.1, entries, fun c => by rw [only.channel c n.2],
    fun c => by rw [only.channel c n.2]⟩

/-- Of a change that does not reach the table, the channels and the subscriptions, what it does to each port. -/
theorem toPorts {ps : List Part} (h : Underway s t) (only : OnlyChanges ps t u)
    (n : Part.subs ∉ ps ∧ Part.channels ∉ ps ∧ Part.schedule ∉ ps) (ports : ∀ p, (t.port p).Delivers (u.port p)) :
    Underway s u :=
  h.toTable only ⟨n.1, n.2.1⟩ ports fun i => by rw [only.entry i n.2.2]; exact .refl _

/-- One entry changed, and the generations. -/
theorem entryBecomes {ps : List Part} (h : Underway s t) (only : OnlyChanges ps t u)
    (n : Part.subs ∉ ps ∧ Part.channels ∉ ps) {i : EntryIx} {e : Entry} (becomes : EntryBecomes i e t u)
    (leaves : (t.entry i).Leaves e) (ports : ∀ p, (t.port p).Delivers (u.port p)) : Underway s u := by
  refine h.toTable only n ports fun j => ?_
  by_cases same : j = i
  · subst same; rw [becomes.1]; exact leaves
  · rw [becomes.2 j same]; exact .refl _

/-- A source that an event has not taken away still stands, and is heard as it was. -/
theorem carries (h : Underway s t) {p : Port} {src : SubSource} (there : t.sourceGone s src = false)
    (before : s.Carries p src) : t.Carries p src := by
  cases src with
  | channel c =>
    change (t.channel c).owner = some p ∨ (t.channel c).shareable = true
    rw [h.owner, h.shareable]
    exact before
  | entry j inst =>
    obtain ⟨handle, a, ha, hears⟩ := before
    change (decide ((s.entry j).inst = inst) && (s.entry j).body.isSome && (t.entry j).body.isNone) = false at there
    cases hb : (t.entry j).body with
    | none => simp [handle, ha, hb] at there
    | some b =>
      obtain ⟨a', ha', owner, shareable⟩ := (h.entries j).body b hb
      cases ha.symm.trans ha'
      exact ⟨(h.entries j).inst.trans handle, b, hb, by rwa [owner, shareable]⟩

/-- The end of an event keeps every queue in order and ends the subscriptions to what the event has freed (R159). -/
theorem endGone (h : Underway s t) : DeliveryKept s (t.endGone s) := by
  obtain ⟨ended, records⟩ := t.endGone_spec s
  have only := t.endGone_only s
  have ports : ∀ p, (s.port p).Delivers ((t.endGone s).port p) := fun p =>
    (h.ports p).trans (by rw [records p]; exact PortUnit.storesIf_delivers ..)
  refine .of_serves (fun p => (ports p).queue) fun j u hu => ?_
  obtain ⟨used, there⟩ := ended.sub_of_some hu
  refine ⟨(h.subs j).symm.trans used, fun served =>
    served.of_carries (State.attached_of_delivers (ports _)) fun before => ?_⟩
  exact (State.carries_congr (only.entry · (by decide)) (fun c => by rw [only.channel c (by decide)])
    (fun c => by rw [only.channel c (by decide)]) ..).2
    (h.carries there before)

/-- An event that has freed no entry has ended no subscription. -/
theorem kept (h : Underway s t) (used : ∀ i, (s.entry i).body.isSome = true → (t.entry i).body.isSome = true) :
    DeliveryKept s t := by
  have same : t.endGone s = t := State.endGone_none used fun c owned => by rwa [h.owner]
  rw [← same]
  exact h.endGone

/-! ## The schedule table within an event (R94 to R110) -/

theorem fireWithin (h : Underway s t) (i : EntryIx) (late : Bool) (missed : Nat) :
    Underway s (t.fireWithin i late missed) := by
  cases hd : (t.entry i).armedDue with
  | none => rw [State.fireWithin_not_armed hd]; exact h
  | some due =>
    obtain ⟨b, hb, hr⟩ := Entry.armedDue_eq_some.1 hd
    obtain ⟨becomes, -, -, -, -, ports⟩ := State.fireWithin_fires hb hr late missed
    refine h.entryBecomes (t.fireWithin_only i late missed) (by decide) becomes ⟨rfl, fun x hx => ⟨b, hb, ?_⟩⟩
      fun p => by rw [ports p]; exact PortUnit.storesIf_delivers ..
    unfold Body.afterFiring at hx
    dsimp only at hx
    split at hx
    · cases hx; exact ⟨rfl, rfl⟩
    · split at hx
      · cases hx; exact ⟨rfl, rfl⟩
      · cases hx

theorem resolveWithin (h : Underway s t) (i : EntryIx) : Underway s (t.resolveWithin i) := by
  unfold State.resolveWithin
  split
  · split
    · exact (h.fireWithin ..).ite h
    all_goals exact h
  · exact h

/-- An entry in use given another body of the same owner, shared as it was. -/
theorem setBody (h : Underway s t) {i : EntryIx} {a b : Body} (ha : (t.entry i).body = some a) (owner : b.owner = a.owner)
    (shareable : b.shareable = a.shareable) : Underway s (t.setBody i (some b)) :=
  h.entryBecomes (t.setBody_only i (some b)) (by decide)
    ⟨(t.entry_setBody i i (some b)).trans (if_pos rfl), fun j hj => (t.entry_setBody i j (some b)).trans (if_neg hj)⟩
    ⟨rfl, fun _ hx => ⟨a, ha, by cases hx; exact ⟨owner, shareable⟩⟩⟩ fun _ => .refl _

theorem bumpFull (h : Underway s t) : Underway s t.bumpFull :=
  h.toTable t.bumpFull_only (by decide) (fun p => by rw [t.bumpFull_only.port p (by decide)]; exact .refl _)
    fun i => by rw [State.entry_bumpFull]; exact .refl _

theorem bumpBoth (h : Underway s t) : Underway s t.bumpBoth :=
  h.toTable t.bumpBoth_only (by decide) (fun p => by rw [t.bumpBoth_only.port p (by decide)]; exact .refl _)
    fun i => by rw [State.entry_bumpBoth]; exact .refl _

theorem setRun (h : Underway s t) {i : EntryIx} {b : Body} (hb : (t.entry i).body = some b) (r : RunState) :
    Underway s (t.setRun i b r) := (h.setBody (b := { b with run := r }) hb rfl rfl).bumpFull

theorem vacate (h : Underway s t) (i : EntryIx) : Underway s (t.vacate i) := by
  have becomes : EntryBecomes i { inst := (t.entry i).inst, body := none } t (t.vacate i) :=
    ⟨(t.entry_vacate i i).trans (if_pos rfl), fun j hj => (t.entry_vacate i j).trans (if_neg hj)⟩
  have only : OnlyChanges [.schedule, .digest] t (t.vacate i) := t.vacate_only i
  exact h.entryBecomes only (by decide) becomes ⟨rfl, fun _ hb => nomatch hb⟩ fun p => by
    rw [only.port p (by decide)]; exact .refl _

theorem armAt (h : Underway s t) {i : EntryIx} {b : Body} (hb : (t.entry i).body = some b) (due : Nat) :
    Underway s (t.armAt i b due) :=
  ((h.setRun hb (.armed due)).fireWithin ..).ite (h.setRun hb _)

theorem captureAt (h : Underway s t) (c : ChanNo) (k : RecordKind) (time : Nat) (i : EntryIx) :
    Underway s (t.captureAt c k time i) := by
  cases hb : (t.entry i).body with
  | none => rw [State.captureAt_idle (by rw [hb]; rfl)]; exact h
  | some b => rw [State.captureAt_eq hb]; exact (h.armAt hb _).ite h

/-- A record handed on through the channels that count it (R142, R147, R148). -/
theorem handOn (depth : Nat) (h : Underway s t) (c : ChanNo) (k : RecordKind) (value : Nat) :
    Underway s (State.handOn depth t c k value) := by
  induction depth generalizing t c k value with
  | zero => exact h
  | succ n ih =>
    have delivered : Underway s (t.deliverCapture c k value) :=
      h.toPorts (t.deliverCapture_only c k value) (by decide) fun p => by
        rw [State.port_deliverCapture]; exact PortUnit.storesIf_delivers ..
    have acted : Underway s ((t.deliverCapture c k value).captureAll c k t.now) :=
      foldl (fun _ i j => j.captureAt c k t.now i) _ delivered
    rw [State.handOn_succ]
    refine acted.ite (foldl (fun v d j => ?_) _ acted)
    have counts := SameSetup.counted v d
    have counted : Underway s (v.setChannel d (v.channel d).counted) :=
      j.trans ⟨fun _ => .refl _, fun _ => rfl, fun _ => .refl _, counts.owner, fun e => by
        obtain ⟨m, hm⟩ := counts.channel e; rw [hm]⟩
    exact ((ih counted ..).ite counted).ite j

end Underway

end Sys2Proof.Machine
end

section
/-! What each operation on the table, the channels, the clocks and the adjustment queue keeps of the event queues and of the
subscriptions (R156, R159 to R161): most reach neither, and the rest end an event that they have begun. -/

namespace Sys2Proof.Machine

/-- An entry whose due time is found again keeps its owner and its shareable flag (R110). -/
theorem Body.found_owner_shareable (now : Nat) (b : Body) :
    (b.found now).owner = b.owner ∧ (b.found now).shareable = b.shareable := by
  unfold Body.found
  cases b.defn <;> exact ⟨rfl, rfl⟩

namespace DeliveryKept

variable {s t u : State}

theorem refl (s : State) : DeliveryKept s s := ⟨fun _ => id, id⟩

theorem trans (h : DeliveryKept s t) (k : DeliveryKept t u) : DeliveryKept s u :=
  ⟨fun p => k.queues p ∘ h.queues p, k.subs ∘ h.subs⟩

theorem ite {c : Prop} [Decidable c] (h : DeliveryKept s t) (k : DeliveryKept s u) :
    DeliveryKept s (if c then t else u) := by
  split <;> assumption

theorem foldl {α : Type} {f : State → α → State} (each : ∀ t x, DeliveryKept s t → DeliveryKept s (f t x))
    (l : List α) (h : DeliveryKept s t) : DeliveryKept s (l.foldl f t) := foldl_keeps each l t h

/-- A change that leaves the subscriptions and lets every port hear what it heard. -/
theorem same (h : DeliveryKept s t) (ports : ∀ p, (t.port p).Delivers (u.port p)) (subs : ∀ j, u.sub j = t.sub j)
    (carries : ∀ p src, t.Carries p src → u.Carries p src) : DeliveryKept s u :=
  h.trans <| .of_serves (fun p => (ports p).queue) fun j _ hu => ⟨(subs j).symm.trans hu, fun served =>
    served.of_carries (State.attached_of_delivers (ports _)) (carries _ _)⟩

/-- Of a change that does not reach the table, the channels and the subscriptions, what it does to each port. -/
theorem toPorts {ps : List Part} (h : DeliveryKept s t) (only : OnlyChanges ps t u)
    (n : Part.subs ∉ ps ∧ Part.channels ∉ ps ∧ Part.schedule ∉ ps) (ports : ∀ p, (t.port p).Delivers (u.port p)) :
    DeliveryKept s u :=
  h.same ports (fun j => only.sub j n.1) fun p src => (State.carries_congr (fun i => only.entry i n.2.2)
    (fun c => by rw [only.channel c n.2.1]) (fun c => by rw [only.channel c n.2.1]) p src).2

/-- A change that reaches neither the ports nor the subscriptions nor what they may be to. -/
theorem next {ps : List Part} (h : DeliveryKept s t) (only : OnlyChanges ps t u)
    (n : Part.ports ∉ ps ∧ Part.subs ∉ ps ∧ Part.channels ∉ ps ∧ Part.schedule ∉ ps) : DeliveryKept s u :=
  h.toPorts only n.2 fun p => by rw [only.port p n.1]; exact .refl _

/-- A change of what neither the queues nor the subscriptions depend on. -/
theorem elsewhere (h : DeliveryKept s t) (ports : u.ports = t.ports) (subs : u.subs = t.subs)
    (channels : u.channels = t.channels) (schedule : u.schedule = t.schedule) : DeliveryKept s u := by
  have channel : ∀ c, u.channel c = t.channel c := fun c => by unfold State.channel; rw [channels]
  refine h.same (fun p => ?_) (fun j => by unfold State.sub; rw [subs]) fun p src => ?_
  · unfold State.port
    rw [ports]
    exact .refl _
  · exact (State.carries_congr (fun i => by unfold State.entry; rw [schedule]) (fun c => by rw [channel])
      (fun c => by rw [channel]) p src).2

/-! ## Conditions and records -/

theorem setPort (h : DeliveryKept s t) (p : Port) {x : PortUnit} (delivers : (t.port p).Delivers x) :
    DeliveryKept s (t.setPort p x) :=
  h.toPorts (t.setPort_only p x) (by decide) fun q => by
    rw [State.port_setPort]
    split
    next e => rw [e]; exact delivers
    · exact .refl _

theorem raiseAll (h : DeliveryKept s t) (k : Condition) : DeliveryKept s (t.raiseAll k) :=
  h.toPorts (t.raiseAll_only k) (by decide) fun p => by rw [State.port_raiseAll]; exact PortUnit.raisedIf_delivers ..

theorem raiseAtHolder (h : DeliveryKept s t) (k : Condition) : DeliveryKept s (t.raiseAtHolder k) :=
  h.toPorts (t.raiseAtHolder_only k) (by decide) fun p => by
    rw [State.port_raiseAtHolder]; exact PortUnit.raisedIf_delivers ..

theorem deliverTo (h : DeliveryKept s t) (p : Option Port) (l : Nat) (r : Record) : DeliveryKept s (t.deliverTo p l r) :=
  h.toPorts (t.deliverTo_only p l r) (by decide) fun q => by rw [State.port_deliverTo]; exact PortUnit.storesIf_delivers ..

theorem causeAttached (h : DeliveryKept s t) (c : ResetCause) : DeliveryKept s (t.causeAttached c) :=
  h.toPorts (t.causeAttached_only c) (by decide) fun p => by
    rw [State.port_causeAttached]
    split
    · exact .of_eq rfl rfl
    · exact .refl _

theorem expireHold (h : DeliveryKept s t) (l : LineNo) : DeliveryKept s (t.expireHold l) := by
  unfold State.expireHold
  split
  · exact (h.next (t.setLine_only ..) (by decide)).deliverTo ..
  all_goals exact h

/-! ## The schedule table (Chapters 4 and 5) -/

theorem bumpFull (h : DeliveryKept s t) : DeliveryKept s t.bumpFull :=
  h.trans ((Underway.refl t).bumpFull.kept fun i => by rw [State.entry_bumpFull]; exact id)

theorem bumpBoth (h : DeliveryKept s t) : DeliveryKept s t.bumpBoth :=
  h.trans ((Underway.refl t).bumpBoth.kept fun i => by rw [State.entry_bumpBoth]; exact id)

/-- An entry in use given another body of the same owner, shared as it was. -/
theorem setBody (h : DeliveryKept s t) {i : EntryIx} {a b : Body} (ha : (t.entry i).body = some a)
    (owner : b.owner = a.owner) (shareable : b.shareable = a.shareable) : DeliveryKept s (t.setBody i (some b)) :=
  h.trans (((Underway.refl t).setBody ha owner shareable).kept fun j used => by
    rw [State.entry_setBody]
    split
    · rfl
    · exact used)

theorem setRun (h : DeliveryKept s t) {i : EntryIx} {b : Body} (hb : (t.entry i).body = some b) (r : RunState) :
    DeliveryKept s (t.setRun i b r) := (h.setBody (b := { b with run := r }) hb rfl rfl).bumpFull

theorem retimed (h : DeliveryKept s t) {i : EntryIx} {b : Body} (hb : (t.entry i).body = some b) (d : Definition)
    (r : RunState) : DeliveryKept s (t.retimed i b d r) :=
  (h.setBody (b := { b with defn := d, run := r }) hb rfl rfl).bumpBoth

/-- A FREE entry taken: no subscription was to it. -/
theorem allocate (h : DeliveryKept s t) {i : EntryIx} (free : (t.entry i).body = none) (b : Body) :
    DeliveryKept s (t.allocate i b) := by
  have only := t.allocate_only i b
  refine h.same (fun p => by rw [only.port p (by decide)]; exact .refl _) (fun j => only.sub j (by decide))
    fun p src before => ?_
  cases src with
  | channel c =>
    change ((t.allocate i b).channel c).owner = some p ∨ ((t.allocate i b).channel c).shareable = true
    rw [only.channel c (by decide)]
    exact before
  | entry j inst =>
    change ((t.allocate i b).entry j).inst = inst ∧ _
    obtain ⟨handle, a, ha, hears⟩ := before
    have other : j ≠ i := fun same => by rw [same, free] at ha; cases ha
    rw [State.entry_allocate, if_neg other]
    exact ⟨handle, a, ha, hears⟩

theorem fire (h : DeliveryKept s t) (i : EntryIx) (late : Bool) (missed : Nat) : DeliveryKept s (t.fire i late missed) :=
  h.trans ((Underway.refl t).fireWithin i late missed).endGone

theorem fireWhere (h : DeliveryKept s t) (test : Nat → Bool) : DeliveryKept s (t.fireWhere test) :=
  .foldl (fun _ i k => (k.fire i false 0).ite k) _ h

theorem fireReached (h : DeliveryKept s t) : DeliveryKept s t.fireReached := (h.fireWhere _).fireWhere _

theorem withUnfired (h : DeliveryKept s t) (x : Bool) : DeliveryKept s { t with unfired := x } :=
  h.next (t.withUnfired_only x) (by decide)

theorem fireUnfired (h : DeliveryKept s t) : DeliveryKept s t.fireUnfired := (h.withUnfired false).fireReached.ite h

theorem fireOne (h : DeliveryKept s t) : DeliveryKept s t.fireOne := by
  unfold State.fireOne
  split
  · split
    · exact h.withUnfired false
    · exact (h.withUnfired _).fire ..
  · exact h

theorem recompute (h : DeliveryKept s t) (i : EntryIx) : DeliveryKept s (t.recompute i) := by
  rw [State.recompute_eq]
  cases hb : (t.entry i).body with
  | none => exact h
  | some b =>
    obtain ⟨owner, shareable⟩ := b.found_owner_shareable t.now
    exact (h.setBody hb owner shareable).bumpFull.ite h

theorem stepTable (h : DeliveryKept s t) (old : Nat) : DeliveryKept s (t.stepTable old) := by
  have resolved : Underway t (allEntries.foldl State.resolveWithin t) :=
    Underway.foldl (fun _ i k => k.resolveWithin i) _ (.refl t)
  exact (h.trans resolved.endGone).ite (foldl (fun _ i k => k.recompute i) _ h)

/-! ## The channels (Chapter 7) -/

/-- A channel of which every port that owned it is still the owner, shareable where it was. -/
theorem setChannel (h : DeliveryKept s t) (c : ChanNo) {x : Channel}
    (owner : ∀ p, (t.channel c).owner = some p → x.owner = some p)
    (shareable : (t.channel c).shareable = true → x.shareable = true) : DeliveryKept s (t.setChannel c x) := by
  refine h.same (fun _ => .refl _) (fun _ => rfl) fun p src before => ?_
  cases src with
  | channel d =>
    change ((t.setChannel c x).channel d).owner = some p ∨ ((t.setChannel c x).channel d).shareable = true
    rw [State.channel_setChannel]
    split
    next same => subst same; exact before.imp (owner p) shareable
    · exact before
  | entry j inst => exact before

theorem produce (h : DeliveryKept s t) (c : ChanNo) (k : RecordKind) (value : Nat) : DeliveryKept s (t.produce c k value) :=
  h.trans ((Underway.refl t).handOn 8 c k value).endGone

theorem countEvent (h : DeliveryKept s t) (c : ChanNo) : DeliveryKept s (t.countEvent c) := by
  have counted : DeliveryKept s (t.setChannel c (t.channel c).counted) := h.setChannel c (fun _ => id) id
  exact (counted.produce ..).ite counted

theorem measureEdge (h : DeliveryKept s t) (c : ChanNo) (k : RecordKind) : DeliveryKept s (t.measureEdge c k) := by
  have begun : DeliveryKept s (t.beginMeasure c) := h.setChannel c (fun _ => id) id
  unfold State.measureEdge
  split
  · exact begun
  · exact begun.produce ..

theorem actOnEdge (h : DeliveryKept s t) (c : ChanNo) (x : PinLevel) : DeliveryKept s (t.actOnEdge c x) := by
  unfold State.actOnEdge
  split
  · exact (h.produce ..).ite h
  · exact (h.measureEdge ..).ite h
  · exact h.measureEdge ..
  · exact (h.countEvent ..).ite h

theorem takeEdge (h : DeliveryKept s t) (c : ChanNo) : DeliveryKept s (t.takeEdge c) := by
  have filtered : DeliveryKept s
      (t.setChannel c { t.channel c with filtered := t.rawLevel c, qualification := .none }) :=
    h.setChannel c (fun _ => id) id
  unfold State.takeEdge
  split
  · exact (filtered.actOnEdge ..).ite filtered
  all_goals exact h

theorem overflowMeasure (h : DeliveryKept s t) (c : ChanNo) : DeliveryKept s (t.overflowMeasure c) := by
  have ended : DeliveryKept s (t.setChannel c { t.channel c with measuring := none }) := h.setChannel c (fun _ => id) id
  unfold State.overflowMeasure
  split
  · exact (ended.produce ..).ite h
  · exact h

theorem filterRaw (h : DeliveryKept s t) (c : ChanNo) (x : PinLevel) : DeliveryKept s (t.filterRaw c x) := by
  have taken : DeliveryKept s (if t.rawLevel c = x then t else t.takeEdge c) := h.ite (h.takeEdge c)
  exact (taken.next (State.setRaw_only _ c x) (by decide)).setChannel c (fun _ => id) id

/-! ## The clock supervisor (Chapter 2) -/

theorem withMonitor (h : DeliveryKept s t) (m : Monitor) : DeliveryKept s { t with monitor := m } :=
  h.elsewhere rfl rfl rfl rfl

theorem beginTracking (h : DeliveryKept s t) : DeliveryKept s t.beginTracking :=
  (h.next (t.setQuality_only .tracking) (by decide)).raiseAll _

theorem refGoodReached (h : DeliveryKept s t) : DeliveryKept s t.refGoodReached := by
  unfold State.refGoodReached
  split
  · exact h
  · exact h.beginTracking
  · exact h.raiseAtHolder _
  · exact h

theorem refGoodLeft (h : DeliveryKept s t) : DeliveryKept s t.refGoodLeft := by
  unfold State.refGoodLeft
  split
  · exact (h.next (t.setQuality_only .holdover) (by decide)).raiseAll _
  all_goals exact h

theorem judgeQualifying (h : DeliveryKept s t) (e : Int) : DeliveryKept s (t.judgeQualifying e) :=
  ((h.withMonitor _).ite (h.withMonitor _).refGoodReached).ite (h.withMonitor _)

theorem judgeGood (h : DeliveryKept s t) (e : Int) : DeliveryKept s (t.judgeGood e) :=
  (h.withMonitor _).ite (h.withMonitor _).refGoodLeft

theorem endWindow (h : DeliveryKept s t) : DeliveryKept s t.endWindow := by
  unfold State.endWindow
  split
  · split
    · exact (h.next t.windowErrorNow_only (by decide)).judgeQualifying _
    · exact (h.next t.windowErrorNow_only (by decide)).judgeGood _
    all_goals exact h
  · exact h

theorem loseReference (h : DeliveryKept s t) : DeliveryKept s t.loseReference := by
  unfold State.loseReference
  split
  · exact h.withMonitor _
  · exact (h.withMonitor _).refGoodLeft
  all_goals exact h

theorem takeLoss (h : DeliveryKept s t) : DeliveryKept s t.takeLoss := h.loseReference.ite h

theorem takeReferenceEdge (h : DeliveryKept s t) (gap : Nat) : DeliveryKept s (t.takeReferenceEdge gap) := by
  unfold State.takeReferenceEdge State.takeEdgeAfter
  split
  · exact h
  · exact h.withMonitor _
  all_goals exact (h.loseReference.withMonitor _).ite (h.withMonitor _)

/-! ## Adjustments (Chapter 3) -/

theorem applyTime (h : DeliveryKept s t) (v : Nat) : DeliveryKept s (t.applyTime v) := by
  have counted := h.next (t.withValue_only v) (by decide)
  have left : DeliveryKept s (t.withValue v).leaveUnset :=
    counted.beginTracking.ite (counted.next (State.setQuality_only ..) (by decide))
  rw [State.applyTime_eq]
  exact ((left.ite counted).stepTable _).raiseAll _

theorem completeSlew (h : DeliveryKept s t) (left : Nat) : DeliveryKept s (t.completeSlew left) := by
  unfold State.completeSlew
  split
  · exact (h.next (t.slewLeaves_only ..) (by decide)).deliverTo ..
  · exact h

theorem beginSlew (h : DeliveryKept s t) (n : BitVec 8) (amount : Int) : DeliveryKept s (t.beginSlew n amount) := by
  have begun : DeliveryKept s { t with
      slew := { direction := if 0 ≤ amount then .positive else .negative, remaining := amount.natAbs, blockElapsed := 0 }
      authority := { t.authority with active := some { number := n, amount := amount } } } :=
    h.elsewhere rfl rfl rfl rfl
  exact (begun.completeSlew _).ite begun

theorem applyWaiting (h : DeliveryKept s t) (n : BitVec 8) (v : Option Nat) : DeliveryKept s (t.applyWaiting n v) := by
  unfold State.applyWaiting
  split
  · exact (h.applyTime _).deliverTo ..
  · exact h.deliverTo ..

theorem slewEnded (h : DeliveryKept s t) (left : Nat) : DeliveryKept s (t.slewEnded left) := by
  have done := h.completeSlew left
  have taken : DeliveryKept s (t.slewLeft left) := done.elsewhere rfl rfl rfl rfl
  unfold State.slewEnded
  dsimp only
  split
  · exact done
  · split
    · exact taken.beginSlew ..
    · exact taken.applyWaiting ..
    · exact taken.applyWaiting ..

theorem discardQueue (h : DeliveryKept s t) (dest : Option Port) : DeliveryKept s (t.discardQueue dest) :=
  h.toPorts (t.discardQueue_only dest) (by decide) fun p => by
    rw [(t.discardQueue_spec dest).ports p]; exact PortUnit.storesIf_delivers ..

theorem changeHolder (h : DeliveryKept s t) (new dest : Option Port) : DeliveryKept s (t.changeHolder new dest) :=
  h.toPorts (t.changeHolder_only new dest) (by decide) fun p => by
    rw [State.port_changeHolder]
    exact ((PortUnit.storesIf_delivers ..).trans (PortUnit.raisedIf_delivers ..)).trans (PortUnit.raisedIf_delivers ..)

/-! ## Time passes (Chapter 1) -/

theorem reachEnd (h : DeliveryKept s t) : DeliveryKept s t.reachEnd := by
  have fired : DeliveryKept s (t.holdRange.fireDue Config.endOfRange) := (h.next t.holdRange_only (by decide)).fireWhere _
  have told := fired.raiseAll .rangeEnd
  exact told.ite (told.slewEnded _)

theorem advanceTo (h : DeliveryKept s t) (v : Nat) (fires : Bool) : DeliveryKept s (t.advanceTo v fires) := by
  have counted := h.next (t.atCount_only v) (by decide)
  exact counted.fireReached.ite (counted.withUnfired true)

theorem advanceOne (h : DeliveryKept s t) (fires : Bool) : DeliveryKept s (t.advanceOne fires) :=
  ((h.advanceTo ..).ite h.reachEnd).ite h

theorem endSlewIfDone (h : DeliveryKept s t) : DeliveryKept s t.endSlewIfDone := (h.slewEnded 0).ite h

theorem timebaseMicro (h : DeliveryKept s t) (fires : Bool) : DeliveryKept s (t.timebaseMicro fires) := by
  have counted := h.next t.countBlock_only (by decide)
  have slewed : ∀ x : SlewState, DeliveryKept s { t with slew := x } := fun x =>
    h.elsewhere rfl rfl rfl rfl
  refine ite ?_ ((h.advanceOne fires).ite ((slewed _).advanceOne fires))
  unfold State.blockEnd
  split
  · exact (counted.advanceTo ..).endSlewIfDone.ite h.reachEnd
  · exact counted.endSlewIfDone
  · exact h

theorem countTimers (h : DeliveryKept s t) : DeliveryKept s t.countTimers := by
  have lines := h.next (State.countLines_only t) (by decide)
  have channels : DeliveryKept s t.countLines.countChannels :=
    foldl (f := fun v c => v.setChannel c (v.channel c).tick) (fun _ c k => k.setChannel c (fun _ => id) id) _ lines
  exact channels.elsewhere rfl rfl rfl rfl

theorem endWalk (h : DeliveryKept s t) (w : Walk) : DeliveryKept s (t.endWalk w) :=
  (h.elsewhere (u := { t with digest := none }) rfl rfl rfl rfl).setPort _ ⟨nofun, id⟩

theorem examineNext (h : DeliveryKept s t) : DeliveryKept s t.examineNext := by
  have stored : ∀ w, DeliveryKept s (t.storeWalk w) := fun w =>
    ite (h.elsewhere rfl rfl rfl rfl) (h.endWalk w)
  unfold State.examineNext
  split
  · split
    · split
      · exact stored _
      · exact h
    · exact h
  · exact h

theorem takeDue (h : DeliveryKept s t) (d : DueEvent) : DeliveryKept s (t.takeDue d) := by
  cases d with
  | pulseEnd l => exact h.next (t.endPulse_only l) (by decide)
  | holdExpiry l => exact h.expireHold l
  | overflow c => exact h.overflowMeasure c
  | edge c => exact h.takeEdge c
  | windowEnd => exact h.endWindow
  | loss => exact h.takeLoss
  | examine => exact h.examineNext
  | firing => exact h.fireOne

theorem takeDues (h : DeliveryKept s t) (l : List DueEvent) : DeliveryKept s (l.foldl State.takeDue t) :=
  foldl (fun _ d k => k.takeDue d) l h

theorem runMicro (h : DeliveryKept s t) (first : List DueEvent) (fires : Bool) : DeliveryKept s (t.runMicro first fires) :=
  ((h.fireUnfired.takeDues dueOrder).countTimers.takeDues first).timebaseMicro fires

theorem micro (h : DeliveryKept s t) (first : List DueEvent) (fires : Bool) : DeliveryKept s (t.micro first fires) := by
  have silent : DeliveryKept s { t with backup := t.backup.silentAdvance } :=
    h.elsewhere rfl rfl rfl rfl
  exact (h.runMicro first fires).ite (silent.ite h)

theorem finishAdvance (h : DeliveryKept s t) (first : List DueEvent) : DeliveryKept s (t.finishAdvance first) :=
  (h.takeDues first).fireUnfired.ite h

end DeliveryKept

end Sys2Proof.Machine
end

section
/-! What each request keeps of the event queues and of the subscriptions (Chapters 2 to 8). -/

namespace Sys2Proof.Machine

theorem Channel.started_owner_shareable (x : Channel) : x.started.owner = x.owner ∧ x.started.shareable = x.shareable := by
  unfold Channel.started
  split <;> exact ⟨rfl, rfl⟩

namespace DeliveryKept

variable {s t u : State}

theorem ite_fst {x y : State × Option Response} {c : Prop} [Decidable c] (h : DeliveryKept s x.1)
    (k : DeliveryKept s y.1) : DeliveryKept s (if c then x else y).1 := by
  split <;> assumption

/-- A subscription entry given up, or taken by a port that may hear its source. -/
theorem setSub (h : DeliveryKept s t) (i : SubIx) {x : Option Subscription} (serves : ∀ u, x = some u → t.Serves u) :
    DeliveryKept s (t.setSub i x) := by
  refine h.trans ⟨fun _ => id, fun before => subsConsistent_iff.2 fun j u hu => ?_⟩
  rw [State.sub_setSub] at hu
  have served : t.Serves u := by
    split at hu
    · exact serves u hu
    · exact subsConsistent_iff.1 before j u hu
  exact served.of_carries id ((State.carries_congr (fun _ => rfl) (fun _ => rfl) (fun _ => rfl) ..).2)

/-! ## Authority, adjustments and the backup domain (Chapters 1 to 3) -/

theorem blockClaimAuthority (p : Port) (key : OptField 64) : DeliveryKept s (blockClaimAuthority p key s).1 := by
  unfold Sys2Proof.Machine.blockClaimAuthority
  split
  · exact refl s
  · unfold State.claim
    split
    · exact (refl s).changeHolder ..
    · refine ite_fst (refl s) ?_
      split
      · exact refl s
      · exact ((refl s).changeHolder ..).ite_fst (refl s)

theorem blockReleaseAuthority (p : Port) : DeliveryKept s (blockReleaseAuthority p s).1 :=
  ite_fst (refl s) ((refl s).changeHolder ..)

theorem applyAnswer (v : Option Nat) : DeliveryKept s (s.applyAnswer v).1 := by
  unfold State.applyAnswer
  split
  · exact refl s
  · exact (refl s).applyTime _

theorem enqueue (k : AdjustKind) : DeliveryKept s (s.enqueue k) := (refl s).next (s.enqueue_only k) (by decide)

theorem blockSetTime (p : Port) (sec : BitVec 32) (us : BitVec 24) : DeliveryKept s (blockSetTime p sec us s).1 :=
  ite_fst (refl s) <| ite_fst (refl s) <| ite_fst (refl s) <| ite_fst (enqueue _) (applyAnswer _)

theorem blockStep (p : Port) (amount : BitVec 32) : DeliveryKept s (blockStep p amount s).1 :=
  ite_fst (refl s) <| ite_fst (refl s) <| ite_fst (refl s) <| ite_fst (refl s) <| ite_fst (enqueue _) (applyAnswer _)

theorem blockSlew (p : Port) (amount : BitVec 32) : DeliveryKept s (blockSlew p amount s).1 :=
  ite_fst (refl s) <| ite_fst (refl s) <| ite_fst (refl s) <| ite_fst (refl s) <|
    ite_fst (enqueue _) (((refl s).next s.takeNumber_only (by decide)).beginSlew ..)

theorem blockCancelAdjust (p : Port) : DeliveryKept s (blockCancelAdjust p s).1 :=
  ite_fst (refl s) ((refl s).discardQueue _)

theorem blockResumeReference (p : Port) : DeliveryKept s (blockResumeReference p s).1 :=
  ite_fst (refl s) <| ite_fst (refl s) <| ite_fst (refl s) (refl s).beginTracking

theorem blockClearBackup (p : Port) : DeliveryKept s (blockClearBackup p s).1 := by
  have cleared : DeliveryKept s { s with backup := Backup.reset } :=
    (refl s).elsewhere rfl rfl rfl rfl
  exact ite_fst (refl s) <| ite_fst (refl s) <| ite_fst (refl s) <|
    ((cleared.withMonitor Monitor.off).raiseAll _).causeAttached _

/-! ## The schedule unit (Chapter 4) -/

theorem blockArmEntry (p : Port) (f : ArmFields) : DeliveryKept s (blockArmEntry p f s).1 := by
  unfold Sys2Proof.Machine.blockArmEntry
  split
  · exact refl s
  · refine ite_fst (refl s) <| ite_fst (refl s) <| ite_fst (refl s) ?_
    split
    · exact refl s
    next i lowest =>
      have allocated := fun b => (refl s).allocate ((s.lowestFree_eq_some_iff i).1 lowest).1 b
      unfold State.armInto
      split
      · exact refl s
      · exact refl s
      · exact allocated _
      · exact allocated _
      · exact (allocated _).fire ..

theorem retimeArmed {i : EntryIx} {b : Body} (hb : (s.entry i).body = some b) (due : Nat) (d : Definition) (late : Bool) :
    DeliveryKept s (s.retimeArmed i b due d late).1 := by
  unfold State.retimeArmed
  split
  · exact refl s
  · exact refl s
  · exact (refl s).retimed hb ..
  · exact (refl s).retimed hb ..
  · exact ((refl s).retimed hb ..).fire ..

theorem retimeHeld {i : EntryIx} {b : Body} (hb : (s.entry i).body = some b) (due : Nat) (d : Definition) (late : Bool) :
    DeliveryKept s (s.retimeHeld i b due d late).1 := by
  unfold State.retimeHeld
  split
  · exact refl s
  · exact refl s
  all_goals exact (refl s).retimed hb ..

theorem blockRetimeEntry (p : Port) (index inst : Byte) (block : DefBlock) (late : Byte) :
    DeliveryKept s (blockRetimeEntry p index inst block late s).1 := by
  unfold Sys2Proof.Machine.blockRetimeEntry
  split
  · exact refl s
  all_goals
    refine State.withOwned_cases (P := fun x => DeliveryKept s x.1) (fun _ => refl s) fun i b hb => ?_
    split
    · refine ite_fst (refl s) ?_
      split
      · exact retimeArmed hb ..
      · exact retimeHeld hb ..
      · exact (refl s).retimed hb ..
      all_goals exact refl s
    all_goals exact refl s

theorem blockHoldEntry (p : Port) (index inst : Byte) : DeliveryKept s (blockHoldEntry p index inst s).1 := by
  refine State.withOwned_cases (P := fun x => DeliveryKept s x.1) (fun _ => refl s) fun i b hb => ?_
  split
  · exact (refl s).setRun hb _
  · exact (refl s).setRun hb _
  all_goals exact refl s

theorem blockUnholdEntry (p : Port) (index inst : Byte) : DeliveryKept s (blockUnholdEntry p index inst s).1 := by
  refine State.withOwned_cases (P := fun x => DeliveryKept s x.1) (fun _ => refl s) fun i b hb => ?_
  split
  · exact (refl s).setRun hb _
  · exact ((refl s).setRun hb _).trans ((Underway.refl _).resolveWithin i).endGone
  all_goals exact refl s

theorem blockCancelEntry (p : Port) (index inst : Byte) : DeliveryKept s (blockCancelEntry p index inst s).1 :=
  State.withOwned_cases (P := fun x => DeliveryKept s x.1) (fun _ => refl s) fun i _ _ =>
    ((Underway.refl s).vacate i).endGone

theorem blockSetQuota (p : Port) (target quota : Byte) : DeliveryKept s (blockSetQuota p target quota s).1 := by
  refine ite_fst (refl s) ?_
  split
  · exact refl s
  · refine ite_fst (refl s) ((refl s).same (fun _ => .refl _) (fun _ => rfl) fun p src => ?_)
    exact (State.carries_congr (fun _ => rfl) (fun _ => rfl) (fun _ => rfl) p src).2

/-! ## The capture unit (Chapter 7) -/

theorem blockClaimChannel (p : Port) (channel : Byte) : DeliveryKept s (blockClaimChannel p channel s).1 := by
  unfold Sys2Proof.Machine.blockClaimChannel State.withChannel
  split
  · exact refl s
  next c _ =>
    dsimp only
    split
    next free => exact (refl s).setChannel c (fun q owned => by rw [free] at owned; cases owned) id
    · exact ite_fst (refl s) (refl s)

/-- A channel that is changed ends the subscriptions to it of the ports that no longer hear it (R136, R137, R159). -/
theorem endChannel {c : ChanNo} {x : Channel} {test : Subscription → Bool}
    (hears : ∀ v : Subscription, test v = false → v.source = .channel c → s.Carries v.subscriber (.channel c) →
      x.owner = some v.subscriber ∨ x.shareable = true) : DeliveryKept s ((s.setChannel c x).endSubs test) := by
  have only := (s.setChannel c x).endSubs_only test
  have ports : ∀ p, (s.port p).Delivers (((s.setChannel c x).endSubs test).port p) := fun p => by
    rw [State.port_endSubs]; exact PortUnit.storesIf_delivers ..
  refine .of_serves (fun p => (ports p).queue) fun j v hv => ?_
  obtain ⟨used, stays⟩ := ((s.setChannel c x).sub_endSubs test).sub_of_some hv
  refine ⟨used, fun served => served.of_carries (State.attached_of_delivers (ports _)) fun before => ?_⟩
  refine (State.carries_congr (only.entry · (by decide)) (fun d => by rw [only.channel d (by decide)])
    (fun d => by rw [only.channel d (by decide)]) ..).2 ?_
  cases source : v.source with
  | channel d =>
    rw [source] at before
    change ((s.setChannel c x).channel d).owner = some v.subscriber ∨ ((s.setChannel c x).channel d).shareable = true
    rw [State.channel_setChannel]
    split
    next same => subst same; exact hears v stays source before
    · exact before
  | entry i inst =>
    rw [source] at before
    exact before

theorem blockReleaseChannel (p : Port) (channel : Byte) : DeliveryKept s (blockReleaseChannel p channel s).1 := by
  refine State.withOwnChannel_cases (P := fun x => DeliveryKept s x.1) (fun _ => refl s) fun c own => ?_
  have released : DeliveryKept s (s.releaseChannel c) := by
    rw [State.releaseChannel_eq own]
    exact endChannel fun v stays source _ => absurd source (of_decide_eq_false stays)
  exact ite_fst (refl s) released

theorem shareChannel {p : Port} {c : ChanNo} (own : (s.channel c).owner = some p) (share : Bool) :
    DeliveryKept s (s.shareChannel p c share) := by
  have shared : DeliveryKept s (s.setChannel c { s.channel c with shareable := true }) :=
    (refl s).setChannel c (fun _ => id) fun _ => rfl
  refine shared.ite (ite (endChannel fun v stays source _ => ?_) (refl s))
  rw [decide_eq_true source, Bool.true_and] at stays
  exact .inl (own.trans (congrArg some (not_not.1 (of_decide_eq_false stays)).symm))

theorem blockShareChannel (p : Port) (channel flag : Byte) : DeliveryKept s (blockShareChannel p channel flag s).1 := by
  unfold Sys2Proof.Machine.blockShareChannel
  split
  · exact State.withOwnChannel_cases (P := fun x => DeliveryKept s x.1) (fun _ => refl s) fun c own => shareChannel own _
  all_goals exact refl s

theorem blockConfigureChannel (p : Port) (c m e src l : Byte) :
    DeliveryKept s (blockConfigureChannel p c m e src l s).1 := by
  unfold Sys2Proof.Machine.blockConfigureChannel
  split
  · exact refl s
  next k _ =>
    exact ite_fst (refl s) <| ite_fst (refl s) <| ite_fst (refl s) <|
      (refl s).setChannel k.channel (x := (s.channel k.channel).configured k) (fun _ => id) id

theorem blockStartChannel (p : Port) (channel : Byte) : DeliveryKept s (blockStartChannel p channel s).1 := by
  refine State.withOwnChannel_cases (P := fun x => DeliveryKept s x.1) (fun _ => refl s) fun c _ => ?_
  obtain ⟨owner, shareable⟩ := (s.channel c).started_owner_shareable
  exact (refl s).setChannel c (fun _ owned => owner.trans owned) fun shared => shareable.trans shared

theorem blockStopChannel (p : Port) (channel : Byte) : DeliveryKept s (blockStopChannel p channel s).1 :=
  State.withOwnChannel_cases (P := fun x => DeliveryKept s x.1) (fun _ => refl s) fun c _ =>
    (refl s).setChannel c (x := (s.channel c).stopped) (fun _ => id) id

theorem blockSetReload (p : Port) (channel : Byte) (reload : BitVec 16) :
    DeliveryKept s (blockSetReload p channel reload s).1 :=
  ite_fst (refl s) <| State.withOwnChannel_cases (P := fun x => DeliveryKept s x.1) (fun _ => refl s) fun c _ =>
    (refl s).setChannel c (x := (s.channel c).reloaded reload.toNat) (fun _ => id) id

/-! ## The delivery unit (Chapter 8) -/

theorem blockSubscribe {p : Port} (attached : s.attached p = true) (k a b ks l : Byte) :
    DeliveryKept s (blockSubscribe p k a b ks l s).1 := by
  unfold Sys2Proof.Machine.blockSubscribe
  split
  next src level _ hl =>
    by_cases stands : s.sourceStands src = false
    · rw [if_pos stands]; exact refl s
    · rw [if_neg stands]
      by_cases hears : s.mayHear p src = false
      · rw [if_pos hears]; exact refl s
      · rw [if_neg hears]
        unfold State.placeSub
        split
        · exact refl s
        · refine (refl s).setSub _ fun v hv => ?_
          cases hv
          unfold levelOf at hl
          split at hl
          next within =>
            cases hl
            exact ⟨attached, within,
              State.carries_of_allowed (Bool.eq_true_of_not_eq_false stands) (Bool.eq_true_of_not_eq_false hears)⟩
          · cases hl
  all_goals exact refl s

theorem blockUnsubscribe (p : Port) (index : Byte) : DeliveryKept s (blockUnsubscribe p index s).1 := by
  unfold Sys2Proof.Machine.blockUnsubscribe
  split
  · exact refl s
  · split
    · exact refl s
    · exact ite_fst ((refl s).setSub _ nofun) (refl s)

theorem blockTakeRecord (p : Port) : DeliveryKept s (blockTakeRecord p s).1 := by
  unfold Sys2Proof.Machine.blockTakeRecord
  split
  · exact refl s
  next c left queue =>
    refine (refl s).setPort p ⟨id, fun ordered => ?_⟩
    unfold PortUnit.QueueOrdered at ordered ⊢
    rw [queue] at ordered
    exact ⟨(Nat.le_succ _).trans ordered.1, ordered.2.of_cons⟩

theorem blockAckConditions (p : Port) (named : Byte) : DeliveryKept s (blockAckConditions p named s).1 :=
  ite_fst (refl s) ((refl s).setPort p (.of_eq rfl rfl))

theorem blockSetMask (p : Port) (mask : Byte) : DeliveryKept s (blockSetMask p mask s).1 :=
  ite_fst (refl s) ((refl s).setPort p (.of_eq rfl rfl))

theorem blockReadResetCause (p : Port) : DeliveryKept s (blockReadResetCause p s).1 :=
  (refl s).setPort p (.of_eq rfl rfl)

theorem blockDigest (p : Port) (scope content : Byte) : DeliveryKept s (blockDigest p scope content s).1 := by
  have begun : ∀ sc ct, DeliveryKept s (s.beginWalk p sc ct).1 := fun sc ct =>
    ((refl s).elsewhere (u := { s with digest := some (s.newWalk p sc ct) }) rfl rfl rfl rfl).setPort p ⟨nofun, id⟩
  unfold Sys2Proof.Machine.blockDigest
  split
  · exact ite_fst (refl s) (begun ..)
  all_goals exact refl s

end DeliveryKept

end Sys2Proof.Machine
end

section
/-! Every command and every step keeps the event queues in order and the subscriptions to sources that stand: a port that
gives everything up, the resets, the transactions, and then command by command (R156, R159 to R161, R169, R178 to R182, R185). -/

namespace Sys2Proof.Machine

/-! ## A port that gives everything up (R86, R151, R159, R182) -/

/-- A source that a port may hear stands after another port has given everything up, where that port did not own it. -/
theorem GaveUp.carries {p q : Port} {s t : State} (h : GaveUp p s t) {src : SubSource} (other : s.ownsSource p src = false)
    (before : s.Carries q src) : t.Carries q src := by
  cases src with
  | channel c =>
    change (t.channel c).owner = some q ∨ (t.channel c).shareable = true
    rw [h.channel, if_neg (of_decide_eq_false other)]
    exact before
  | entry j inst =>
    obtain ⟨handle, b, hb, hears⟩ := before
    have kept : j ∉ s.ownedEntries p := fun owned => by
      change (decide ((s.entry j).inst = inst) && (s.entry j).body.any fun b => decide (b.owner = p)) = false at other
      rw [decide_eq_true handle, Bool.true_and, (s.mem_ownedEntries p j).1 owned] at other
      cases other
    change (t.entry j).inst = inst ∧ _
    rw [h.entry, if_neg kept]
    exact ⟨handle, b, hb, hears⟩

/-- A port that gives everything up has no subscription left, and no queue once it is cleared; the others keep theirs. -/
theorem GaveUp.deliveryKept {p : Port} {s t v : State} (h : GaveUp p (s.setPortState p .resetHold) t)
    (only : OnlyChanges [.digest] t v) : DeliveryKept s (v.clearPort p) := by
  have unit : ∀ q, (v.clearPort p).port q = if q = p then (t.port p).cleared else t.port q := fun q => by
    rw [← only.port p (by decide), ← only.port q (by decide)]; exact v.port_setPort p q _
  have others : ∀ q, q ≠ p → (s.port q).Delivers ((v.clearPort p).port q) := fun q hq => by
    rw [unit, if_neg hq, h.port, show (s.setPortState p .resetHold).port q = s.port q from
      (s.port_setPort p q _).trans (if_neg hq)]
    exact (PortUnit.storesIf_delivers ..).trans (PortUnit.raisedIf_delivers ..)
  refine .of_serves (fun q before => ?_) fun j u hu => ?_
  · by_cases own : q = p
    · rw [unit, if_pos own]; exact .of_empty rfl
    · exact (others q own).queue before
  · obtain ⟨used, stays⟩ := h.subs.sub_of_some ((only.sub j (by decide)).symm.trans hu)
    obtain ⟨other, foreign⟩ := Bool.or_eq_false_iff.1 stays
    refine ⟨used, fun served => served.of_carries
      (State.attached_of_delivers (others _ (of_decide_eq_false other))) fun before => ?_⟩
    exact (State.carries_congr (only.entry · (by decide)) (fun c => by rw [← only.channel c (by decide)])
      (fun c => by rw [← only.channel c (by decide)]) ..).2
      (h.carries foreign before)

/-! ## Resets, transactions and commands -/

namespace DeliveryKept

variable {s t : State}

theorem portGone (h : DeliveryKept s t) (p : Port) : DeliveryKept s (t.portGone p) :=
  h.trans ((State.giveUp_gaveUp _ p).deliveryKept (State.abandonWalk_only ..))

/-- A port that is READY keeps its queue. -/
theorem setReady (h : DeliveryKept s t) (p : Port) : DeliveryKept s (t.setPortState p .ready) := h.setPort p ⟨nofun, id⟩

theorem addCauseAt (h : DeliveryKept s t) (p : Port) (c : ResetCause) : DeliveryKept s (t.addCauseAt p c) :=
  h.setPort p (.of_eq rfl rfl)

theorem blockDetach (p : Port) : DeliveryKept s (blockDetach p s).1 :=
  (((State.giveUp_gaveUp _ p).deliveryKept (.refl ..)).setReady p).addCauseAt p .detach

/-- In reset every queue is empty and no subscription is in use. -/
theorem of_held (s : State) {t : State} (h : HeldInReset t) : DeliveryKept s t :=
  of_serves (fun p _ => .of_empty (by rw [h.ports p])) fun j u hu => by rw [h.subs j] at hu; cases hu

theorem powerOn (s t : State) (straps : BitVec 3) (causes : BitVec 5) : DeliveryKept s (t.powerOn straps causes) := by
  have up : HeldInReset { t.resetMain with pins := { t.pins with mainSupply := true }, leaveCauses := causes } :=
    t.resetMain_held.of_only (ps := [.pins, .leaveCauses])
      ⟨fun q hq => by cases q <;> first | rfl | exact absurd (by decide) hq⟩
  refine ite (of_held s up) (of_serves (fun p _ => .of_empty (by rw [State.port_leaveReset])) fun j u hu => ?_)
  rw [(State.leaveReset_only ..).sub j (by decide), up.subs j] at hu
  cases hu

theorem shiftOut (h : DeliveryKept s t) (p : Port) (bs : List Byte) : DeliveryKept s (t.shiftOut p bs) :=
  h.setPort p (.of_eq rfl rfl)

theorem setSlot (h : DeliveryKept s t) (p : Port) (x : Slot) : DeliveryKept s (t.setSlot p x) :=
  h.setPort p (.of_eq rfl rfl)

theorem refuseFrame (h : DeliveryKept s t) (p : Port) (n : Nat) (x : Status) : DeliveryKept s (t.refuseFrame p n x) := by
  unfold State.refuseFrame
  split
  · exact h.shiftOut ..
  · exact h.shiftOut ..
  · exact (h.shiftOut ..).setSlot ..

theorem fetchAt (h : DeliveryKept s t) (p : Port) (n : Nat) : DeliveryKept s (t.fetchAt p n) := by
  have opened : (t.port p).Delivers (t.port p).opened := by
    by_cases high : (t.port p).transfer = .idle
    · rw [PortUnit.opened_high high]; exact .of_eq rfl rfl
    · rw [PortUnit.opened_low high]; exact .refl _
  have fetched : DeliveryKept s (t.setPort p ((t.port p).fetched n)) := h.setPort p (.of_eq rfl rfl)
  unfold State.fetchAt
  split
  · exact h.setPort p opened
  · split
    · exact h.shiftOut ..
    · exact fetched
    · exact fetched

/-- A request, where its block keeps them at a port that is READY. -/
theorem request (p : Port) (n : Nat) {block : State → State × Option Response}
    (keeps : ∀ u, u.attached p = true → DeliveryKept u (block u).1) : DeliveryKept s (s.request p n block) := by
  unfold State.request
  split
  · exact (refl s).shiftOut ..
  · exact (refl s).shiftOut ..
  next hears =>
    have attached : s.attached p = true := State.attached_iff.2 (PortUnit.state_of_hears (by rw [hears]; nofun))
    have kept := ((refl s).shiftOut p ((s.port p).requestMiso (n + 3))).trans
      (keeps _ ((s.attached_shiftOut p p _).trans attached))
    split <;> rename_i e <;> rw [e] at kept
    · exact kept.setSlot ..
    · exact kept

end DeliveryKept

/-- Every command but a transaction's bytes and the leaving of reset keeps the event queues and the subscriptions. -/
theorem exec_deliveryKept_proper {i : Instr} {s t : State} (proper : ∀ p bs inc, i ≠ .badRequest p bs inc)
    (other : ∀ straps, i ≠ .partLeavesReset straps) (h : exec i s = .next t) : DeliveryKept s t := by
  have same : DeliveryKept s s := .refl s
  have alone : ∀ {p n block ps}, (∀ u, OnlyChanges ps u (block u).1) →
      (Part.ports ∉ ps ∧ Part.subs ∉ ps ∧ Part.channels ∉ ps ∧ Part.schedule ∉ ps) →
      DeliveryKept s (s.request p n block) :=
    fun only n => .request _ _ fun u _ => (DeliveryKept.refl u).next (only u) n
  have frame := exec_changes_proper h proper
  cases i
  all_goals dsimp only [commandParts] at frame
  case badRequest p bs inc => exact absurd rfl (proper p bs inc)
  case partLeavesReset straps => exact absurd rfl (other straps)
  case claimAuthority p key => cases h; exact .request p _ fun _ _ => .blockClaimAuthority p key
  case releaseAuthority p => cases h; exact .request p _ fun _ _ => .blockReleaseAuthority p
  case setKey p key => cases h; exact alone (blockSetKey_only p key) (by decide)
  case setTime p sec us => cases h; exact .request p _ fun _ _ => .blockSetTime p sec us
  case step p amount => cases h; exact .request p _ fun _ _ => .blockStep p amount
  case slew p amount => cases h; exact .request p _ fun _ _ => .blockSlew p amount
  case cancelAdjust p => cases h; exact .request p _ fun _ _ => .blockCancelAdjust p
  case selectSource p v => cases h; exact alone (blockSelectSource_only p v) (by decide)
  case resumeReference p => cases h; exact .request p _ fun _ _ => .blockResumeReference p
  case clearBackup p => cases h; exact .request p _ fun _ _ => .blockClearBackup p
  case armEntry p f => cases h; exact .request p _ fun _ _ => .blockArmEntry p f
  case retimeEntry p a b d late => cases h; exact .request p _ fun _ _ => .blockRetimeEntry p a b d late
  case holdEntry p a b => cases h; exact .request p _ fun _ _ => .blockHoldEntry p a b
  case unholdEntry p a b => cases h; exact .request p _ fun _ _ => .blockUnholdEntry p a b
  case cancelEntry p a b => cases h; exact .request p _ fun _ _ => .blockCancelEntry p a b
  case readEntry p a b => cases h; exact alone (blockReadEntry_only a b) (by decide)
  case listEntries p sc start => cases h; exact alone (blockListEntries_only p sc start) (by decide)
  case setQuota p a q => cases h; exact .request p _ fun _ _ => .blockSetQuota p a q
  case digest p sc ct => cases h; exact .request p _ fun _ _ => .blockDigest p sc ct
  case claimLine p l => cases h; exact alone (blockClaimLine_only p l) (by decide)
  case releaseLine p l => cases h; exact alone (blockReleaseLine_only p l) (by decide)
  case pinLine p l => cases h; exact alone (blockPinLine_only p l) (by decide)
  case configureLine p l idle w limit => cases h; exact alone (blockConfigureLine_only p l idle w limit) (by decide)
  case driveLine p l a => cases h; exact alone (blockDriveLine_only p l a) (by decide)
  case readLine p l => cases h; exact alone (blockReadLine_only l) (by decide)
  case claimChannel p c => cases h; exact .request p _ fun _ _ => .blockClaimChannel p c
  case releaseChannel p c => cases h; exact .request p _ fun _ _ => .blockReleaseChannel p c
  case shareChannel p c f => cases h; exact .request p _ fun _ _ => .blockShareChannel p c f
  case configureChannel p c m e src l => cases h; exact .request p _ fun _ _ => .blockConfigureChannel p c m e src l
  case startChannel p c => cases h; exact .request p _ fun _ _ => .blockStartChannel p c
  case stopChannel p c => cases h; exact .request p _ fun _ _ => .blockStopChannel p c
  case setReload p c r => cases h; exact .request p _ fun _ _ => .blockSetReload p c r
  case readChannel p c => cases h; exact alone (blockReadChannel_only c) (by decide)
  case subscribe p k a b ks l => cases h; exact .request p _ fun _ attached => .blockSubscribe attached k a b ks l
  case unsubscribe p index => cases h; exact .request p _ fun _ _ => .blockUnsubscribe p index
  case takeRecord p => cases h; exact .request p _ fun _ _ => .blockTakeRecord p
  case ackConditions p c => cases h; exact .request p _ fun _ _ => .blockAckConditions p c
  case setMask p m => cases h; exact .request p _ fun _ _ => .blockSetMask p m
  case readResetCause p => cases h; exact .request p _ fun _ _ => .blockReadResetCause p
  case readTime | readCalendar | readAdjust | readClock | readConditions | identify =>
    cases h; exact .request _ _ fun u _ => .refl u
  case detach p => cases h; exact .request p _ fun _ _ => .blockDetach p
  case fetch p n => cases h; exact same.fetchAt p n
  case portReset p =>
    cases h
    have low := same.next (s.setPrst_only p .low) (by decide)
    exact (low.portGone p).ite low
  case portLeavesResetHold p =>
    cases h
    have high := same.next (s.setPrst_only p .high) (by decide)
    exact ((high.setReady p).addCauseAt p .portReset).ite high
  case deviceReset =>
    cases h
    exact (DeliveryKept.of_held s s.takeReset_held.1).ite (same.next (s.holdReset_only true) (by decide))
  case powerOnRetained straps | powerOnBackupLost straps => cases h; exact (DeliveryKept.powerOn ..).ite same
  case mainSupplyLoss => cases h; exact (DeliveryKept.of_held s s.losePower_held.1).ite same
  case backupSupplyLoss | backupSupplyReturn => exact same.next frame (by decide)
  case timebaseAdvance part =>
    cases h
    cases part with
    | whole first | count first => exact same.micro ..
    | firings first => exact same.finishAdvance first
  case slewBlockEnd part | slewEnd part =>
    cases h
    cases part with
    | whole first | count first => exact (same.runMicro ..).ite same
    | firings first => exact same.finishAdvance first
  case referenceEdge gap => cases h; exact (same.takeReferenceEdge gap).ite same
  case windowEnd => cases h; exact same.endWindow.ite same
  case referenceLoss => cases h; exact same.loseReference.ite same
  case pulseEnd l => cases h; exact (same.next (s.endPulse_only l) (by decide)).ite same
  case holdExpiry l => cases h; exact (same.expireHold l).ite same
  case capturePinChange c x => cases h; exact (same.filterRaw c x).ite (same.next (s.setRaw_only c x) (by decide))
  case edgeTaken c => cases h; exact (same.takeEdge c).ite same
  case measurementOverflow c => cases h; exact (same.overflowMeasure c).ite same
  case counterExpiry c => cases h; exact (same.countEvent c).ite same
  case digestExamineIndex => cases h; exact same.examineNext.ite same

/-- Every command but the leaving of reset keeps them: a transaction's bytes end it, refuse it, fetch, or run the request
that they spell (R180), which is no event of the pins. -/
theorem exec_deliveryKept {i : Instr} {s t : State} (other : ∀ straps, i ≠ .partLeavesReset straps)
    (h : exec i s = .next t) : DeliveryKept s t := by
  have same : DeliveryKept s s := .refl s
  by_cases frame : ∃ p bs inc, i = .badRequest p bs inc
  · obtain ⟨p, bs, inc, rfl⟩ := frame
    change s.transact p bs.length (decodeFrame p bs inc) = .next t at h
    cases e : decodeFrame p bs inc <;> rw [e] at h
    case nothing => cases h; exact same.setPort p (.of_eq rfl rfl)
    case fetch k => cases h; exact same.fetchAt p k
    case frameError | badRequest | badArg => cases h; exact same.refuseFrame ..
    case request i =>
      obtain kept | ⟨run, proper, parts⟩ := dispatchRequest_cases i s
      · cases kept.symm.trans h; exact same
      · refine exec_deliveryKept_proper proper (fun straps e => ?_) (run.symm.trans h)
        subst e
        exact absurd (parts .leaveCauses (by dsimp only [commandParts]; decide)) (by decide)
  · exact exec_deliveryKept_proper (fun p bs inc e => frame ⟨p, bs, inc, e⟩) other h

/-- The part leaves reset with every queue as it was, or empty (R169). -/
theorem execPartLeavesReset_queues {straps : BitVec 3} {s t : State} (h : execPartLeavesReset straps s = .next t)
    (before : QueuesOrdered s) : QueuesOrdered t := by
  cases h
  refine iteInduction (fun _ => iteInduction (fun _ p => ?_) fun _ => before) fun _ => before
  rw [State.port_leaveReset]
  exact PortUnit.QueueOrdered.of_empty (u := { s.port p with queue := [] }) rfl

/-- A part that is held in reset has no port attached, and so no subscription in use, as it leaves reset. -/
theorem execPartLeavesReset_subs {straps : BitVec 3} {s t : State} (h : execPartLeavesReset straps s = .next t)
    (ports : PortsConsistent s) (before : SubsConsistent s) : SubsConsistent t := by
  cases h
  refine iteInduction (fun held => ?_) fun _ => before
  have off : s.running = false := by unfold State.running; rw [held, Bool.not_true, Bool.and_false]
  have none : ∀ j u, s.sub j ≠ some u := fun j u used =>
    State.attached_iff.1 (before j u used).1 ((portsConsistent_iff.1 ports).resting off _)
  refine iteInduction (fun _ j u used => ?_) fun _ => before
  exact absurd (((s.holdReset false).leaveReset_only straps).sub j (by decide) |>.symm.trans used) (none j u)

/-- Settles O53, command by command. -/
theorem stepsKeepQueuesOrdered : Obligations.StepsKeepQueuesOrdered := by
  intro s t before h
  refine step_keeps (P := QueuesOrdered) (Q := fun _ => True) (fun _ _ k => k) (fun _ _ k => k) (fun i u v run _ k => ?_) h
    trivial before
  by_cases reset : ∃ straps, i = .partLeavesReset straps
  · obtain ⟨straps, rfl⟩ := reset
    exact execPartLeavesReset_queues run k
  · exact fun p => (exec_deliveryKept (fun straps e => reset ⟨straps, e⟩) run).queues p (k p)

/-- Settles O60, command by command: as the part leaves reset no port is attached yet. -/
theorem stepsKeepSubsConsistent : Obligations.StepsKeepSubsConsistent := by
  intro s t ports before h
  refine step_keeps (P := SubsConsistent) (Q := PortsConsistent) (fun _ _ k => k) (fun _ _ k => k)
    (fun i u v run q k => ?_) h ports before
  by_cases reset : ∃ straps, i = .partLeavesReset straps
  · obtain ⟨straps, rfl⟩ := reset
    exact execPartLeavesReset_subs run q k
  · exact (exec_deliveryKept (fun straps e => reset ⟨straps, e⟩) run).subs k

end Sys2Proof.Machine
end

section
/-! The event queue, the condition set, the mask and the notice of a port: how a copy is stored, and the requests that a port
makes of them (R160 to R168). -/

namespace Sys2Proof.Machine

/-! ## Requests that replace the unit of their port -/

/-- The unit of a port at which a transaction has ended. -/
theorem State.port_shiftOut_own (s : State) (p : Port) (bs : List Byte) :
    (s.shiftOut p bs).port p = { s.port p with miso := bs, transfer := .idle } :=
  (s.port_shiftOut p p bs).trans (if_pos rfl)

/-- A request answered OK that replaces its port's unit and changes nothing else. -/
theorem State.request_setsPort {s : State} {p : Port} (ready : Ready s p) {n : Nat}
    {block : State → State × Option Response} {u : PortUnit} {fields : List Byte}
    (hb : block (s.shiftOut p ((s.port p).requestMiso (n + 3))) =
      ((s.shiftOut p ((s.port p).requestMiso (n + 3))).setPort p u).answer .ok fields) :
    OnlyChanges [.ports] s (s.request p n block) ∧
      PortBecomes p { u with slot := .ready { status := .ok, fields := fields } } s (s.request p n block) := by
  rw [State.request_answered ready n hb]
  refine ⟨((State.setPort_only ..).trans (State.setPort_only ..)).trans (State.setPort_only ..), ?_, fun q hq => ?_⟩
  · rw [State.port_setSlot, if_pos rfl, State.port_setPort, if_pos rfl]
  · rw [State.port_setSlot, if_neg hq, State.port_setPort, if_neg hq, State.port_shiftOut, if_neg hq]

/-! ## TAKE_RECORD (R162) -/

theorem blockTakeRecord_of_empty {s : State} {p : Port} (h : (s.port p).queue = []) :
    blockTakeRecord p s = s.refuse .empty := by
  unfold blockTakeRecord
  rw [h]

theorem blockTakeRecord_of_cons {s : State} {p : Port} {c : Copy} {left : List Copy} (h : (s.port p).queue = c :: left) :
    blockTakeRecord p s = (s.setPort p { s.port p with queue := left }).answer .ok
      (c.bytes ++ [byteOf left.length, levelByte (queueTop left)]) := by
  unfold blockTakeRecord
  rw [h]
  rfl

/-- Settles O17: the first copy of a queue in order is one of its highest level. -/
theorem takeRecordTakesFirstCopy : Obligations.TakeRecordTakesFirstCopy := by
  intro p s ready
  have own := s.port_shiftOut_own p ((s.port p).requestMiso (0 + 3))
  refine ⟨_, rfl, ?_⟩
  cases queue : (s.port p).queue with
  | nil => exact State.request_refused ready 0 _ (blockTakeRecord_of_empty (by rw [own]; exact queue))
  | cons c left =>
    have block := blockTakeRecord_of_cons (s := s.shiftOut p _) (p := p) (by rw [own]; exact queue)
    rw [own] at block
    obtain ⟨only, becomes⟩ := State.request_setsPort ready block
    exact ⟨only, fun ordered x hx => List.rel_of_pairwise_cons ordered hx, becomes⟩

/-! ## Conditions, mask and notice (R165 to R168) -/

theorem Condition.mem_all (k : Condition) : k ∈ Condition.all := by cases k <;> decide

/-- The notice is asserted for a condition or a copy of a level above the mask (R168). -/
theorem PortUnit.notice_iff (u : PortUnit) :
    u.notice = true ↔ (∃ k, u.holds k = true ∧ u.mask < k.level) ∨ ∃ c ∈ u.queue, u.mask < c.level := by
  unfold PortUnit.notice
  rw [Bool.or_eq_true_iff, List.any_eq_true, List.any_eq_true]
  simp only [Condition.mem_all, true_and, Bool.and_eq_true_iff, decide_eq_true_eq]

theorem PortUnit.ntc_low_iff (u : PortUnit) : u.ntc = .low ↔ u.notice = true := by
  unfold PortUnit.ntc
  cases u.notice <;> decide

/-- Bit 7 names no kind (R187). -/
theorem blockAckConditions_of_kinds {named : Byte} (kinds : ¬ named.getLsbD 7 = true) (s : State) (p : Port) :
    blockAckConditions p named s = (s.setPort p ((s.port p).acknowledge named)).answer .ok
      [((s.port p).acknowledge named).conditions.setWidth 8] := if_neg kinds

theorem blockSetMask_of_level {mask : Byte} (level : ¬ 6 < mask.toNat) (s : State) (p : Port) :
    blockSetMask p mask s = (s.setPort p ((s.port p).withMask mask.toNat)).answer .ok
      [mask, flagByte ((s.port p).withMask mask.toNat).notice] := if_neg level

/-- Settles O16: READ_CONDITIONS, ACK_CONDITIONS and SET_MASK each in the order of its rule. -/
theorem conditionsAckedAndMasked : Obligations.ConditionsAckedAndMasked := by
  refine ⟨fun u => ⟨u.notice_iff, u.ntc_low_iff⟩, fun p v s ready => ⟨⟨_, rfl, ?_⟩, ⟨_, rfl, ?_⟩, ⟨_, rfl, ?_⟩⟩⟩
  · refine State.request_reported ready 0 _ ?_
    unfold blockReadConditions
    rw [State.port_shiftOut_own]
    rfl
  · by_cases bit7 : v.getLsbD 7 = true
    · rw [if_pos bit7]
      exact State.request_refused ready 1 _ (if_pos bit7)
    · rw [if_neg bit7]
      have block := blockAckConditions_of_kinds bit7 (s.shiftOut p ((s.port p).requestMiso (1 + 3))) p
      rw [State.port_shiftOut_own] at block
      exact State.request_setsPort ready block
  · by_cases above : 6 < v.toNat
    · rw [if_pos above]
      exact State.request_refused ready 1 _ (if_pos above)
    · rw [if_neg above]
      have block := blockSetMask_of_level above (s.shiftOut p ((s.port p).requestMiso (1 + 3))) p
      rw [State.port_shiftOut_own] at block
      exact State.request_setsPort ready block

/-! ## How a copy is stored (R160, R161) -/

theorem PortUnit.raise_queueOverrun (u : PortUnit) :
    u.raise .queueOverrun = { u with conditions := u.conditions ||| 0x10#7 } := rfl

theorem PortUnit.storeCopy_of_room {u : PortUnit} (room : u.queue.length < 32) (c : Copy) :
    u.storeCopy c = { u with queue := insertCopy { c with gap := u.gapPending } u.queue, gapPending := false } := if_pos room

theorem lowestLevel_append (front : List Copy) (z : Copy) : lowestLevel (front ++ [z]) = z.level := by
  unfold lowestLevel
  rw [List.getLast?_concat]
  rfl

/-- A copy handed to a full queue displaces its last copy where that is of a lower level, and is lost otherwise. -/
theorem PortUnit.storeCopy_of_full {u : PortUnit} {front : List Copy} {z : Copy} (queue : u.queue = front ++ [z])
    (full : u.queue.length = 32) (c : Copy) :
    u.storeCopy c = if z.level < c.level then
        { u with queue := insertCopy { c with gap := true } front, gapPending := false,
                 conditions := u.conditions ||| 0x10#7 }
      else { u with gapPending := true, conditions := u.conditions ||| 0x10#7 } := by
  have noRoom : ¬ u.queue.length < Config.queueCapacity := by rw [full]; decide
  unfold PortUnit.storeCopy
  rw [if_neg noRoom, queue, lowestLevel_append, List.dropLast_concat, PortUnit.raise_queueOverrun,
    PortUnit.raise_queueOverrun]

/-- Settles O18: an ordered queue takes a copy behind those of its level and above. -/
theorem copiesStoredByLevel : Obligations.CopiesStoredByLevel := by
  intro c u ordered _
  refine ⟨fun room => ?_, fun front z queue full => ⟨fun lower => ?_, fun lost => ?_⟩⟩
  · rw [PortUnit.storeCopy_of_room room, insertCopy_ordered _ _ ordered]
  · have first : front.Pairwise fun a b => b.level ≤ a.level := (List.pairwise_append.1 (queue ▸ ordered)).1
    rw [PortUnit.storeCopy_of_full queue full, if_pos lower, insertCopy_ordered _ _ first]
  · rw [PortUnit.storeCopy_of_full queue full, if_neg (Nat.not_lt.2 lost)]

end Sys2Proof.Machine
end

section
/-! SUBSCRIBE and UNSUBSCRIBE (R156 to R158, log 17). -/

namespace Sys2Proof.Machine

/-! ## The fields of SUBSCRIBE -/

theorem captureKinds_iff (kinds : Byte) : captureKinds kinds = true ↔ kinds ≠ 0 ∧ kinds.getLsbD 7 = false := by
  unfold captureKinds
  rw [Bool.and_eq_true_iff, bne_iff_ne, Bool.not_eq_true']

theorem subSourceOf_channel {kind a kinds : Byte} (b : Byte)
    (h : kind = 0 ∧ a.toNat < 8 ∧ kinds ≠ 0 ∧ kinds.getLsbD 7 = false) :
    subSourceOf kind a b kinds = some (.channel ⟨a.toNat, h.2.1⟩) := by
  obtain ⟨rfl, number, capture⟩ := h
  unfold subSourceOf
  rw [if_pos rfl, channelOf_of_lt number]
  exact if_pos ((captureKinds_iff kinds).2 capture)

theorem subSourceOf_entry {kind a kinds : Byte} (b : Byte) (h : kind = 1 ∧ a.toNat < 64 ∧ kinds = 0x80) :
    subSourceOf kind a b kinds = some (.entry ⟨a.toNat, h.2.1⟩ b) := by
  obtain ⟨rfl, index, rfl⟩ := h
  unfold subSourceOf entryOf
  rw [if_neg (by decide), if_pos rfl, dif_pos index]
  exact if_pos rfl

theorem subSourceOf_badArg {kind a kinds : Byte} (b : Byte)
    (channel : ¬ (kind = 0 ∧ a.toNat < 8 ∧ kinds ≠ 0 ∧ kinds.getLsbD 7 = false))
    (entry : ¬ (kind = 1 ∧ a.toNat < 64 ∧ kinds = 0x80)) : subSourceOf kind a b kinds = none := by
  unfold subSourceOf entryOf
  by_cases zero : kind = 0
  · rw [if_pos zero]
    by_cases number : a.toNat < 8
    · rw [channelOf_of_lt number]
      exact if_neg fun capture => channel ⟨zero, number, (captureKinds_iff kinds).1 capture⟩
    · rw [channelOf_of_not_lt number]
  · rw [if_neg zero]
    by_cases one : kind = 1
    · rw [if_pos one]
      by_cases index : a.toNat < 64
      · rw [dif_pos index]
        exact if_neg fun firings => entry ⟨one, index, firings⟩
      · rw [dif_neg index]
    · rw [if_neg one]

theorem levelOf_of_mem {b : Byte} (h : ¬ (b = 0 ∨ 7 < b.toNat)) : levelOf b = some b.toNat := by
  rw [levelOf_eq, if_pos]
  obtain ⟨nonzero, high⟩ := not_or.1 h
  exact ⟨Nat.pos_of_ne_zero fun zero => nonzero (BitVec.eq_of_toNat_eq zero), Nat.not_lt.1 high⟩

theorem levelOf_of_not_mem {b : Byte} (h : b = 0 ∨ 7 < b.toNat) : levelOf b = none := by
  rw [levelOf_eq, if_neg]
  rintro ⟨low, high⟩
  obtain rfl | above := h
  · exact absurd low (by decide)
  · exact absurd high (Nat.not_le.2 above)

/-! ## The subscription table -/

theorem State.lowestFreeSub_eq_find? (s : State) : s.lowestFreeSub = Fin.find? fun j => (s.sub j).isNone := by
  unfold State.lowestFreeSub allSubs
  rw [Fin.find?_eq_find?_finRange]

theorem State.lowestFreeSub_eq_none_iff (s : State) : s.lowestFreeSub = none ↔ ∀ j, s.sub j ≠ none := by
  rw [State.lowestFreeSub_eq_find?, Fin.find?_eq_none_iff]
  exact forall_congr' fun _ => Option.isNone_eq_false_iff.trans Option.isSome_iff_ne_none

theorem State.lowestFreeSub_eq_some_iff (s : State) (j : SubIx) :
    s.lowestFreeSub = some j ↔ s.sub j = none ∧ ∀ k, k < j → s.sub k ≠ none := by
  rw [State.lowestFreeSub_eq_find?, Fin.find?_eq_some_iff, Option.isNone_iff_eq_none]
  exact and_congr_right fun _ => forall_congr' fun j => imp_congr_right fun _ =>
    Option.isNone_eq_false_iff.trans Option.isSome_iff_ne_none

theorem SubBecomes.setSub (s : State) (j : SubIx) (x : Option Subscription) : SubBecomes j x s (s.setSub j x) :=
  ⟨(s.sub_setSub j j x).trans (if_pos rfl), fun k hk => (s.sub_setSub j k x).trans (if_neg hk)⟩

/-- A request answered OK that replaces one subscription and changes nothing else but its port's slot. -/
theorem State.request_setsSub {s : State} {p : Port} (ready : Ready s p) {n : Nat}
    {block : State → State × Option Response} {j : SubIx} {x : Option Subscription} {fields : List Byte}
    (hb : block (s.shiftOut p ((s.port p).requestMiso (n + 3))) =
      ((s.shiftOut p ((s.port p).requestMiso (n + 3))).setSub j x).answer .ok fields) :
    OnlyChanges [.subs, .ports] s (s.request p n block) ∧ SubBecomes j x s (s.request p n block) ∧
      Replied p n { status := .ok, fields := fields } s (s.request p n block) := by
  obtain ⟨changes, replied⟩ := State.request_replied ready n hb (State.setSub_only ..)
  refine ⟨changes.mono (by decide), ?_, replied⟩
  rw [State.request_answered ready n hb]
  exact .setSub (s.shiftOut p _) j x

/-! ## SUBSCRIBE (R157) -/

theorem blockSubscribe_badLevel {level : Byte} (h : levelOf level = none) (p : Port) (kind a b kinds : Byte) (s : State) :
    blockSubscribe p kind a b kinds level s = s.refuse .badArg := by
  unfold blockSubscribe
  rw [h]
  cases subSourceOf kind a b kinds <;> rfl

theorem blockSubscribe_badSource {kind a b kinds : Byte} (h : subSourceOf kind a b kinds = none) (p : Port) (level : Byte)
    (s : State) : blockSubscribe p kind a b kinds level s = s.refuse .badArg := by
  unfold blockSubscribe
  rw [h]

theorem blockSubscribe_of_source {kind a b kinds level : Byte} {src : SubSource} {l : Nat}
    (source : subSourceOf kind a b kinds = some src) (hl : levelOf level = some l) (p : Port) (s : State) :
    blockSubscribe p kind a b kinds level s =
      if s.sourceStands src = false then s.refuse .notFound
      else if s.mayHear p src = false then s.refuse .notOwner
      else s.placeSub { subscriber := p, source := src, kinds := kinds, level := l } := by
  unfold blockSubscribe
  rw [source, hl]

/-- What SUBSCRIBE makes of the table where steps 1 to 3 of R157 let it: NO_ROOM, or the lowest free entry taken. -/
def SubPlaced (p : Port) (u : Subscription) (s t : State) : Prop :=
  if ∀ j, s.sub j ≠ none then Refused p 5 .noRoom s t
  else ∃ j, s.sub j = none ∧ (∀ k, k < j → s.sub k ≠ none) ∧ OnlyChanges [.subs, .ports] s t ∧
    SubBecomes j (some u) s t ∧ Replied p 5 { status := .ok, fields := [byteOf j.val] } s t

theorem State.request_placesSub {s : State} {p : Port} (ready : Ready s p) {block : State → State × Option Response}
    {u : Subscription}
    (hb : block (s.shiftOut p ((s.port p).requestMiso (5 + 3))) =
      (s.shiftOut p ((s.port p).requestMiso (5 + 3))).placeSub u) :
    SubPlaced p u s (s.request p 5 block) := by
  have table : (s.shiftOut p ((s.port p).requestMiso (5 + 3))).lowestFreeSub = s.lowestFreeSub := rfl
  unfold State.placeSub at hb
  rw [table] at hb
  unfold SubPlaced
  cases lowest : s.lowestFreeSub with
  | none =>
    rw [lowest] at hb
    rw [if_pos (s.lowestFreeSub_eq_none_iff.1 lowest)]
    exact State.request_refused ready 5 _ hb
  | some j =>
    rw [lowest] at hb
    obtain ⟨free, least⟩ := (s.lowestFreeSub_eq_some_iff j).1 lowest
    rw [if_neg fun full => full j free]
    exact ⟨j, free, least, State.request_setsSub ready hb⟩

theorem State.mayHear_channel_eq_false {s : State} {p : Port} {c : ChanNo} :
    s.mayHear p (.channel c) = false ↔ (s.channel c).owner ≠ some p ∧ (s.channel c).shareable = false := by
  unfold State.mayHear
  rw [Bool.or_eq_false_iff, decide_eq_false_iff_not]

theorem State.sourceStands_entry_eq_false {s : State} {i : EntryIx} {inst : BitVec 8} :
    s.sourceStands (.entry i inst) = false ↔ (s.entry i).body = none ∨ (s.entry i).inst ≠ inst := by
  unfold State.sourceStands
  rw [Bool.and_eq_false_iff, decide_eq_false_iff_not, Option.isSome_eq_false_iff, Option.isNone_iff_eq_none]

/-! ## UNSUBSCRIBE (R158) -/

theorem blockUnsubscribe_of_free {a : Byte} {s : State} (h : a.toNat < 24) (free : s.sub ⟨a.toNat, h⟩ = none) (p : Port) :
    blockUnsubscribe p a s = s.refuse .notFound := by
  unfold blockUnsubscribe subOf
  rw [dif_pos h]
  dsimp only
  rw [free]

theorem blockUnsubscribe_of_used {a : Byte} {s : State} {u : Subscription} (h : a.toNat < 24)
    (used : s.sub ⟨a.toNat, h⟩ = some u) (p : Port) :
    blockUnsubscribe p a s =
      if u.subscriber = p then (s.setSub ⟨a.toNat, h⟩ none).answer .ok [] else s.refuse .notOwner := by
  unfold blockUnsubscribe subOf
  rw [dif_pos h]
  dsimp only
  rw [used]

theorem blockUnsubscribe_badArg {a : Byte} (h : ¬ a.toNat < 24) (p : Port) (s : State) :
    blockUnsubscribe p a s = s.refuse .badArg := by
  unfold blockUnsubscribe subOf
  rw [dif_neg h]

/-- Settles O48, each request in the order of its rule. -/
theorem subscribeAndUnsubscribe : Obligations.SubscribeAndUnsubscribe := by
  intro p kind a b kinds level s ready
  refine ⟨⟨_, rfl, ?_⟩, ⟨_, rfl, ?_⟩⟩
  · dsimp only
    by_cases outside : level = 0 ∨ 7 < level.toNat
    · rw [if_pos outside]
      exact State.request_refused ready 5 _ (blockSubscribe_badLevel (levelOf_of_not_mem outside) ..)
    · rw [if_neg outside]
      have block := fun src (source : subSourceOf kind a b kinds = some src) =>
        blockSubscribe_of_source source (levelOf_of_mem outside) p (s.shiftOut p ((s.port p).requestMiso (5 + 3)))
      by_cases channel : kind = 0 ∧ a.toNat < 8 ∧ kinds ≠ 0 ∧ kinds.getLsbD 7 = false
      · rw [dif_pos channel]
        replace block := (block _ (subSourceOf_channel b channel)).trans (if_neg nofun)
        by_cases foreign : (s.channel ⟨a.toNat, channel.2.1⟩).owner ≠ some p ∧
            (s.channel ⟨a.toNat, channel.2.1⟩).shareable = false
        · rw [if_pos foreign]
          exact State.request_refused ready 5 _ (block.trans (if_pos (State.mayHear_channel_eq_false.2 foreign)))
        · rw [if_neg foreign]
          exact State.request_placesSub ready (block.trans (if_neg (mt State.mayHear_channel_eq_false.1 foreign)))
      · rw [dif_neg channel]
        by_cases entry : kind = 1 ∧ a.toNat < 64 ∧ kinds = 0x80
        · rw [dif_pos entry]
          replace block := block _ (subSourceOf_entry b entry)
          by_cases gone : (s.entry ⟨a.toNat, entry.2.1⟩).body = none ∨ (s.entry ⟨a.toNat, entry.2.1⟩).inst ≠ b
          · rw [if_pos gone]
            exact State.request_refused ready 5 _ (block.trans (if_pos (State.sourceStands_entry_eq_false.2 gone)))
          · rw [if_neg gone]
            replace block := block.trans (if_neg (mt State.sourceStands_entry_eq_false.1 gone))
            by_cases foreign : (s.entry ⟨a.toNat, entry.2.1⟩).body.any (fun x => decide (x.owner = p) || x.shareable) = false
            · rw [if_pos foreign]
              exact State.request_refused ready 5 _ (block.trans (if_pos foreign))
            · rw [if_neg foreign]
              exact State.request_placesSub ready (block.trans (if_neg foreign))
        · rw [dif_neg entry]
          exact State.request_refused ready 5 _ (blockSubscribe_badSource (subSourceOf_badArg b channel entry) ..)
  · by_cases index : a.toNat < 24
    · rw [dif_pos index]
      cases used : s.sub ⟨a.toNat, index⟩ with
      | none => exact State.request_refused ready 1 _ (blockUnsubscribe_of_free (s := s.shiftOut p _) index used p)
      | some u =>
        have block := blockUnsubscribe_of_used (s := s.shiftOut p ((s.port p).requestMiso (1 + 3))) index used p
        dsimp only
        by_cases own : u.subscriber = p
        · rw [if_neg (not_not.2 own)]
          exact State.request_setsSub ready (block.trans (if_pos own))
        · rw [if_pos own]
          exact State.request_refused ready 1 _ (block.trans (if_neg own))
    · rw [dif_neg index]
      exact State.request_refused ready 1 _ (blockUnsubscribe_badArg index ..)

end Sys2Proof.Machine
end

section
/-! The digest engine: a DIGEST that begins a walk, the indices it examines, and the response that ends it (R172 to R175). -/

namespace Sys2Proof.Machine

/-! ## DIGEST (R172) -/

theorem scopeOf_eq_of_le {a : Byte} (h : a.toNat ≤ 1) : scopeOf a = some (if a = 1 then .all else .own) := by
  obtain rfl | rfl := Byte.toNat_le_one.1 h <;> rfl

theorem contentOf_eq_of_le {b : Byte} (h : b.toNat ≤ 1) :
    contentOf b = some (if b = 1 then .full else .definition) := by
  obtain rfl | rfl := Byte.toNat_le_one.1 h <;> rfl

theorem contentOf_of_not_le {b : Byte} (h : ¬ b.toNat ≤ 1) : contentOf b = none := by
  unfold contentOf
  rw [if_neg fun zero => h (Byte.toNat_le_one.2 (.inl zero)), if_neg fun one => h (Byte.toNat_le_one.2 (.inr one))]

theorem blockDigest_badArg {a b : Byte} (h : 1 < a.toNat ∨ 1 < b.toNat) (p : Port) (s : State) :
    blockDigest p a b s = s.refuse .badArg := by
  unfold blockDigest
  obtain scope | content := h
  · rw [scopeOf_of_not_le (Nat.not_le.2 scope)]
  · rw [contentOf_of_not_le (Nat.not_le.2 content)]
    cases scopeOf a <;> rfl

theorem blockDigest_of_codes {a b : Byte} (h : ¬ (1 < a.toNat ∨ 1 < b.toNat)) (p : Port) (s : State) :
    blockDigest p a b s =
      if s.digest.isSome = true then s.refuse .busy
      else s.beginWalk p (if a = 1 then .all else .own) (if b = 1 then .full else .definition) := by
  obtain ⟨scope, content⟩ := not_or.1 h
  unfold blockDigest
  rw [scopeOf_eq_of_le (Nat.not_lt.1 scope), contentOf_eq_of_le (Nat.not_lt.1 content)]

theorem State.watched_eq (s : State) (c : Content) :
    s.watched c = if c = .full then s.schedule.fullGen else s.schedule.defGen := by
  cases c <;> rfl

theorem State.newWalk_eq (s : State) (p : Port) (sc : Scope) (b : Byte) :
    s.newWalk p sc (if b = 1 then .full else .definition) =
      { requester := p, scope := sc, content := if b = 1 then .full else .definition,
        startGen := if b = 1 then s.schedule.fullGen else s.schedule.defGen, changed := false, nextIndex := 0,
        crc := 0xFFFFFFFF#32, fed := 0, elapsed := 0 } := by
  unfold State.newWalk
  rw [apply_ite s.watched]
  rfl

theorem State.beginWalk_becomes (s : State) (p : Port) (sc : Scope) (ct : Content) :
    PortBecomes p { s.port p with state := .executing, slot := .pending } s (s.beginWalk p sc ct).1 :=
  PortBecomes.setPort { s with digest := _ } p _

/-- A request whose block begins a walk leaves no response: its port is EXECUTING, with its slot PENDING. -/
theorem State.request_beginsWalk {s : State} {p : Port} (ready : Ready s p) {n : Nat}
    {block : State → State × Option Response} {sc : Scope} {ct : Content}
    (hb : block (s.shiftOut p ((s.port p).requestMiso (n + 3))) =
      (s.shiftOut p ((s.port p).requestMiso (n + 3))).beginWalk p sc ct) :
    OnlyChanges [.digest, .ports] s (s.request p n block) ∧
      (s.request p n block).digest = some (s.newWalk p sc ct) ∧
      PortBecomes p { s.port p with
        state := .executing, slot := .pending, miso := (s.port p).requestMiso (n + 3), transfer := .idle } s
        (s.request p n block) := by
  rw [State.request_ready ready, hb]
  have shifted := PortBecomes.setPort s p { s.port p with miso := (s.port p).requestMiso (n + 3), transfer := .idle }
  have begun := State.beginWalk_becomes (s.shiftOut p ((s.port p).requestMiso (n + 3))) p sc ct
  rw [State.port_shiftOut_own] at begun
  exact ⟨((State.setPort_only ..).mono (by decide)).trans (State.beginWalk_only _ p sc ct), rfl, shifted.trans begun⟩

/-! ## The canonical form of an entry (R174, R191) -/

/-- The bytes that the FULL form of an entry adds to its DEFINITION form. -/
def Body.fullTail (b : Body) : List Byte :=
  [byteOf b.run.code, byteOf b.run.heldFrom] ++ optTime b.run.due ++ optNat 2 b.remaining ++ bytesBE 2 b.fireCount

theorem Body.form_eq (b : Body) (c : Content) :
    b.form c = b.definitionForm ++ (if c = .definition then [] else b.fullTail) := by
  cases c with
  | definition => exact (List.append_nil _).symm
  | full => simp only [Body.form, Body.fullForm, Body.fullTail, List.append_assoc, reduceCtorEq, if_false]

/-! ## An index examined (R173) -/

/-- What a walk feeds of an index: the canonical form of an entry there that is in scope. -/
def Walk.feeds (w : Walk) (body : Option Body) : Option (List Byte) :=
  (body.filter fun b => decide (w.scope = .all ∨ b.owner = w.requester)).map fun b => b.form w.content

/-- A walk that has gone one index further, with what it fed of it. -/
def Walk.advanced (w : Walk) (fed : Option (List Byte)) : Walk :=
  { w with nextIndex := w.nextIndex + 1, crc := crc32Feed w.crc (fed.getD []), fed := w.fed + fed.toList.length }

theorem Walk.examined_eq (w : Walk) (body : Option Body) : w.examined body = w.advanced (w.feeds body) := by
  cases body with
  | none => rfl
  | some b =>
    have takes : w.takes b = decide (w.scope = .all ∨ b.owner = w.requester) := (Bool.decide_or ..).symm
    unfold Walk.examined Walk.feeds
    rw [Option.filter_some, ← takes]
    dsimp only
    cases w.takes b <;> rfl

theorem exec_digestExamineIndex {s : State} (running : s.running = true) :
    exec .digestExamineIndex s = .next s.examineNext := congrArg _ (if_pos running)

theorem State.examineNext_early {s : State} {w : Walk} (walk : s.digest = some w)
    (early : w.elapsed < 20 * (w.nextIndex + 1)) : s.examineNext = s := by
  unfold State.examineNext
  rw [walk]
  exact if_neg (Nat.not_le.2 early)

theorem State.examineNext_due {s : State} {w : Walk} (walk : s.digest = some w) (index : w.nextIndex < 64)
    (due : 20 * (w.nextIndex + 1) ≤ w.elapsed) :
    s.examineNext = s.storeWalk (w.advanced (w.feeds (s.entry ⟨w.nextIndex, index⟩).body)) := by
  unfold State.examineNext
  rw [walk]
  dsimp only
  rw [if_pos due, dif_pos index, Walk.examined_eq]

/-- A walk stored with indices left to examine goes on, and nothing else changes. -/
theorem State.storeWalk_goesOn (s : State) {w : Walk} (more : w.nextIndex < 64) :
    OnlyChanges [.digest] s (s.storeWalk w) ∧ (s.storeWalk w).digest = some w := by
  unfold State.storeWalk
  rw [if_pos more]
  exact ⟨⟨fun q hq => by cases q <;> first | rfl | exact absurd (by decide) hq⟩, rfl⟩

/-! ## The end of a walk (R175) -/

theorem State.storeWalk_ends (s : State) {w : Walk} (last : ¬ w.nextIndex < 64) : s.storeWalk w = s.endWalk w :=
  if_neg last

theorem State.endWalk_becomes (s : State) (w : Walk) :
    PortBecomes w.requester { s.port w.requester with state := .ready, slot := .ready (s.walkResponse w) } s
      (s.endWalk w) :=
  PortBecomes.setPort { s with digest := none } w.requester _

theorem State.walkResponse_eq (s : State) (w : Walk) :
    s.walkResponse w =
      { status := if w.changed = true then .stale else .ok
        fields := [byteOf w.scope.code, byteOf w.content.code] ++ bytesBE 4 (w.crc ^^^ 0xFFFFFFFF#32).toNat ++
          [byteOf w.fed] ++ bytesBE 4 w.startGen.toNat ++
          bytesBE 4 (if w.content = .full then s.schedule.fullGen else s.schedule.defGen).toNat } := by
  have complement : ~~~w.crc = w.crc ^^^ 0xFFFFFFFF#32 := (BitVec.xor_allOnes ..).symm
  unfold State.walkResponse
  rw [complement, State.watched_eq]

/-- Settles O49: the refusals of DIGEST and the walk it begins, then each index by its time and its place in the table. -/
theorem digestBeginsAndExamines : Obligations.DigestBeginsAndExamines := by
  refine ⟨fun p a b s ready => ⟨_, rfl, ?_⟩, fun s w running walk => ⟨_, exec_digestExamineIndex running,
    State.examineNext_early walk, fun index due => ?_⟩⟩
  · by_cases unknown : 1 < a.toNat ∨ 1 < b.toNat
    · rw [if_pos unknown]
      exact State.request_refused ready 2 _ (blockDigest_badArg unknown ..)
    · rw [if_neg unknown]
      have block := blockDigest_of_codes unknown p (s.shiftOut p ((s.port p).requestMiso (2 + 3)))
      by_cases busy : s.digest.isSome = true
      · rw [if_pos busy]
        exact State.request_refused ready 2 _ (block.trans (if_pos busy))
      · rw [if_neg busy]
        obtain ⟨only, begun, port⟩ := State.request_beginsWalk ready (block.trans (if_neg busy))
        exact ⟨only, begun.trans (congrArg some (s.newWalk_eq ..)), port⟩
  · intro form fed next
    have form_eq : form = fun b => b.form w.content := funext fun b => by
      have expanded := b.form_eq w.content
      unfold Body.definitionForm Body.fullTail at expanded
      rw [optTime_eq, optNat_two_eq, Body.lineBytes_eq, Body.recordBytes_eq] at expanded
      exact expanded.symm
    have next_eq : next = w.advanced (w.feeds (s.entry ⟨w.nextIndex, index⟩).body) := by
      show w.advanced (Option.map form _) = _
      rw [form_eq]
      rfl
    rw [State.examineNext_due walk index due, ← next_eq]
    refine ⟨fun more => s.storeWalk_goesOn (w := next) (Nat.succ_lt_succ more), fun last => ?_⟩
    have ended : ¬ next.nextIndex < 64 := Nat.not_lt.2 (Nat.le_of_eq (congrArg (· + 1) last.symm))
    have response := s.walkResponse_eq next
    have port := s.endWalk_becomes next
    rw [response] at port
    rw [State.storeWalk_ends s ended]
    exact ⟨s.endWalk_only next, rfl, port⟩

end Sys2Proof.Machine
end

section
/-! The master ports' own requests, the status byte, and the state after reset (R183, R184, R188). -/

namespace Sys2Proof.Machine

/-! ## The status byte (R188) -/

/-- The status byte is the sum of its fields: the bits of each are those of the byte. -/
theorem PortUnit.statusByte_bits (u : PortUnit) :
    (u.statusByte &&& 0x03 = BitVec.ofNat 8 u.slot.code) ∧
    u.statusByte.getLsbD 2 = decide (u.state = .executing) ∧ u.statusByte.getLsbD 3 = u.notice ∧
    u.statusByte.getLsbD 4 = decide (u.causes ≠ 0) ∧
    u.statusByte.getLsbD 5 = false ∧ u.statusByte.getLsbD 6 = false ∧ u.statusByte.getLsbD 7 = false := by
  have bits : ∀ (slot : Fin 3) (executing notice none : Bool),
      let b := BitVec.ofNat 8 (slot.val + (if executing = true then 4 else 0) + (if notice = true then 8 else 0) +
        (if none = true then 0 else 16))
      b &&& 0x03 = BitVec.ofNat 8 slot.val ∧ b.getLsbD 2 = executing ∧ b.getLsbD 3 = notice ∧ b.getLsbD 4 = (!none) ∧
        b.getLsbD 5 = false ∧ b.getLsbD 6 = false ∧ b.getLsbD 7 = false := by decide
  have code : u.slot.code < 3 := by unfold Slot.code; split <;> decide
  have := bits ⟨u.slot.code, code⟩ (decide (u.state = .executing)) u.notice (decide (u.causes = 0))
  simp only [decide_eq_true_eq, ← decide_not] at this
  exact this

/-- Settles O8. -/
theorem statusByteShowsPort : Obligations.StatusByteShowsPort := by
  intro u
  obtain ⟨slot, rest⟩ := u.statusByte_bits
  refine ⟨slot.trans ?_, rest⟩
  cases u.slot <;> rfl

/-! ## IDENTIFY and READ_RESET_CAUSE (R183, R184) -/

/-- Settles O14. -/
theorem identifyReportsPart : Obligations.IdentifyReportsPart := fun _ _ ready =>
  ⟨_, rfl, State.request_reported ready 0 _ rfl⟩

theorem blockReadResetCause_eq (p : Port) (s : State) :
    blockReadResetCause p s =
      (s.setPort p { s.port p with causes := 0 }).answer .ok [(s.port p).causes.setWidth 8] := rfl

/-- Settles O15: the set is emptied in the unit whose transaction is over, and the answer goes to its slot. -/
theorem resetCausesReadAndEmptied : Obligations.ResetCausesReadAndEmptied := by
  intro p s ready
  have block := blockReadResetCause_eq p (s.shiftOut p ((s.port p).requestMiso (0 + 3)))
  rw [State.port_shiftOut_own] at block
  exact ⟨_, rfl, State.request_setsPort ready block⟩

/-! ## The state after reset (R20, R185) -/

theorem State.port_reset (p : Port) : State.reset.port p = { PortUnit.reset with state := .ready, causes := 3#5 } := by
  simp [State.port, State.reset, Vector.get_eq_getElem]

theorem State.entry_reset (i : EntryIx) : State.reset.entry i = { inst := 0, body := none } := by
  simp [State.entry, State.reset, Schedule.reset, Vector.get_eq_getElem]

theorem State.line_reset (l : LineNo) : State.reset.line l = Line.reset := by
  simp [State.line, State.reset, Vector.get_eq_getElem]

theorem State.channel_reset (c : ChanNo) : State.reset.channel c = Channel.reset := by
  simp [State.channel, State.reset, Vector.get_eq_getElem]

theorem State.sub_reset (j : SubIx) : State.reset.sub j = none := by
  simp [State.sub, State.reset, Vector.get_eq_getElem]

theorem Channel.reset_consistent (c : ChanNo) : Channel.reset.Consistent c :=
  ⟨fun _ => ⟨rfl, rfl⟩, by decide, by decide, by decide, nofun, nofun⟩

/-- After reset every port is READY with an empty slot, no transaction and no walk, and the part runs. -/
theorem State.reset_portsSound : PortsSound State.reset where
  units p := by rw [State.port_reset]; exact ⟨nofun, ⟨nofun, nofun⟩, nofun⟩
  holder p _ := by rw [State.port_reset]; nofun
  walk p := by rw [State.port_reset]; exact ⟨nofun, nofun⟩
  resting := nofun

theorem Backup.reset_inRange : TimeInRange Backup.reset := ⟨Nat.zero_le _, fun _ => ⟨rfl, rfl, rfl⟩, nofun⟩

theorem State.reset_tableOk : TableOk State.reset :=
  .of_empty Backup.reset_inRange fun i => congrArg Entry.body (State.entry_reset i)

theorem State.reset_lineSound (l : LineNo) : State.reset.LineSound l where
  consistent := by rw [State.line_reset]; exact Line.reset_consistent
  owned i b hb := by rw [State.entry_reset] at hb; cases hb

theorem State.reset_channelSound (c : ChanNo) : State.reset.ChannelSound c where
  consistent := by rw [State.channel_reset]; exact Channel.reset_consistent c
  owned i b hb := by rw [State.entry_reset] at hb; cases hb

/-- Settles O52, property by property. -/
theorem invariantsHoldAtReset : Obligations.InvariantsHoldAtReset :=
  ⟨fun p => PortUnit.QueueOrdered.of_empty (congrArg PortUnit.queue (State.port_reset p)),
    portsConsistent_iff.2 State.reset_portsSound, .of_idle Backup.reset_inRange rfl rfl rfl,
    .of_monitor_off rfl nofun nofun, State.reset_tableOk.tableConsistent, State.reset_tableOk.dueAhead,
    linesConsistent_iff.2 State.reset_lineSound, channelsConsistent_iff.2 State.reset_channelSound,
    fun j _ used => nomatch (State.sub_reset j).symm.trans used⟩

end Sys2Proof.Machine
end

section
/-! The frames of the requests: how a reader finds each field where the frame's bytes put it, and the checks of R180 on a
transaction's bytes (R180, R187, R189, R192). -/

namespace Sys2Proof

/-! ## Reading numbers back (R187) -/

theorem foldl_bytesBE (k n a : Nat) :
    (bytesBE k n).foldl (fun a b => a * 256 + b.toNat) a = a * 256 ^ k + n % 256 ^ k := by
  induction k generalizing a with
  | zero => simp [bytesBE, Nat.mod_one]
  | succ k ih =>
    rw [bytesBE, List.foldl_cons, ih, BitVec.toNat_ofNat, Nat.mod_pow_succ (b := 256), Nat.pow_succ]
    ring

theorem natBE_bytesBE (k n : Nat) : natBE (bytesBE k n) = n % 256 ^ k := by
  rw [natBE, foldl_bytesBE, Nat.zero_mul, Nat.zero_add]

/-- A word whose bytes stand at an offset is read back from there. -/
theorem wordAt_of_bytes {n k off : Nat} {f : List Byte} {v : BitVec n} (bytes : (f.drop off).take k = bytesBE k v.toNat)
    (width : n = 8 * k := by rfl) : wordAt n k off f = v := by
  have range : v.toNat < 256 ^ k := by
    rw [show 256 ^ k = 2 ^ n by rw [width, pow_mul]; rfl]
    exact v.isLt
  rw [wordAt, bytes, natBE_bytesBE, Nat.mod_eq_of_lt range, BitVec.ofNat_toNat, BitVec.setWidth_eq]

theorem wordAt_add (n k off i : Nat) (f : List Byte) : wordAt n k (off + i) f = wordAt n k i (f.drop off) := by
  rw [wordAt, wordAt, List.drop_drop]

theorem byteAt_add (off i : Nat) (f : List Byte) : byteAt (off + i) f = byteAt i (f.drop off) := by
  simp [byteAt, List.getD_eq_getElem?_getD, List.getElem?_drop]

/-! ## Definition blocks (R189) -/

theorem blockAt_drop (kind : Byte) (off : Nat) (f : List Byte) : blockAt kind off f = blockAt kind 0 (f.drop off) := by
  have byte : byteAt off f = byteAt 0 (f.drop off) := byteAt_add off 0 f
  have word : ∀ n k, wordAt n k off f = wordAt n k 0 (f.drop off) := fun n k => wordAt_add n k off 0 f
  unfold blockAt
  simp only [byteAt_add, wordAt_add, byte, word, Nat.zero_add]

/-- A block of a kind that has a code is read back from its bytes. -/
theorem blockAt_bytes {d : DefBlock} (known : ∀ k, d ≠ .unknown k) (rest : List Byte) :
    blockAt d.kind 0 (d.bytes ++ rest) = d := by
  cases d with
  | atTime s m => exact congrArg₂ _ (wordAt_of_bytes rfl) (wordAt_of_bytes rfl)
  | every s m p => exact congr (congrArg₂ _ (wordAt_of_bytes rfl) (wordAt_of_bytes rfl)) (wordAt_of_bytes rfl)
  | calendar mo d w h mi s o => exact congrArg _ (wordAt_of_bytes rfl)
  | after c k d pol => exact congrArg (DefBlock.after c k · pol) (wordAt_of_bytes rfl)
  | unknown k => exact absurd rfl (known k)

theorem blockLength_kind {d : DefBlock} (known : ∀ k, d ≠ .unknown k) : blockLength d.kind = some d.length := by
  cases d with
  | unknown k => exact absurd rfl (known k)
  | _ => rfl

theorem blockLength_of_unknown {k : Byte} (h : 3 < k.toNat) : blockLength k = none := by
  unfold blockLength
  split
  case h_5 => rfl
  all_goals omega

theorem DefBlock.length_le (d : DefBlock) : d.length ≤ 11 := by cases d <;> simp [DefBlock.length]

/-! ## The fields of each request (R189, R192) -/

/-- The fields of ARM_ENTRY that follow its definition block (R189). -/
def ArmFields.tail (f : ArmFields) : List Byte :=
  [f.lateOk, f.remaining.presence] ++ bytesBE 2 f.remaining.value.toNat ++
    [f.linePresence, f.line, f.action, f.record.presence, f.record.value, f.shareable] ++ bytesBE 4 f.tag.toNat ++ [f.keep]

theorem ArmFields.bytes_eq (f : ArmFields) : f.bytes = f.defn.kind :: (f.defn.bytes ++ f.tail) := by
  simp [ArmFields.bytes, ArmFields.tail]

theorem ArmFields.bytes_length (f : ArmFields) : f.bytes.length = f.defn.length + 16 := by
  simp [f.bytes_eq, ArmFields.tail, Laws.FieldLength.bytesBE_length, Laws.FieldLength.defBlock_length]

theorem retimeBytes_length (a b late : Byte) (d : DefBlock) :
    ([a, b, d.kind] ++ d.bytes ++ [late]).length = d.length + 4 := by
  simp [Laws.FieldLength.defBlock_length]

theorem ArmFields.drop_bytes (f : ArmFields) : f.bytes.drop (f.defn.length + 1) = f.tail := by
  rw [f.bytes_eq, List.drop_succ_cons, ← Laws.FieldLength.defBlock_length, List.drop_left]

theorem armAt_bytes {f : ArmFields} (known : ∀ k, f.defn ≠ .unknown k) : armAt f.defn.length f.bytes = f := by
  have kind : byteAt 0 f.bytes = f.defn.kind := by rw [f.bytes_eq]; rfl
  have block : blockAt (byteAt 0 f.bytes) 1 f.bytes = f.defn := by
    rw [kind, blockAt_drop, f.bytes_eq]
    exact blockAt_bytes known f.tail
  have byte : ∀ i, byteAt (f.defn.length + 1 + i) f.bytes = byteAt i f.tail := fun i => by
    rw [byteAt_add, f.drop_bytes]
  have word : ∀ n k i, wordAt n k (f.defn.length + 1 + i) f.bytes = wordAt n k i f.tail := fun n k i => by
    rw [wordAt_add, f.drop_bytes]
  have remaining : wordAt 16 2 2 f.tail = f.remaining.value := wordAt_of_bytes rfl
  have tag : wordAt 32 4 10 f.tail = f.tag := wordAt_of_bytes rfl
  calc armAt f.defn.length f.bytes
      = { defn := f.defn, lateOk := byteAt 0 f.tail, remaining := ⟨byteAt 1 f.tail, f.remaining.value⟩,
          linePresence := byteAt 4 f.tail, line := byteAt 5 f.tail, action := byteAt 6 f.tail,
          record := ⟨byteAt 7 f.tail, byteAt 8 f.tail⟩, shareable := byteAt 9 f.tail, tag := f.tag,
          keep := byteAt 14 f.tail } := by
        rw [← remaining, ← tag, ← word, ← word]
        simp only [← byte]
        rw [armAt, block]
    _ = f := rfl

/-- No definition block of the command is of a kind without a code (R180 step 4). -/
def Instr.KindsKnown (i : Instr) : Prop :=
  (∀ p f k, i = .armEntry p f → f.defn ≠ .unknown k) ∧ ∀ p a b k late, i ≠ .retimeEntry p a b (.unknown k) late

/-- A request whose definition block is of a kind without a code is one of the two that carry a block. -/
theorem Instr.not_kindsKnown {i : Instr} (h : ¬ i.KindsKnown) :
    (∃ p f k, i = .armEntry p f ∧ f.defn = .unknown k) ∨ ∃ p a b k late, i = .retimeEntry p a b (.unknown k) late := by
  simpa only [Instr.KindsKnown, not_and_or, not_forall, not_not, exists_prop] using h

theorem requestOf_armEntry {f : ArmFields} (known : ∀ k, f.defn ≠ .unknown k) (p : Port) :
    requestOf p 0x30 f.bytes = some (.armEntry p f) := by
  have length : blockLength (byteAt 0 f.bytes) = some f.defn.length := by
    rw [show byteAt 0 f.bytes = f.defn.kind by rw [f.bytes_eq]; rfl, blockLength_kind known]
  show some (Instr.armEntry p (armAt ((blockLength (byteAt 0 f.bytes)).getD 0) f.bytes)) = _
  rw [length, Option.getD_some, armAt_bytes known]

theorem requestOf_retimeEntry {d : DefBlock} (known : ∀ k, d ≠ .unknown k) (p : Port) (a b late : Byte) :
    requestOf p 0x31 ([a, b, d.kind] ++ d.bytes ++ [late]) = some (.retimeEntry p a b d late) := by
  set f := [a, b, d.kind] ++ d.bytes ++ [late] with hf
  have kind : byteAt 2 f = d.kind := rfl
  have last : byteAt (3 + d.length) f = late := by
    rw [byteAt_add, hf]
    show byteAt d.length (d.bytes ++ [late]) = late
    rw [← Laws.FieldLength.defBlock_length]
    simp [byteAt]
  show some (Instr.retimeEntry p a b (blockAt (byteAt 2 f) 3 f) (byteAt (3 + (blockLength (byteAt 2 f)).getD 0) f)) = _
  rw [kind, blockLength_kind known, Option.getD_some, last, blockAt_drop]
  exact congrArg (fun x => some (Instr.retimeEntry p a b x late)) (blockAt_bytes known [late])

/-- The code and the fields of a request spell that request (R187, R189, R192). -/
theorem requestOf_requestBytes {i : Instr} {code : Byte} {f : List Byte} (h : i.requestBytes = some (code, f))
    (known : i.KindsKnown) : requestOf i.port code f = some i := by
  obtain ⟨armKnown, retimeKnown⟩ := known
  cases i
  case armEntry p g => cases h; exact requestOf_armEntry (fun k => armKnown p g k rfl) p
  case retimeEntry p a b d late =>
    cases h
    exact requestOf_retimeEntry (fun k e => retimeKnown p a b k late (e ▸ rfl)) p a b late
  case claimAuthority p k => cases h; exact congrArg (fun v => some (Instr.claimAuthority p ⟨_, v⟩)) (wordAt_of_bytes rfl)
  case setKey p k => cases h; exact congrArg (fun v => some (Instr.setKey p ⟨_, v⟩)) (wordAt_of_bytes rfl)
  case setTime p s m =>
    cases h; exact congrArg₂ (fun x y => some (Instr.setTime p x y)) (wordAt_of_bytes rfl) (wordAt_of_bytes rfl)
  case step p a => cases h; exact congrArg (fun v => some (Instr.step p v)) (wordAt_of_bytes rfl)
  case slew p a => cases h; exact congrArg (fun v => some (Instr.slew p v)) (wordAt_of_bytes rfl)
  case configureLine p l idle w limit =>
    cases h
    exact congrArg₂ (fun x y => some (Instr.configureLine p l idle x y)) (wordAt_of_bytes rfl) (wordAt_of_bytes rfl)
  case setReload p c r => cases h; exact congrArg (fun v => some (Instr.setReload p c v)) (wordAt_of_bytes rfl)
  all_goals cases h <;> rfl

/-! ## The checks (R180) -/

/-- The status that a transaction which fails a check leaves (R180). -/
def Transaction.failure : Transaction → Option Machine.Status
  | .frameError => some .frameError
  | .badRequest => some .badRequest
  | .badArg => some .badArg
  | .nothing | .fetch _ | .request _ => none

end Sys2Proof
end

section
/-! The checks of R180 on a transaction's bytes, and what a transaction does at its port: a request lost, a frame refused, a
frame that is a request, and a fetch (R178 to R181). -/

namespace Sys2Proof.Machine

/-! ## The form, the CRC and the code (R180 steps 1 to 3) -/

theorem decodeFrame_misshapen {code : Byte} (request : code ≠ 0) (p : Port) {tail : List Byte} {incomplete : Bool}
    (form : incomplete = true ∨ ∀ len rest, tail = len :: rest → rest.length ≠ len.toNat + 1) :
    decodeFrame p (code :: tail) incomplete = .frameError := by
  unfold decodeFrame
  dsimp only
  rw [if_neg request]
  cases tail with
  | nil => rfl
  | cons len rest =>
    refine if_pos ?_
    obtain rfl | length := form
    · rfl
    · have short : (code :: len :: rest).length ≠ len.toNat + 3 := fun e =>
        length len rest rfl (Nat.succ_injective (Nat.succ_injective e))
      rw [decide_eq_true short, Bool.or_true]

theorem decodeFrame_whole {code len : Byte} (request : code ≠ 0) {f : List Byte} (length : f.length = len.toNat) (p : Port)
    (crc : Byte) :
    decodeFrame p (code :: len :: (f ++ [crc])) false =
      if crc ≠ crc8 (code :: len :: f) then .frameError
      else (lengthRule code).elim .badRequest fun rule => checkLength p code rule f := by
  have whole : ¬ (false || decide ((code :: len :: (f ++ [crc])).length ≠ len.toNat + 3)) = true := by simp [length]
  have fields : (f ++ [crc]).take len.toNat = f := by rw [← length, List.take_left]
  have last : byteAt len.toNat (f ++ [crc]) = crc := by simp [byteAt, ← length]
  unfold decodeFrame
  dsimp only
  rw [if_neg request, if_neg whole, fields, last]
  cases lengthRule code <;> exact ite_congr (propext ne_comm) (fun _ => rfl) fun _ => rfl

theorem decodeFrame_frameOf {code : Byte} (request : code ≠ 0) {f : List Byte} (short : f.length < 256) (p : Port) :
    decodeFrame p (frameOf code f) false =
      (lengthRule code).elim .badRequest fun rule => checkLength p code rule f := by
  have length : f.length = (BitVec.ofNat 8 f.length).toNat := (Nat.mod_eq_of_lt short).symm
  exact (decodeFrame_whole request length p _).trans (if_neg (not_not.2 rfl))

/-! ## The length (R180 step 4) -/

theorem checkLength_fixed {f : List Byte} {n : Nat} (other : f.length ≠ n) (p : Port) (code : Byte) :
    checkLength p code (.fixed n) f = .frameError := if_neg other

theorem checkLength_arm_empty {f : List Byte} (empty : f.length = 0) (p : Port) (code : Byte) :
    checkLength p code .armByKind f = .frameError := if_pos empty

theorem checkLength_arm_kind {f : List Byte} (kinded : 0 < f.length) (p : Port) (code : Byte) :
    checkLength p code .armByKind f = (blockLength (byteAt 0 f)).elim .badArg fun n =>
      checkLength p code (.fixed (n + 16)) f := by
  refine (if_neg (Nat.ne_of_gt kinded)).trans ?_
  cases blockLength (byteAt 0 f) <;> rfl

theorem checkLength_retime_short {f : List Byte} (short : f.length < 3) (p : Port) (code : Byte) :
    checkLength p code .retimeByKind f = .frameError := if_pos short

theorem checkLength_retime_kind {f : List Byte} (kinded : 3 ≤ f.length) (p : Port) (code : Byte) :
    checkLength p code .retimeByKind f = (blockLength (byteAt 2 f)).elim .badArg fun n =>
      checkLength p code (.fixed (n + 4)) f := by
  refine (if_neg (Nat.not_lt.2 kinded)).trans ?_
  cases blockLength (byteAt 2 f) <;> rfl

/-! ## The frame of a request (R189, R192) -/

/-- The field bytes of every request have the length that the request code table gives its code. -/
theorem requestBytes_length (i : Instr) : Laws.FieldLength.Statement i := by
  cases i
  case armEntry p f => exact Laws.FieldLength.armEntry p f
  case retimeEntry p a b d late => exact Laws.FieldLength.retimeEntry p a b d late
  all_goals first
    | exact Laws.FieldLength.of_fixed rfl rfl
    | exact Laws.FieldLength.of_none rfl

theorem lengthRule_fixed_le {code : Byte} {n : Nat} (h : lengthRule code = some (.fixed n)) : n ≤ 9 := by
  unfold lengthRule at h
  split at h <;> cases h <;> decide

/-- The code and the fields of a request fit a frame (R180). -/
theorem requestBytes_fit {i : Instr} {code : Byte} {f : List Byte} (h : i.requestBytes = some (code, f)) :
    code ≠ 0 ∧ f.length < 256 := by
  have known : lengthRule code ≠ none → code ≠ 0 := fun listed zero => listed (by rw [zero]; rfl)
  obtain fixed | ⟨arm, -, g, -, length⟩ | ⟨retime, -, -, -, d, -, -, length⟩ := requestBytes_length i code f h
  · have := lengthRule_fixed_le fixed
    exact ⟨known (by rw [fixed]; nofun), by omega⟩
  · have := g.defn.length_le
    exact ⟨known (by rw [arm]; nofun), by omega⟩
  · have := d.length_le
    exact ⟨known (by rw [retime]; nofun), by omega⟩

/-- The fields of a request are of the length that their code asks for, and spell it (R180 steps 4 and 5). -/
theorem checkLength_request {i : Instr} {code : Byte} {f : List Byte} (h : i.requestBytes = some (code, f))
    (known : i.KindsKnown) :
    (lengthRule code).elim .badRequest (fun rule => checkLength i.port code rule f) = .request i := by
  have spelled : checkLength i.port code (.fixed f.length) f = .request i := by
    unfold checkLength
    rw [requestOf_requestBytes h known]
    exact if_pos rfl
  obtain fixed | ⟨arm, p, g, rfl, length⟩ | ⟨retime, p, a, b, d, late, rfl, length⟩ := requestBytes_length i code f h
  · rw [fixed]
    exact spelled
  · rw [arm, Option.elim_some, checkLength_arm_kind (by omega)]
    have kind : blockLength (byteAt 0 f) = some g.defn.length := by
      cases h
      rw [g.bytes_eq]
      exact blockLength_kind fun k => known.1 p g k rfl
    rw [kind, Option.elim_some, ← length]
    exact spelled
  · rw [retime, Option.elim_some, checkLength_retime_kind (by cases h; simp)]
    have kind : blockLength (byteAt 2 f) = some d.length := by
      cases h
      exact blockLength_kind fun k e => known.2 p a b k late (e ▸ rfl)
    rw [kind, Option.elim_some, ← length]
    exact spelled

/-- The frame of a request is checked by its code and its fields. -/
theorem decodeFrame_encodeFrame {i : Instr} {bytes : List Byte} (h : encodeFrame i = some bytes) :
    ∃ code f, i.requestBytes = some (code, f) ∧ bytes.length = f.length + 3 ∧
      decodeFrame i.port bytes false =
        (lengthRule code).elim .badRequest fun rule => checkLength i.port code rule f := by
  obtain ⟨⟨code, f⟩, request, rfl⟩ := Option.map_eq_some_iff.1 h
  obtain ⟨proper, short⟩ := requestBytes_fit request
  exact ⟨code, f, request, by simp [frameOf], decodeFrame_frameOf proper short i.port⟩

/-- Settles O4: the fields are read back where they were put, and they are as long as the code asks for. -/
theorem requestFramesRoundTrip : Obligations.RequestFramesRoundTrip := by
  intro i bytes _ encoded armKnown retimeKnown
  obtain ⟨code, f, request, -, decoded⟩ := decodeFrame_encodeFrame encoded
  rw [decoded, checkLength_request request ⟨armKnown, retimeKnown⟩]

/-! ## A request at its port (R178 to R180) -/

/-- Every request is its block's, taken at its port with the field bytes of its frame. -/
theorem exec_request {i : Instr} {code : Byte} {f : List Byte} (h : i.requestBytes = some (code, f)) :
    ∃ block, ∀ s, exec i s = .next (s.request i.port f.length block) := by
  cases i
  case armEntry p g =>
    cases h
    rw [ArmFields.bytes_length]
    exact ⟨_, fun _ => rfl⟩
  case retimeEntry p a b d late =>
    cases h
    rw [retimeBytes_length]
    exact ⟨_, fun _ => rfl⟩
  all_goals cases h <;> exact ⟨_, fun _ => rfl⟩

/-- The status byte that a request frame has shown says EXECUTING exactly where the frame is discarded (R179, R188). -/
theorem discards_iff_shownStatus {s : State} (sound : PortsSound s) {p : Port} (heard : ¬ Ignores s p) :
    Discards s p ↔ (s.port p).shownStatus.getLsbD 2 = true := by
  obtain ⟨attached, going⟩ := not_or.1 heard
  have unit := sound.units p
  unfold Discards PortUnit.shownStatus Transfer.saysExecuting
  cases transfer : (s.port p).transfer with
  | abandoned => exact absurd transfer going
  | idle =>
    rw [PortUnit.statusByte_executing]
    simp
  | begun status slot =>
    obtain ⟨same, bit⟩ := unit.sampled status slot transfer
    have told : (s.port p).state = .executing → status.getLsbD 2 = true := fun executing => by
      obtain now | ⟨pending, -⟩ := same
      · exact bit.2 (now.trans (unit.pending.2 executing))
      · exact bit.2 pending
    cases state : (s.port p).state with
    | resetHold => exact absurd state attached
    | ready => simp
    | executing => simpa using told state

/-- Settles O3: whatever its block, a request that is lost ends its transaction alone. -/
theorem requestsLostAtBusyOrHeldPort : Obligations.RequestsLostAtBusyOrHeldPort := by
  intro i code f s request
  obtain ⟨block, run⟩ := exec_request request
  refine ⟨fun busy => ⟨_, run s, ?_⟩, fun held => ⟨_, run s, ?_⟩, fun sound heard =>
    discards_iff_shownStatus (portsConsistent_iff.1 sound) heard⟩
  · rw [State.request_discarded busy]
    exact ⟨State.setPort_only .., PortBecomes.setPort ..⟩
  · rw [State.request_ignored held]
    exact ⟨State.setPort_only .., PortBecomes.setPort ..⟩

/-! ## A frame that is a request (R180 step 5) -/

theorem dispatchRequest_eq_exec {i : Instr} {code : Byte} {f : List Byte} (h : i.requestBytes = some (code, f)) (s : State) :
    dispatchRequest i s = exec i s := by
  cases i <;> cases h <;> rfl

theorem State.refuseFrame_ready {s : State} {p : Port} (h : Ready s p) (n : Nat) (x : Status) :
    s.refuseFrame p n x =
      (s.shiftOut p ((s.port p).requestMiso n)).setSlot p (.ready { status := x, fields := [] }) := by
  simp only [State.refuseFrame, h.hears]

theorem State.refuseFrame_discarded {s : State} {p : Port} (h : Discards s p) (n : Nat) (x : Status) :
    s.refuseFrame p n x = s.shiftOut p ((s.port p).requestMiso n) := by
  simp only [State.refuseFrame, h.hears]

theorem State.refuseFrame_ignored {s : State} {p : Port} (h : Ignores s p) (n : Nat) (x : Status) :
    s.refuseFrame p n x = s.shiftOut p (List.replicate n 0xFF) := by
  simp only [State.refuseFrame, h.hears]

/-- A request that its block refuses in every state is a frame refused with that status. -/
theorem State.request_eq_refuseFrame (s : State) (p : Port) (n : Nat) {x : Status}
    {block : State → State × Option Response} (refuses : ∀ u, block u = u.refuse x) :
    s.request p n block = s.refuseFrame p (n + 3) x := by
  obtain ready | busy | held := ready_or_discards_or_ignores s p
  · exact (State.request_answered ready n (refuses _)).trans (State.refuseFrame_ready ready ..).symm
  · exact (State.request_discarded busy n block).trans (State.refuseFrame_discarded busy ..).symm
  · exact (State.request_ignored held n block).trans (State.refuseFrame_ignored held ..).symm

theorem armAcceptable_of_unknown {f : ArmFields} {k : Byte} (h : f.defn = .unknown k) : armAcceptable f = false := by
  unfold armAcceptable
  rw [h]
  rfl

/-- Settles O6: a frame of a kind that has a code is the request it spells; one of another kind is refused by the frame
check as its block refuses it. -/
theorem wellFormedFrameRunsRequest : Obligations.WellFormedFrameRunsRequest := by
  intro i bytes s formed encoded
  obtain ⟨code, f, request, size, decoded⟩ := decodeFrame_encodeFrame encoded
  show s.transact i.port bytes.length (decodeFrame i.port bytes false) = exec i s
  rw [decoded, size]
  by_cases known : i.KindsKnown
  · rw [checkLength_request request known]
    exact dispatchRequest_eq_exec request s
  · obtain ⟨p, g, k, rfl, unknown⟩ | ⟨p, a, b, k, late, rfl⟩ := Instr.not_kindsKnown known
    · cases request
      simp only [Instr.wellFormed, ArmFields.wellFormed, unknown, DefBlock.wellFormed, Bool.and_eq_true,
        decide_eq_true_eq] at formed
      obtain ⟨⟨⟨above, -⟩, -⟩, -⟩ := formed
      have kind : blockLength (byteAt 0 g.bytes) = none := by
        rw [g.bytes_eq, unknown]
        exact blockLength_of_unknown above
      have refuses := blockArmEntry_of_not_acceptable (p := p) (armAcceptable_of_unknown unknown)
      rw [show lengthRule 0x30 = some .armByKind from rfl, Option.elim_some,
        checkLength_arm_kind (by rw [g.bytes_length]; omega), kind, g.bytes_length]
      exact congrArg _ (s.request_eq_refuseFrame p (g.defn.length + 16) refuses).symm
    · cases request
      have kind : blockLength k = none := blockLength_of_unknown (of_decide_eq_true formed)
      rw [show lengthRule 0x31 = some .retimeByKind from rfl, Option.elim_some, checkLength_retime_kind (Nat.le_add_left ..)]
      rw [show byteAt 2 ([a, b, (DefBlock.unknown k).kind] ++ (DefBlock.unknown k).bytes ++ [late]) = k from rfl, kind]
      exact congrArg _ (s.request_eq_refuseFrame p 4 fun _ => rfl).symm

/-! ## A frame that the checks refuse (R180) -/

/-- What a frame of k bytes after its first that fails a check with a status leaves at its port. -/
def FrameFailed (p : Port) (k : Nat) (x : Status) (s t : State) : Prop :=
  OnlyChanges [.ports] s t ∧
    (Ready s p → PortBecomes p { s.port p with
      slot := .ready { status := x, fields := [] }, miso := (s.port p).shownStatus :: List.replicate k 0xFF,
      transfer := .idle } s t) ∧
    (Discards s p → PortBecomes p { s.port p with
      miso := (s.port p).shownStatus :: List.replicate k 0xFF, transfer := .idle } s t) ∧
    (Ignores s p → PortBecomes p { s.port p with miso := 0xFF :: List.replicate k 0xFF, transfer := .idle } s t)

/-- A transaction's end with a response for its port (R180). -/
theorem State.answered_becomes (s : State) (p : Port) (bs : List Byte) (x : Slot) :
    PortBecomes p { s.port p with slot := x, miso := bs, transfer := .idle } s ((s.shiftOut p bs).setSlot p x) :=
  ⟨by rw [State.port_setSlot, if_pos rfl, State.port_shiftOut_own],
    fun q hq => by rw [State.port_setSlot, if_neg hq, State.port_shiftOut, if_neg hq]⟩

theorem State.refuseFrame_failed (s : State) (p : Port) (k : Nat) (x : Status) :
    FrameFailed p k x s (s.refuseFrame p (k + 1) x) := by
  refine ⟨s.refuseFrame_only p (k + 1) x, fun ready => ?_, fun busy => ?_, fun held => ?_⟩
  · rw [State.refuseFrame_ready ready]
    exact s.answered_becomes ..
  · rw [State.refuseFrame_discarded busy]
    exact PortBecomes.setPort ..
  · rw [State.refuseFrame_ignored held]
    exact PortBecomes.setPort ..

theorem State.transact_failure {tr : Transaction} {x : Status} (h : tr.failure = some x) (s : State) (p : Port) (n : Nat) :
    s.transact p n tr = .next (s.refuseFrame p n x) := by
  cases tr <;> cases h <;> rfl

theorem dispatchRequest_answers (i : Instr) (s : State) : ∃ t, dispatchRequest i s = .next t := by
  cases i <;> exact ⟨_, rfl⟩

theorem State.transact_answers (s : State) (p : Port) (n : Nat) (tr : Transaction) : ∃ t, s.transact p n tr = .next t := by
  cases tr with
  | request i => exact dispatchRequest_answers i s
  | _ => exact ⟨_, rfl⟩

/-- Settles O5, check by check in the order of R180. -/
theorem frameFailuresLeaveStatus : Obligations.FrameFailuresLeaveStatus := by
  refine ⟨fun p incomplete s => ⟨_, rfl, State.setPort_only .., PortBecomes.setPort ..⟩,
    fun p code tail incomplete s request => ?_⟩
  obtain ⟨t, run⟩ := s.transact_answers p (code :: tail).length (decodeFrame p (code :: tail) incomplete)
  refine ⟨t, run, ?_⟩
  have failed : ∀ {x}, (decodeFrame p (code :: tail) incomplete).failure = some x → FrameFailed p tail.length x s t :=
    fun failure => by
      cases (State.transact_failure failure s p _).symm.trans run
      exact s.refuseFrame_failed p tail.length _
  refine ⟨fun form => failed (by rw [decodeFrame_misshapen request p form]; rfl), ?_⟩
  rintro len f crc rfl rfl length
  have whole := decodeFrame_whole request length p crc
  refine ⟨fun wrong => failed (by rw [whole, if_pos wrong]; rfl), fun right => ?_⟩
  rw [if_neg (not_not.2 right)] at whole
  have ruled : ∀ {rule x}, lengthRule code = some rule → (checkLength p code rule f).failure = some x →
      FrameFailed p (len :: (f ++ [crc])).length x s t := fun rule failure =>
    failed (by rw [whole, rule]; exact failure)
  refine ⟨fun unlisted => failed (by rw [whole, unlisted]; rfl),
    fun n fixed other => ruled fixed (by rw [checkLength_fixed other]; rfl),
    fun arm => ⟨fun empty => ruled arm ?_, fun kinded unknown => ruled arm ?_, fun n kinded kind other => ruled arm ?_⟩,
    fun retime => ⟨fun short => ruled retime ?_, fun kinded unknown => ruled retime ?_,
      fun n kinded kind other => ruled retime ?_⟩⟩
  · rw [checkLength_arm_empty empty]; rfl
  · rw [checkLength_arm_kind kinded, unknown]; rfl
  · rw [checkLength_arm_kind kinded, kind, Option.elim_some, checkLength_fixed other]; rfl
  · rw [checkLength_retime_short short]; rfl
  · rw [checkLength_retime_kind kinded, unknown]; rfl
  · rw [checkLength_retime_kind kinded, kind, Option.elim_some, checkLength_fixed other]; rfl

/-! ## Fetches (R179, R181) -/

/-- A fetch shifts out the status byte and what the slot held, and 0xFF after it (R181). -/
theorem PortUnit.fetchMiso_eq (u : PortUnit) (n : Nat) :
    u.fetchMiso n = (u.shownStatus :: u.shownSlot.bytes ++ List.replicate n 0xFF).take n := by
  unfold PortUnit.fetchMiso
  rw [List.take_append, List.take_replicate, Nat.min_eq_left (Nat.sub_le ..)]

theorem State.fetchAt_ignored {s : State} {p : Port} (h : Ignores s p) {n : Nat} (bytes : 0 < n) :
    s.fetchAt p n = s.shiftOut p (List.replicate n 0xFF) := by
  simp only [State.fetchAt, if_neg (Nat.ne_of_gt bytes), h.hears]

theorem State.fetchAt_heard {s : State} {p : Port} (h : ¬ Ignores s p) {n : Nat} (bytes : 0 < n) :
    s.fetchAt p n = s.setPort p ((s.port p).fetched n) := by
  unfold State.fetchAt
  rw [if_neg (Nat.ne_of_gt bytes)]
  obtain ready | busy | held := ready_or_discards_or_ignores s p
  · simp only [ready.hears]
  · simp only [busy.hears]
  · exact absurd held h

/-- What a transaction samples as CS goes low, or at its own instant where no command has told of that (R179, R181). -/
theorem PortUnit.shown_of_sampled {u : PortUnit} {status : Byte} {slot : Slot}
    (h : u.transfer = .begun status slot ∨ u.transfer = .idle ∧ status = u.statusByte ∧ slot = u.slot) :
    u.shownStatus = status ∧ u.shownSlot = slot := by
  unfold PortUnit.shownStatus PortUnit.shownSlot
  obtain begun | ⟨idle, rfl, rfl⟩ := h
  · rw [begun]; exact ⟨rfl, rfl⟩
  · rw [idle]; exact ⟨rfl, rfl⟩

theorem Response.bytes_length (r : Response) : r.bytes.length = r.fields.length + 3 := by simp [Response.bytes]

theorem PortUnit.fetchedSlot_ready {u : PortUnit} {r : Response} (h : u.shownSlot = .ready r) (n : Nat) :
    u.fetchedSlot n = if r.fields.length + 4 ≤ n then .empty else u.slot := by
  unfold PortUnit.fetchedSlot
  rw [h, show r.fields.length + 4 = 1 + r.bytes.length by rw [r.bytes_length]; omega]

theorem PortUnit.fetchedSlot_kept {u : PortUnit} (h : u.shownSlot = .pending ∨ u.shownSlot = .empty) (n : Nat) :
    u.fetchedSlot n = u.slot := by
  unfold PortUnit.fetchedSlot
  obtain pending | empty := h
  · rw [pending]
  · rw [empty]

/-- A fetch with bytes at a port that does not ignore it, by what was sampled for it. -/
theorem State.fetchAt_becomes {s : State} {p : Port} (heard : ¬ Ignores s p) {n : Nat} (bytes : 0 < n) {status : Byte}
    {slot x : Slot} (shownStatus : (s.port p).shownStatus = status) (shownSlot : (s.port p).shownSlot = slot)
    (left : (s.port p).fetchedSlot n = x) :
    PortBecomes p { s.port p with
      slot := x, miso := (status :: slot.bytes ++ List.replicate n 0xFF).take n, transfer := .idle } s (s.fetchAt p n) := by
  rw [State.fetchAt_heard heard bytes, ← shownStatus, ← shownSlot, ← PortUnit.fetchMiso_eq, ← left]
  exact PortBecomes.setPort ..

theorem State.setPort_self (s : State) (p : Port) : s.setPort p (s.port p) = s := by
  unfold State.setPort State.port
  simp [Vector.get_eq_getElem]

/-- CS is low after a fetch of no byte, and high after one of a byte or more (log 9). -/
theorem State.fetchAt_cs (s : State) (p : Port) (n : Nat) :
    ((s.fetchAt p n).port p).cs = if n = 0 then .low else .high := by
  by_cases noByte : n = 0
  · rw [State.fetchAt, if_pos noByte, if_pos noByte, State.port_setPort, if_pos rfl]
    exact PortUnit.opened_cs _
  · have bytes := Nat.pos_of_ne_zero noByte
    rw [if_neg noByte]
    by_cases held : Ignores s p
    · rw [State.fetchAt_ignored held bytes, State.shiftOut_cs]
    · rw [State.fetchAt_heard held bytes, State.port_setPort, if_pos rfl]; rfl

/-- Settles O7: CS going low samples what the port shows, and a fetch with bytes shows what was sampled. -/
theorem fetchReturnsSlot : Obligations.FetchReturnsSlot := by
  intro p n s
  refine ⟨_, rfl, s.fetchAt_only p n, s.fetchAt_cs p n, PortUnit.misoLevel_of_cs_high, ?_, ?_, ?_, ?_⟩
  · rintro rfl high
    rw [← PortUnit.opened_high high]
    exact PortBecomes.setPort ..
  · rintro rfl low
    show s.setPort p (s.port p).opened = s
    rw [PortUnit.opened_low low, State.setPort_self]
  · intro bytes held
    rw [State.fetchAt_ignored held bytes]
    exact PortBecomes.setPort ..
  · intro status slot bytes attached sampled
    have heard : ¬ Ignores s p := fun held => by
      obtain hold | gone := held
      · exact attached hold
      · rw [gone] at sampled
        obtain begun | ⟨idle, -⟩ := sampled
        · cases begun
        · cases idle
    obtain ⟨shownStatus, shownSlot⟩ := PortUnit.shown_of_sampled sampled
    have becomes := fun x => State.fetchAt_becomes (x := x) heard bytes shownStatus shownSlot
    refine ⟨?_, ?_, ?_⟩
    · rintro r rfl
      exact becomes _ (PortUnit.fetchedSlot_ready shownSlot n)
    · rintro rfl
      exact becomes _ (PortUnit.fetchedSlot_kept (.inl shownSlot) n)
    · rintro rfl
      exact becomes _ (PortUnit.fetchedSlot_kept (.inr shownSlot) n)

end Sys2Proof.Machine
end

section
/-! One step and the queue of commands: the front command is run on the rest of the queue, and no command stops the part or
touches the queue. -/

namespace Sys2Proof.Machine

/-! ## A step (the queue of commands) -/

@[simp] theorem State.withPending_withPending (s : State) (q r : List Instr) :
    (s.withPending q).withPending r = s.withPending r := rfl

theorem step_of_pending_nil {s : State} (h : s.pending = []) : step s = .next s := by
  unfold step
  rw [h]

theorem step_of_pending_cons {s : State} {c : Instr} {rest : List Instr} (h : s.pending = c :: rest) :
    step s = exec c (s.withPending rest) := by
  unfold step
  rw [h]

/-- Settles O1: the queue's two shapes; the rest put in place of the queue leaves nothing of what stood there before. -/
theorem stepRunsFrontCommand : Obligations.StepRunsFrontCommand := by
  refine ⟨fun c s rest => ?_, fun s => step_of_pending_nil⟩
  rw [step_of_pending_cons (s.withPending_pending (c :: rest)), State.withPending_withPending]

/-! ## Every command -/

/-- Every command answers a next state: a transaction's bytes whatever the frame checks find in them, and each other
command by its own definition. -/
theorem exec_answers (c : Instr) (s : State) : ∃ t, exec c s = .next t := by
  cases c with
  | badRequest p bytes incomplete => exact s.transact_answers p bytes.length (decodeFrame p bytes incomplete)
  | _ => exact ⟨_, rfl⟩

/-- The queue of commands is no part that a command can change. -/
theorem pending_notMem_commandParts (c : Instr) : Part.pending ∉ commandParts c := by
  cases c <;> dsimp only [commandParts] <;> decide

theorem exec_pending {c : Instr} {s t : State} (h : exec c s = .next t) : t.pending = s.pending :=
  (exec_changes h).keeps .pending (pending_notMem_commandParts c)

/-- Settles O2: the answer is exec_answers, and the queue lies outside the parts that the command can change. -/
theorem commandsAnswerAndKeepQueue : Obligations.CommandsAnswerAndKeepQueue := by
  intro c s
  obtain ⟨t, run⟩ := exec_answers c s
  exact ⟨t, run, exec_pending run⟩

end Sys2Proof.Machine
end
